-- ==== Sys2Proof/Word.lean ====
section
/-! DEFINITION. The word types of the RHJ-6400 model: bytes, bus lines, slots, packets, records, and the three
wrapping counts of the manual (arrival stamps, stamps, station milliseconds). A multi-byte value is a bit vector whose
byte `k` is bits `8k+7 .. 8k`: byte 0 of a line, slot, packet or record is its least significant byte. -/

namespace Sys2Proof

/-- One byte. -/
abbrev Byte := BitVec 8
/-- One 64-byte line of either bus port (00_scope 5.3). -/
abbrev Line := BitVec 512
/-- The 64 byte enables of a line write: bit `k` enables byte `k`. -/
abbrev Enables := BitVec 64
/-- One 192-byte slot: three lines, line 0 lowest (00_scope 5.3). -/
abbrev SlotData := BitVec 1536
/-- One 188-byte transport packet: slot bytes 4..191. -/
abbrev Packet := BitVec 1504
/-- The 256 bytes of one posting slot, as its four line reads return them. -/
abbrev RecordData := BitVec 2048
/-- A 36-bit bus address. -/
abbrev Addr := BitVec 36
/-- Stamp ticks modulo 2^33: presentation stamps, splice times, return times, offsets (Table 3-1). -/
abbrev Stamp := BitVec 33
/-- Arrival stamps: station ticks modulo 2^32 (Table 3-1). -/
abbrev Arrival := BitVec 32
/-- Station milliseconds, a wrapping 32-bit value (00_scope 5.4). -/
abbrev Millis := BitVec 32
/-- A 13-bit stream label. -/
abbrev Label := BitVec 13
/-- Lane numbers 0..63. -/
abbrev LaneId := Fin 64
/-- Clip ids 0..511. -/
abbrev ClipId := Fin 512
/-- Order indexes 0..255. -/
abbrev OrderId := Fin 256
/-- Alert ids 0..3. -/
abbrev AlertId := Fin 4
/-- Posting slots 0..15. -/
abbrev PostSlotId := Fin 16

end Sys2Proof
end

