-- ==== Sys2Proof/Syntax.lean ====
section
/-! DEFINITION. The commands of the RHJ-6400: one constructor per row of spec/opcode_table.json, in the table's order,
with the operands the row's event carries into the part. -/

namespace Sys2Proof

/-- The 39 steps of the part. Addresses are the 36-bit line addresses of the bus; `data` and `err` on a return are the
line the DRAM side returns and its read error indication; `record` on a posting is the four lines of its posting slot. -/
inductive Instr where
  /-- PIN_RESET (R154): the reset pin is asserted. -/
  | pinReset
  /-- PIN_RESET_RELEASE (R155): the reset pin is released with the strap pins at `straps`. -/
  | pinResetRelease (straps : BitVec 8)
  /-- RING_WRITE (R9): `feedFirst` says which of the two ingest events of R108, the feed monitor's or the parser's, is
  taken first when the write completes a slot. -/
  | ringWrite (addr : Addr) (data : Line) (enables : Enables) (feedFirst : Bool)
  /-- WATCH_WINDOW_WRITE (R62). -/
  | watchWindowWrite (addr : Addr) (data : Line) (enables : Enables)
  /-- GO_WRITE (R158). -/
  | goWrite (addr : Addr) (data : Line) (enables : Enables)
  /-- READ_INDEX_WRITE (R178). -/
  | readIndexWrite (addr : Addr) (data : Line) (enables : Enables)
  /-- UPSTREAM_WRITE (R6). -/
  | upstreamWrite (addr : Addr) (data : Line) (enables : Enables)
  /-- WRITE_COMPLETION (R8): the completion of a forwarded upstream write, with its error indication. -/
  | writeCompletion (err : Bool)
  /-- SLOT_CLAIM (R13). -/
  | slotClaim (addr : Addr)
  /-- SLOT_LINE_READ (R15). -/
  | slotLineRead (addr : Addr)
  /-- CONTROL_WINDOW_READ (R6). -/
  | controlWindowRead (addr : Addr)
  /-- UPSTREAM_READ (R6). -/
  | upstreamRead (addr : Addr)
  /-- ARBITER_GRANT (R7). -/
  | arbiterGrant
  /-- SLOT_CONTENT_PART (R16). -/
  | slotContentPart (data : Line) (err : Bool)
  /-- OVERLAY_READ_RETURN (R157). -/
  | overlayReadReturn (data : Line) (err : Bool)
  /-- UPSTREAM_READ_RETURN (R8). -/
  | upstreamReadReturn (data : Line) (err : Bool)
  /-- POSTING_TAKE (R161). -/
  | postingTake
  /-- POSTING_MEMORY_FAULT (R162): bit `k` of `errs` says that record line `k` returned the error indication. -/
  | postingMemoryFault (errs : BitVec 4)
  /-- LANE_CONFIGURE (R2). -/
  | laneConfigure (record : RecordData)
  /-- LANE_ENABLE (R165). -/
  | laneEnable (record : RecordData)
  /-- LANE_DISABLE (R166). -/
  | laneDisable (record : RecordData)
  /-- CLIP_DECLARE (R59). -/
  | clipDeclare (record : RecordData)
  /-- CLIP_CLEAR (R60). -/
  | clipClear (record : RecordData)
  /-- ORDER_LOAD (R79). -/
  | orderLoad (record : RecordData)
  /-- ORDER_CANCEL (R94). -/
  | orderCancel (record : RecordData)
  /-- SCHEDULE (R96). -/
  | schedule (record : RecordData)
  /-- ALERT_START (R120). -/
  | alertStart (record : RecordData)
  /-- ALERT_END (R122). -/
  | alertEnd (record : RecordData)
  /-- REPORT_SETUP (R173). -/
  | reportSetup (record : RecordData)
  /-- COUNTERS_CLEAR (R167). -/
  | countersClear (record : RecordData)
  /-- PART_RESET (R168): its record has no fields. -/
  | partReset (record : RecordData)
  /-- FETCH_ISSUE (R68). -/
  | fetchIssue
  /-- FETCH_COMPLETE (R69): the three lines of the fetch; bit `k` of `errs` says that line `k` returned the error
  indication. -/
  | fetchComplete (data : SlotData) (errs : BitVec 3)
  /-- RECORD_WRITE_ISSUE (R175). -/
  | recordWriteIssue
  /-- RECORD_WRITE_COMPLETE (R176, R177): the completion, with its error indication. -/
  | recordWriteComplete (err : Bool)
  /-- STALE_TIMER_EXPIRY (R29). -/
  | staleTimerExpiry (lane : LaneId)
  /-- LOSS_TIMER_EXPIRY (R104). -/
  | lossTimerExpiry (lane : LaneId)
  /-- ALERT_DURATION_EXPIRY (R123). -/
  | alertDurationExpiry (id : AlertId)
  /-- COALESCE_TIMER_EXPIRY (R180). -/
  | coalesceTimerExpiry
  deriving DecidableEq, Repr

end Sys2Proof
end

