-- ==== Sys2Proof/Config.lean ====
section
/-! DEFINITION. The values the manual leaves open, as constants without a body: no proof can see what they are, so a
statement that involves one holds whatever it is. -/

namespace Sys2Proof.Config

/-- What a 4-byte count field shows for an insertion count of 2^32 or more: R87 keeps the three counts exact and states
no limit for them, and Table 12-8 and section 12.3 give each 4 bytes. DESIGN CHOICE (log entry 7): a free value. -/
opaque wideCount : Nat → BitVec 32

/-- Whether a mark byte of 2..255 reads as set, for the clip mark of COUNTERS CLEAR and the urgent default mark of
REPORT SETUP: Table 12-4 gives neither any codes and R167 and R172 refuse neither. DESIGN CHOICE (log entry 8). -/
opaque markByte : BitVec 8 → Bool

/-- The value that stands for a last count of none in the pending rows of Table 8-3: R150 can mark an entry pending whose
last count is none, and R149 states no count for it. DESIGN CHOICE (log entry 9): a free value for each line 0 the memory
returned and place of the label map. -/
opaque openLastCount : Line → Nat → BitVec 4

end Sys2Proof.Config
end

