-- ==== Sys2Proof/Machine/State.lean ====
section
/-! DEFINITION. The state of the RHJ-6400, block by block, as plain data, with the value every piece takes after reset.
An absent thing (an OFF lane's context, an EMPTY clip's fields) is an `Option` that is `none`. -/

namespace Sys2Proof.Machine

/-! ## The lane record (Table 1-1) -/

/-- The role of a lane. -/
inductive Role where
  | output
  | source
  deriving DecidableEq, Repr

/-- The eight kinds of a label map or label list entry (12.2). -/
inductive StreamKind where
  | video
  | audio1
  | audio2
  | audio3
  | data1
  | data2
  | data3
  | clock
  deriving DecidableEq, Repr

/-- PASS or REBASE. -/
inductive StampMode where
  | pass
  | rebase
  deriving DecidableEq, Repr

/-- One entry of a label map or label list. -/
structure LabelEntry where
  kind : StreamKind
  label : Label
  deriving DecidableEq, Repr

/-- A lane's loss source. -/
inductive LossSource where
  | filler
  | slate (clip : ClipId)
  | backup (lane : LaneId) (mode : StampMode) (lag : Nat)
  deriving DecidableEq, Repr

/-- The lane record of Table 1-1. -/
structure LaneRecord where
  role : Role
  base : Nat
  slots : Nat
  zone : Fin 16
  clockLabel : Label
  cueLabel : Option Label
  labelMap : List LabelEntry
  playDelay : Nat
  nominal : Nat
  staleLimit : Nat
  lossLimit : Nat
  recovery : Nat
  lateGrace : Nat
  deadline : Nat
  lossSource : LossSource
  deriving DecidableEq, Repr

/-! ## The lane tracker's context of an ON lane (chapter 1) -/

/-- The ingest cursor (1.4). -/
inductive IngestCursor where
  | unsynchronised
  | synchronised (slot line : Nat)
  deriving DecidableEq, Repr

/-- A decision awaiting its content part (R13, R137). -/
structure Decision where
  slot : Nat
  fresh : Bool
  deriving DecidableEq, Repr

/-- The prepared copy: each line replaced with data of its own (`some`) or pass (`none`) (R16, R151). -/
structure PreparedCopy where
  line0 : Option Line
  line1 : Option Line
  line2 : Option Line
  deriving DecidableEq, Repr

/-- The tracker context of an ON lane. `play` is the play cursor's expected slot, or none while unsynchronised. -/
structure Tracker where
  ingest : IngestCursor
  assembly : SlotData
  history : List Arrival
  estimate : Nat
  fill : Nat
  lead : Nat
  play : Option Nat
  lastDecided : Option Nat
  prevStamp : Option Arrival
  copy : Option PreparedCopy
  awaiting : List Decision
  deriving DecidableEq, Repr

/-! ## Clock model and recent cues (chapter 2) -/

/-- The anchor pair (C, A) of 2.2. -/
structure Anchor where
  clock : Nat
  stamp : Arrival
  deriving DecidableEq, Repr

/-- The clock model: NONE, VALID or STALE, with the anchor and the last capture time where there is one. The stale timer
runs from the last capture time exactly while the model is VALID (Table 2-2). -/
inductive ClockModel where
  | unset
  | valid (anchor : Anchor) (captured : Millis)
  | stale (anchor : Anchor) (captured : Millis)
  deriving DecidableEq, Repr

/-- The kinds of cue (Table 2-3). -/
inductive CueKind where
  | start
  | startOpen
  | ret
  | cancel
  deriving DecidableEq, Repr

/-- The refusal reasons of a cue (R101). -/
inductive CueRefusal where
  | malformed
  | noOrder
  | late
  | noClock
  | pendingFull
  | cancelLate
  | unmatched
  deriving DecidableEq, Repr

/-- An entry of the recent-cue list (R37); an outcome of none is ACCEPTED. -/
structure RecentCue where
  event : BitVec 32
  kind : CueKind
  outcome : Option CueRefusal
  deriving DecidableEq, Repr

/-! ## Insertion context of a lane (chapter 5) -/

/-- START, START_OPEN or SCHEDULED (Table 5-3). -/
inductive BreakKind where
  | start
  | startOpen
  | scheduled
  deriving DecidableEq, Repr

/-- The waiting cue record (Table 5-3). -/
structure WaitingCue where
  order : OrderId
  event : BitVec 32
  kind : BreakKind
  splice : Stamp
  ret : Stamp
  deriving DecidableEq, Repr

/-- A CLIPS insertion's cursor: a playlist position and packet, the pad and packet, or exhausted. -/
inductive ClipCursor where
  | playlist (place packet : Nat)
  | pad (packet : Nat)
  | exhausted
  deriving DecidableEq, Repr

/-- The condition flags of R91; DISTURBED is added when the record is produced. -/
structure Conditions where
  interrupted : Bool
  feedLostDuring : Bool
  clockStale : Bool
  disturbed : Bool
  fetchFault : Bool
  deriving DecidableEq, Repr

/-- The active insertion record (Table 5-5). `cursor` is none for a LIVE order. -/
structure ActiveInsertion where
  order : OrderId
  event : BitVec 32
  kind : BreakKind
  splice : Stamp
  ret : Stamp
  timeIn : Stamp
  cursor : Option ClipCursor
  offset : Option Stamp
  entered : List ClipId
  suspended : Bool
  served : Nat
  shadow : Nat
  underrun : Nat
  flags : Conditions
  deriving DecidableEq, Repr

/-! ## Feed state (chapter 6) -/

/-- The feed states of Table 6-1. -/
inductive FeedState where
  | live
  | lost
  | recovering
  deriving DecidableEq, Repr

/-- An open outage record. -/
structure Outage where
  start : Stamp
  served : BitVec 32
  underrun : BitVec 32
  deriving DecidableEq, Repr

/-- The feed monitor's state of an ON lane (R103). `lossTimer` is the station milliseconds of its last start or restart,
or none while stopped. -/
structure Feed where
  state : FeedState
  lossTimer : Option Millis
  good : Nat
  captureSeen : Bool
  outage : Option Outage
  deriving DecidableEq, Repr

/-! ## Alert stack (chapter 7) -/

/-- An alert stack entry (Table 7-2), with the clashing mark of R126. -/
structure StackEntry where
  id : AlertId
  cursor : Nat
  offset : Option Stamp
  lastCount : BitVec 4
  countdown : Nat
  due : Bool
  wait : Nat
  clash : Bool
  deriving DecidableEq, Repr

/-! ## Prefetch (chapter 4) -/

/-- The identity of a lane's fetch source (R63). -/
inductive FetchId where
  | alert (id : AlertId)
  | insertion (order : OrderId)
  | loss
  deriving DecidableEq, Repr

/-- Where a fetched packet comes from (Table 4-4). -/
inductive Origin where
  | clip (id : ClipId) (packet : Nat)
  | tap (lane : LaneId) (slot : Nat)
  deriving DecidableEq, Repr

/-- An entry of a prefetch queue or interject buffer (Table 4-4). -/
structure QueueEntry where
  packet : Packet
  stamp : Arrival
  origin : Origin
  runStart : Bool
  fault : Bool
  deriving DecidableEq, Repr

/-- A tap's position: placed at the next source slot with its distance behind the ingest cursor, or waiting for its source
to resynchronise (R74, R76). -/
inductive TapPos where
  | waiting
  | placed (next behind : Nat)
  deriving DecidableEq, Repr

/-- A tap on a SOURCE lane (4.6). `fresh` says that the next packet fetched is the first since the placement. -/
structure Tap where
  source : LaneId
  lag : Nat
  pos : TapPos
  fresh : Bool
  deriving DecidableEq, Repr

/-- A fetch cursor (R65): a looping clip (alert or slate), an insertion's position, or a tap. -/
inductive FetchCursor where
  | loop (clip : ClipId) (packet : Nat) (fresh : Bool)
  | insertion (order : OrderId) (pos : ClipCursor) (fresh : Bool)
  | tap (t : Tap)
  deriving DecidableEq, Repr

/-- The interject buffer's own fetch cursor (R73). -/
structure InterjectCursor where
  clip : ClipId
  packet : Nat
  fresh : Bool
  deriving DecidableEq, Repr

/-- The source fetcher's state of an ON lane. `lastWasInterject` is the kind of fetch the lane last issued, none since
enable (R68). -/
structure Fetcher where
  source : Option FetchId
  cursor : Option FetchCursor
  queue : List QueueEntry
  interject : List QueueEntry
  interjectCursor : Option InterjectCursor
  lastWasInterject : Option Bool
  deriving DecidableEq, Repr

/-! ## Slot selector (chapter 8) -/

/-- The classes of Table 8-1. -/
inductive SourceClass where
  | alert
  | insertion
  | loss
  | network
  | filler
  deriving DecidableEq, Repr

/-- A label map entry's continuity record (R146). -/
structure Continuity where
  last : Option (BitVec 4)
  delta : BitVec 4
  pending : Bool
  deriving DecidableEq, Repr

/-- The loss-source run state (R140): the slate cursor and the current run's offset. -/
structure LossRun where
  cursor : Nat
  offset : Option Stamp
  deriving DecidableEq, Repr

/-- The slot selector's state of an ON lane. -/
structure Selector where
  served : Option SourceClass
  away : Bool
  continuity : List Continuity
  lossRun : Option LossRun
  deriving DecidableEq, Repr

/-! ## Lanes -/

/-- Everything a lane holds only while it is ON. -/
structure OnLane where
  track : Tracker
  clock : ClockModel
  cues : List RecentCue
  feed : Feed
  active : Option ActiveInsertion
  waiting : Option WaitingCue
  stack : List StackEntry
  fetch : Fetcher
  sel : Selector
  deriving DecidableEq, Repr

/-- The 21 lane counters, in the order of Table 9-6 read row by row. -/
inductive Counter where
  | overrun
  | lostSync
  | jump
  | strayRead
  | readFault
  | noMarker
  | badHeader
  | errored
  | badReference
  | timebaseChange
  | stale
  | notACue
  | malformedCue
  | duplicateCue
  | unparsedStamp
  | underrun
  | fetchFault
  | slip
  | flap
  | displaced
  | unmapped
  deriving DecidableEq, Repr

/-- The 18 sticky lane flags, in the order of Table 9-6 read row by row. -/
inductive Flag where
  | overrun
  | lostSync
  | jump
  | strayRead
  | readFault
  | noMarker
  | badHeader
  | errored
  | badReference
  | timebaseChanged
  | stale
  | malformedCue
  | underrun
  | fetchFault
  | slip
  | flap
  | clash
  | unmapped
  deriving DecidableEq, Repr

/-- A lane: its record while configured, its counters and sticky flags (a flag word, bit 0 first), its two fetch
generations, and its ON context while it is ON. -/
structure Lane where
  record : Option LaneRecord
  counts : Vector (BitVec 32) 21
  flags : BitVec 18
  queueGen : BitVec 8
  interjectGen : BitVec 8
  on : Option OnLane
  deriving DecidableEq, Repr

/-! ## Clips, orders, alerts -/

/-- The fields of a READY clip (Table 4-1). -/
structure ClipBody where
  address : Nat
  length : Nat
  first : Stamp
  labels : List LabelEntry
  deriving DecidableEq, Repr

/-- A clip table entry: READY exactly when it has a body (R58). -/
structure Clip where
  body : Option ClipBody
  locks : Nat
  disturbed : Bool
  readFault : Bool
  deriving DecidableEq, Repr

/-- The order states of Table 5-2. -/
inductive OrderState where
  | empty
  | armed
  | bound
  | active
  | spent
  deriving DecidableEq, Repr

/-- An order's source (Table 5-1). -/
inductive OrderSource where
  | clips (playlist : List ClipId) (pad : Option ClipId)
  | live (lane : LaneId) (mode : StampMode) (lag : Nat)
  deriving DecidableEq, Repr

/-- The loaded fields of an order (Table 5-1). -/
structure OrderBody where
  lane : LaneId
  matchValue : BitVec 32
  careMask : BitVec 32
  uses : Nat
  source : OrderSource
  maxLength : Nat
  deriving DecidableEq, Repr

/-- An order table entry. -/
structure Order where
  state : OrderState
  body : Option OrderBody
  remaining : Nat
  unlimited : Bool
  abort : Bool
  deriving DecidableEq, Repr

/-- OVERRIDE, or INTERJECT with its label and interval. -/
inductive AlertMode where
  | override
  | interject (label : Label) (interval : Nat)
  deriving DecidableEq, Repr

/-- ENDED or EXPIRED. -/
inductive AlertCause where
  | ended
  | expired
  deriving DecidableEq, Repr

/-- The loaded fields of an alert (Table 7-1). -/
structure AlertBody where
  zones : BitVec 16
  mode : AlertMode
  clip : ClipId
  duration : Nat
  deriving DecidableEq, Repr

/-- An alert table entry (R118). -/
structure Alert where
  inForce : Bool
  body : Option AlertBody
  start : Millis
  timer : Bool
  served : BitVec 32
  underrun : BitVec 32
  laneCount : Nat
  fetchFault : Bool
  lastCause : Option AlertCause
  deriving DecidableEq, Repr

/-! ## Posting engine (chapter 9) -/

/-- The posting slot states of Table 9-3. -/
inductive PostState where
  | idle
  | pending
  | working
  | done
  deriving DecidableEq, Repr

/-- The results of Table 9-5. -/
inductive PostResult where
  | ok
  | badKind
  | badField
  | badState
  | inUse
  | locked
  | overlap
  | notReady
  | memoryFault
  | dropped
  deriving DecidableEq, Repr

/-- A posting slot. -/
structure PostSlot where
  state : PostState
  kind : BitVec 8
  tag : BitVec 16
  result : PostResult
  detail : Nat
  doubled : Bool
  deriving DecidableEq, Repr

/-- The WORKING slot and how many of its four record lines have been granted. -/
structure Working where
  slot : PostSlotId
  granted : Nat
  deriving DecidableEq, Repr

/-! ## Report writer (chapter 10) -/

/-- The record kinds of Table 10-1. -/
inductive RecordKind where
  | insertComplete
  | insertShort
  | insertTruncated
  | insertAborted
  | cueRefused
  | feedLost
  | feedRestored
  | alertStart
  | alertEnd
  deriving DecidableEq, Repr

/-- An as-run record as its producer fills it (Table 12-8 without the gap field). -/
structure AsRun where
  kind : RecordKind
  lane : Nat
  flags : BitVec 8
  order : Nat
  firstClip : Nat
  event : BitVec 32
  timeIn : Stamp
  timeOut : Stamp
  served : Nat
  underrun : Nat
  ms : Millis
  deriving DecidableEq, Repr

/-- The setup of a SET report ring. `urgent` has bit `k - 1` for kind code `k`. -/
structure RingSetup where
  base : Nat
  size : Nat
  threshold : Nat
  coalesce : Nat
  urgent : BitVec 9
  deriving DecidableEq, Repr

/-- A record write from its issue to its completion: its line write, the kind and gap it carries, whether the arbiter has
granted it, and whether a REPORT SETUP has abandoned it (R173). -/
structure RecordWrite where
  kind : RecordKind
  gap : Nat
  addr : Addr
  data : Line
  enables : Enables
  granted : Bool
  abandoned : Bool
  deriving DecidableEq, Repr

/-- The coalesce timer (R180). -/
inductive CoalesceTimer where
  | stopped
  | running (start : Millis)
  | expired
  deriving DecidableEq, Repr

/-- The report writer. `orphans` counts the record writes granted before a reset whose completions are still to be
discarded (R182). `attention` is the attention line, true while asserted. -/
structure Report where
  setup : Option RingSetup
  w : Nat
  h : Nat
  gap : Nat
  queue : List AsRun
  flight : Option RecordWrite
  orphans : Nat
  urgentPos : Option Nat
  timer : CoalesceTimer
  badIndex : Bool
  attention : Bool
  deriving DecidableEq, Repr

/-! ## Memory path (1.3) -/

/-- How the data of an upstream read is served when it returns: unchanged, by a content part, from a lane's prepared copy
(line 0, 1 or 2), or overlaid at a window offset. -/
inductive Serve where
  | plain
  | claim (lane : LaneId)
  | copied (lane : LaneId) (line : Nat)
  | overlay (offset : Nat)
  deriving DecidableEq, Repr

/-- An upstream transaction waiting for the memory port. `go` marks the go write that made a posting slot PENDING. -/
inductive UpTxn where
  | write (addr : Addr) (data : Line) (enables : Enables) (go : Option PostSlotId)
  | read (addr : Addr) (serve : Serve)
  deriving DecidableEq, Repr

/-- A fetch: its lane, buffer, generation, origin, slot address and run-start mark. `dead` marks a fetch issued before a
reset. -/
structure FetchTag where
  lane : LaneId
  interject : Bool
  gen : BitVec 8
  origin : Origin
  addr : Nat
  runStart : Bool
  dead : Bool
  deriving DecidableEq, Repr

/-- A read issued on the memory port whose data has not returned. A posting line marked `dead` was issued before a pin
reset. `last` marks the line of a fetch at whose return the fetch completes. -/
inductive MemRead where
  | up (addr : Addr) (serve : Serve)
  | posting (line : Nat) (dead : Bool)
  | fetch (tag : FetchTag) (last : Bool)
  deriving DecidableEq, Repr

/-- A transaction on the memory port. -/
inductive MemTxn where
  | write (addr : Addr) (data : Line) (enables : Enables)
  | read (addr : Addr)
  deriving DecidableEq, Repr

/-- A line returned at the upstream port, with its read error indication. -/
structure UpLine where
  addr : Addr
  data : Line
  err : Bool
  deriving DecidableEq, Repr

/-- The reset pin: held, or released with the strap value S latched (R153). -/
inductive Pin where
  | held
  | released (straps : BitVec 8)
  deriving DecidableEq, Repr

/-- Why the machine stops. -/
inductive Fault where
  /-- Raised by the read-return commands and FETCH_COMPLETE when the next data the DRAM side can return is not for such a
  read, or for none. Safe: R6 and R8 give the part no behaviour for data it has not asked for. -/
  | unsolicitedData
  /-- Raised by WRITE_COMPLETION and RECORD_WRITE_COMPLETE with no write of theirs outstanding. Safe: R8 and R176 give
  the part no behaviour for a completion of no write. -/
  | unsolicitedCompletion
  deriving DecidableEq, Repr

/-- Why a command has no meaning in a state. -/
inductive Refusal where
  /-- Raised by an arm of `exec` that has no meaning yet. Safe. -/
  | notModelled (mnemonic : String)
  /-- Raised by a posting command when the posting engine has no WORKING posting of its kind whose four record lines are
  the next data to return (R161): the event cannot occur there. Safe. -/
  | noPostingDue
  /-- Raised by POSTING_MEMORY_FAULT when it marks no faulted line, which R162 needs. Safe. -/
  | noFaultedLine
  /-- Raised by PIN_RESET_RELEASE while the reset pin is not held (R155). Safe. -/
  | pinNotHeld
  deriving DecidableEq, Repr

/-- The whole part. -/
structure State where
  pending : List Instr
  pin : Pin
  stationTime : BitVec 48
  msPhase : Nat
  stationMs : Millis
  upOrder : List UpTxn
  memReads : List MemRead
  upWrites : Nat
  runCount : Nat
  memPort : Option MemTxn
  upPort : Option UpLine
  lanes : Vector Lane 64
  clips : Vector Clip 512
  scanPos : LaneId
  fetchWait : Option (FetchTag × Nat)
  orders : Vector Order 256
  alerts : Vector Alert 4
  forceList : List AlertId
  slots : Vector PostSlot 16
  queue : List PostSlotId
  working : Option Working
  report : Report
  deriving DecidableEq, Repr

/-! ## Reset values -/

/-- A lane after either reset: OFF, unconfigured, counters 0, flags clear, generations 0 (Table 1-4, Table 4-6). -/
def Lane.reset : Lane :=
  { record := none, counts := Vector.replicate 21 0, flags := 0, queueGen := 0, interjectGen := 0, on := none }

/-- A clip entry after either reset (R58). -/
def Clip.reset : Clip := { body := none, locks := 0, disturbed := false, readFault := false }

/-- An order after either reset, and an order made EMPTY (R78). -/
def Order.reset : Order :=
  { state := .empty, body := none, remaining := 0, unlimited := false, abort := false }

/-- An alert entry after either reset (R118). -/
def Alert.reset : Alert :=
  { inForce := false, body := none, start := 0, timer := false, served := 0, underrun := 0, laneCount := 0,
    fetchFault := false, lastCause := none }

/-- A posting slot after pin reset (Table 9-1). -/
def PostSlot.reset : PostSlot :=
  { state := .idle, kind := 0, tag := 0, result := .ok, detail := 0, doubled := false }

/-- The report writer after either reset (R182), with no write granted before it still outstanding. -/
def Report.reset : Report :=
  { setup := none, w := 0, h := 0, gap := 0, queue := [], flight := none, orphans := 0, urgentPos := none,
    timer := .stopped, badIndex := false, attention := false }

/-- The part right after pin reset, the pin still held, with no transaction outstanding on either port (R154). -/
def State.reset : State :=
  { pending := []
    pin := .held
    stationTime := 0
    msPhase := 0
    stationMs := 0
    upOrder := []
    memReads := []
    upWrites := 0
    runCount := 0
    memPort := none
    upPort := none
    lanes := Vector.replicate 64 Lane.reset
    clips := Vector.replicate 512 Clip.reset
    scanPos := 0
    fetchWait := none
    orders := Vector.replicate 256 Order.reset
    alerts := Vector.replicate 4 Alert.reset
    forceList := []
    slots := Vector.replicate 16 PostSlot.reset
    queue := []
    working := none
    report := Report.reset }

end Sys2Proof.Machine
end

