-- ==== Sys2Proof/Machine/Clock.lean ====
section
/-! DEFINITION. The station clock (00_scope 5.4, Table 5-2): what one period of the 27 MHz station reference does. -/

namespace Sys2Proof.Machine

/-- Station ticks in a station millisecond. -/
def ticksPerMs : Nat := 27000

/-- One station tick: station time rises by 1 modulo 2^48 and, at every 27,000th tick, station milliseconds by 1 modulo
2^32, on unbroken across the wrap of station time (Table 5-2). While the reset pin is held station time stays at 0
(R154). -/
def tick (s : State) : State :=
  match s.pin with
  | .held => s
  | .released _ =>
    { s with
      stationTime := s.stationTime + 1
      msPhase := if s.msPhase + 1 < ticksPerMs then s.msPhase + 1 else 0
      stationMs := if s.msPhase + 1 < ticksPerMs then s.stationMs else s.stationMs + 1 }

end Sys2Proof.Machine
end

