-- ==== Sys2Proof/Machine/Bits.lean ====
section
/-! DEFINITION. Bytes and fields of lines, slots, packets and records. The part's own records are least significant byte
first (00_scope 5.2), so a field of `size` bytes at byte `off` is the number in bits `8*off ..` of the whole. -/

namespace Sys2Proof.Machine

/-- Byte `k`. -/
def getByte {n : Nat} (x : BitVec n) (k : Nat) : Byte := x.extractLsb' (8 * k) 8

/-- `x` with byte `k` replaced by `b`. -/
def setByte {n : Nat} (x : BitVec n) (k : Nat) (b : Byte) : BitVec n :=
  (x &&& ~~~((0xFF#8).setWidth n <<< (8 * k))) ||| (b.setWidth n <<< (8 * k))

/-- The field of `size` bytes at byte `off`, least significant byte first. -/
def field {n : Nat} (x : BitVec n) (off size : Nat) : Nat := (x.extractLsb' (8 * off) (8 * size)).toNat

/-- A value of `n` bits holding the listed fields `(off, size, value)`, least significant byte first, each cut to its size,
and 0 everywhere else (R187). -/
def packFields (n : Nat) (fs : List (Nat × Nat × Nat)) : BitVec n :=
  fs.foldl (fun acc f => acc ||| (BitVec.ofNat n (f.2.2 % 2 ^ (8 * f.2.1)) <<< (8 * f.1))) 0

/-- A byte of marks: bit `k` set where entry `k` of the list is true. -/
def marks (bs : List Bool) : Nat := bs.foldr (fun b acc => b.toNat + 2 * acc) 0

/-- The value of a 4-byte count field (12.3, 12.4): the count, or a free value where it does not fit. -/
def countField (n : Nat) : Nat := if n < 2 ^ 32 then n else (Config.wideCount n).toNat

/-- A number held at a limit. -/
def heldAt (limit n : Nat) : Nat := min n limit

/-- A 32-bit count one higher, holding at 2^32 - 1 (R19). -/
def raise32 (c : BitVec 32) : BitVec 32 := if c = BitVec.allOnes 32 then c else c + 1

/-- The three lines of a slot as one value, line 0 lowest. -/
def joinLines (l0 l1 l2 : Line) : SlotData :=
  l0.setWidth 1536 ||| (l1.setWidth 1536 <<< 512) ||| (l2.setWidth 1536 <<< 1024)

/-- Line `j` of a slot. -/
def slotLine (x : SlotData) (j : Nat) : Line := x.extractLsb' (512 * j) 512

/-- A slot with line `j` replaced. -/
def setSlotLine (x : SlotData) (j : Nat) (l : Line) : SlotData :=
  (x &&& ~~~((BitVec.allOnes 512).setWidth 1536 <<< (512 * j))) ||| (l.setWidth 1536 <<< (512 * j))

/-- The arrival stamp, slot bytes 0..3 (Table 12-1). -/
def slotStamp (x : SlotData) : Arrival := x.extractLsb' 0 32

/-- The transport packet, slot bytes 4..191 (Table 12-1). -/
def slotPacket (x : SlotData) : Packet := x.extractLsb' 32 1504

/-- A slot of a stamp and a packet. -/
def makeSlot (stamp : Arrival) (p : Packet) : SlotData := (p ++ stamp : BitVec (1504 + 32))

/-- The part of a slot's packet that its line 0 holds, with zeros above it. -/
def line0Packet (l : Line) : Packet := slotPacket (l.setWidth 1536)

/-- The arrival stamp a line 0 holds. -/
def line0Stamp (l : Line) : Arrival := l.extractLsb' 0 32

/-- The byte enables `k .. k + n - 1`. -/
def enablesAt (e : Enables) (k n : Nat) : BitVec n := e.extractLsb' k n

/-- `a - b` modulo `n`, for places of a ring of `n` (`a`, `b` below `n`). -/
def ringDiff (a b n : Nat) : Nat := (a + n - b) % n

end Sys2Proof.Machine
end

