-- ==== Sys2Proof/Machine/Flags.lean ====
section
/-! DEFINITION. The lane counters and sticky flags (R19, R40, R77, R117, R136, R152; Table 9-6) and the conditions of an
insertion record (R91). -/

namespace Sys2Proof.Machine

/-- A counter's place in the order of Table 9-6. -/
def Counter.place : Counter → Fin 21
  | .overrun => 0
  | .lostSync => 1
  | .jump => 2
  | .strayRead => 3
  | .readFault => 4
  | .noMarker => 5
  | .badHeader => 6
  | .errored => 7
  | .badReference => 8
  | .timebaseChange => 9
  | .stale => 10
  | .notACue => 11
  | .malformedCue => 12
  | .duplicateCue => 13
  | .unparsedStamp => 14
  | .underrun => 15
  | .fetchFault => 16
  | .slip => 17
  | .flap => 18
  | .displaced => 19
  | .unmapped => 20

/-- A flag's bit in the flag word (12.3). -/
def Flag.place : Flag → Fin 18
  | .overrun => 0
  | .lostSync => 1
  | .jump => 2
  | .strayRead => 3
  | .readFault => 4
  | .noMarker => 5
  | .badHeader => 6
  | .errored => 7
  | .badReference => 8
  | .timebaseChanged => 9
  | .stale => 10
  | .malformedCue => 11
  | .underrun => 12
  | .fetchFault => 13
  | .slip => 14
  | .flap => 15
  | .clash => 16
  | .unmapped => 17

/-- A lane counter. -/
def Lane.count (ln : Lane) (c : Counter) : BitVec 32 := ln.counts[c.place]

/-- A sticky flag. -/
def Lane.flag (ln : Lane) (f : Flag) : Bool := ln.flags.getLsbD f.place

/-- The counter raised by 1, holding at 2^32 - 1 (R19). -/
def Lane.raise (ln : Lane) (c : Counter) : Lane :=
  { ln with counts := ln.counts.set c.place (raise32 ln.counts[c.place]) }

/-- The sticky flag set. -/
def Lane.setFlag (ln : Lane) (f : Flag) : Lane := { ln with flags := ln.flags ||| BitVec.twoPow 18 f.place }

/-- The counter raised and its flag set. -/
def Lane.note (ln : Lane) (c : Counter) (f : Flag) : Lane := (ln.raise c).setFlag f

/-- Every counter 0 and every sticky flag clear. -/
def Lane.clearCounts (ln : Lane) : Lane := { ln with counts := Vector.replicate 21 0, flags := 0 }

/-- No condition set. -/
def Conditions.clear : Conditions :=
  { interrupted := false, feedLostDuring := false, clockStale := false, disturbed := false, fetchFault := false }

/-- The conditions as the record's flags byte (12.4). -/
def Conditions.byte (c : Conditions) : BitVec 8 :=
  BitVec.ofNat 8 (marks [c.interrupted, c.feedLostDuring, c.clockStale, c.disturbed, c.fetchFault])

/-- The reason code of a refused cue (12.4). -/
def CueRefusal.code : CueRefusal → Nat
  | .malformed => 1
  | .noOrder => 2
  | .late => 3
  | .noClock => 4
  | .pendingFull => 5
  | .cancelLate => 6
  | .unmatched => 7

/-- The kind code of an as-run record (Table 10-1). -/
def RecordKind.code : RecordKind → Nat
  | .insertComplete => 1
  | .insertShort => 2
  | .insertTruncated => 3
  | .insertAborted => 4
  | .cueRefused => 5
  | .feedLost => 6
  | .feedRestored => 7
  | .alertStart => 8
  | .alertEnd => 9

/-- The code of a posting result (Table 9-5). -/
def PostResult.code : PostResult → Nat
  | .ok => 0
  | .badKind => 1
  | .badField => 2
  | .badState => 3
  | .inUse => 4
  | .locked => 5
  | .overlap => 6
  | .notReady => 7
  | .memoryFault => 8
  | .dropped => 9

end Sys2Proof.Machine
end

