-- ==== Sys2Proof/Machine/Packet.lean ====
section
/-! DEFINITION. Transport packets (12.1): header and adaptation field (R23, R24), the cue section and its check (R34 to
R36), stamps (R52), and the rewrites of R185. Fields inside packets are most significant first. -/

namespace Sys2Proof.Machine

/-! ## Header and adaptation field -/

/-- Packet byte 0 is the start marker 47h. -/
def hasMarker (p : Packet) : Bool := getByte p 0 == 0x47#8

/-- The error flag. -/
def errorFlag (p : Packet) : Bool := (getByte p 1).getLsbD 7

/-- The unit-start flag. -/
def unitStart (p : Packet) : Bool := (getByte p 1).getLsbD 6

/-- The 13-bit label. -/
def packetLabel (p : Packet) : Label := (getByte p 1 ++ getByte p 2 : BitVec (8 + 8)).setWidth 13

/-- The filler label 1FFFh. -/
def fillerLabel : Label := 0x1FFF#13

/-- Scrambling control. -/
def scrambling (p : Packet) : Nat := ((getByte p 3).extractLsb' 6 2).toNat

/-- Adaptation control. -/
def adaptation (p : Packet) : Nat := ((getByte p 3).extractLsb' 4 2).toNat

/-- The sequence count: the low four bits of packet byte 3. -/
def packetCount (p : Packet) : BitVec 4 := (getByte p 3).setWidth 4

/-- The packet bears payload: adaptation control 1 or 3 (R146). -/
def bearsPayload (p : Packet) : Bool := adaptation p == 1 || adaptation p == 3

/-- Adaptation field length, packet byte 4. -/
def afLength (p : Packet) : Nat := (getByte p 4).toNat

/-- An adaptation field of length 1 or more is present, so that there is a flags byte (R24). -/
def hasAfFlags (p : Packet) : Bool := (adaptation p == 2 || adaptation p == 3) && 1 ≤ afLength p

/-- The discontinuity flag (R24). -/
def discontinuity (p : Packet) : Bool := hasAfFlags p && (getByte p 5).getLsbD 7

/-- The clock-reference flag (R24). -/
def clockRefFlag (p : Packet) : Bool := hasAfFlags p && (getByte p 5).getLsbD 4

/-- The outcome of the header checks. -/
inductive HeaderVerdict where
  | bad
  | errored
  | good
  deriving DecidableEq, Repr

/-- The judgement of R23, the first case that applies, with the clock-reference length test that R24 adds for a packet
that R23 finds good. -/
def headerVerdict (p : Packet) : HeaderVerdict :=
  if adaptation p = 0 then .bad
  else if adaptation p = 2 ∧ afLength p ≠ 183 then .bad
  else if adaptation p = 3 ∧ 182 < afLength p then .bad
  else if errorFlag p then .errored
  else if clockRefFlag p ∧ afLength p < 7 then .bad
  else .good

/-- The packet carries a clock reference by the tests of R24. -/
def hasClockRef (p : Packet) : Bool := headerVerdict p == .good && clockRefFlag p && 7 ≤ afLength p

/-- The clock reference base: packet bytes 6..9 and bit 7 of byte 10. -/
def clockRefBase (p : Packet) : Stamp :=
  (getByte p 6 ++ getByte p 7 ++ getByte p 8 ++ getByte p 9 ++ (getByte p 10).extractLsb' 7 1 :
    BitVec (8 + 8 + 8 + 8 + 1))

/-- The clock reference extension: bit 0 of packet byte 10 and byte 11. -/
def clockRefExt (p : Packet) : BitVec 9 := ((getByte p 10).extractLsb' 0 1 ++ getByte p 11 : BitVec (1 + 8))

/-- First payload byte (R23). -/
def payloadStart (p : Packet) : Nat := if adaptation p = 3 then 5 + afLength p else 4

/-- Payload length (R52): 184 for adaptation control 1, 183 less the adaptation field length for 3. -/
def payloadLength (p : Packet) : Nat :=
  if adaptation p = 1 then 184 else if adaptation p = 3 then 183 - afLength p else 0

/-- Payload byte `k`. -/
def payloadByte (p : Packet) (k : Nat) : Byte := getByte p (payloadStart p + k)

/-! ## Rewrites (R185) -/

/-- A label rewrite: the 13 label bits alone. -/
def setLabel (p : Packet) (l : Label) : Packet :=
  let b1 := (getByte p 1 &&& 0xE0#8) ||| (l.extractLsb' 8 5).setWidth 8
  setByte (setByte p 1 b1) 2 (l.extractLsb' 0 8)

/-- A sequence count rewrite: bits 3..0 of packet byte 3. -/
def setCount (p : Packet) (c : BitVec 4) : Packet :=
  setByte p 3 ((getByte p 3 &&& 0xF0#8) ||| c.setWidth 8)

/-- A clock-reference rewrite: base, six ones, extension in packet bytes 6..11. -/
def setClockRef (p : Packet) (base : Stamp) (ext : BitVec 9) : Packet :=
  let p := setByte p 6 (base.extractLsb' 25 8)
  let p := setByte p 7 (base.extractLsb' 17 8)
  let p := setByte p 8 (base.extractLsb' 9 8)
  let p := setByte p 9 (base.extractLsb' 1 8)
  let p := setByte p 10 (base.extractLsb' 0 1 ++ 0x3F#6 ++ ext.extractLsb' 8 1 : BitVec (1 + 6 + 1))
  setByte p 11 (ext.extractLsb' 0 8)

/-- The stamp in the five packet bytes from `k`: value bits 32..30 in bits 3..1 of the first, 29..15 in the second and
bits 7..1 of the third, 14..0 in the fourth and bits 7..1 of the fifth (12.1). -/
def getStamp (p : Packet) (k : Nat) : Stamp :=
  ((getByte p k).extractLsb' 1 3 ++ getByte p (k + 1) ++ (getByte p (k + 2)).extractLsb' 1 7 ++
    getByte p (k + 3) ++ (getByte p (k + 4)).extractLsb' 1 7 : BitVec (3 + 8 + 7 + 8 + 7))

/-- A stamp rewrite: the 33 value bits, keeping prefix and marker bits. -/
def setStamp (p : Packet) (k : Nat) (t : Stamp) : Packet :=
  let b0 := (getByte p k &&& 0xF1#8) ||| ((t.extractLsb' 30 3).setWidth 8 <<< 1)
  let b2 := (getByte p (k + 2) &&& 0x01#8) ||| ((t.extractLsb' 15 7).setWidth 8 <<< 1)
  let b4 := (getByte p (k + 4) &&& 0x01#8) ||| ((t.extractLsb' 0 7).setWidth 8 <<< 1)
  let p := setByte p k b0
  let p := setByte p (k + 1) (t.extractLsb' 22 8)
  let p := setByte p (k + 2) b2
  let p := setByte p (k + 3) (t.extractLsb' 7 8)
  setByte p (k + 4) b4

/-- The generated filler packet of R141 and R185: 47h, 1Fh, FFh, 10h and 184 bytes of FFh. -/
def fillerPacket : Packet :=
  (BitVec.allOnes 1472 ++ (0x10FF1F47#32) : BitVec (1472 + 32))

/-! ## Stamps of an elementary-stream unit (R52) -/

/-- What R52 finds in a packet: no stamps, stamps at the packet bytes listed, or an unparsed packet. -/
inductive StampScan where
  | noStamps
  | stamps (at_ : List Nat)
  | unparsed
  deriving DecidableEq, Repr

/-- The cases of R52, the first that applies. DESIGN CHOICE (log entry 38): a packet with the error flag set whose
clock-reference flag is set over an adaptation field of length 1 to 6 is no bad header here, because R23 judges it errored
and R24 tests only good headers; its stamps are looked for. R52 also says that the error flag is not examined. -/
def scanStamps (p : Packet) : StampScan :=
  if headerVerdict p = .bad then .unparsed
  else if ¬ unitStart p ∨ adaptation p = 2 then .noStamps
  else if payloadLength p < 3 ∨ payloadByte p 0 ≠ 0#8 ∨ payloadByte p 1 ≠ 0#8 ∨ payloadByte p 2 ≠ 1#8 then .noStamps
  else if scrambling p ≠ 0 then .unparsed
  else if payloadLength p < 9 ∨ (payloadByte p 6).extractLsb' 6 2 ≠ 2#2 then .unparsed
  else
    match ((payloadByte p 7).extractLsb' 6 2).toNat with
    | 0 => .noStamps
    | 2 =>
      if (payloadByte p 8).toNat < 5 ∨ payloadLength p < 14 then .unparsed
      else .stamps [payloadStart p + 9]
    | 3 =>
      if (payloadByte p 8).toNat < 10 ∨ payloadLength p < 19 then .unparsed
      else .stamps [payloadStart p + 9, payloadStart p + 14]
    | _ => .unparsed

/-- Every stamp found moved by the offset `d` (R54, R55): (stamp + D) mod 2^33. -/
def moveStamps (p : Packet) (d : Stamp) : Packet :=
  match scanStamps p with
  | .stamps ks => ks.foldl (fun q k => setStamp q k (getStamp p k + d)) p
  | _ => p

/-! ## Cue sections (R34 to R36) -/

/-- One byte of the check, most significant bit first, generator 04C11DB7h (R35). -/
def crcByte (c : BitVec 32) (b : Byte) : BitVec 32 :=
  (List.range 8).foldl
    (fun c i => if c.getLsbD 31 != b.getLsbD (7 - i) then (c <<< 1) ^^^ 0x04C11DB7#32 else c <<< 1) c

/-- The check over section bytes 0..n - 1 of the packet's section at packet byte `at_`, from FFFFFFFFh (R35). -/
def crcOver (p : Packet) (at_ n : Nat) : BitVec 32 :=
  (List.range n).foldl (fun c i => crcByte c (getByte p (at_ + i))) 0xFFFFFFFF#32

/-- The number in `n` packet bytes from `k`, most significant first. -/
def packetNumber (p : Packet) (k n : Nat) : Nat :=
  (List.range n).foldl (fun acc i => acc * 256 + (getByte p (k + i)).toNat) 0

/-- The fields of a parsed cue (R36). -/
structure Cue where
  kind : CueKind
  event : BitVec 32
  placement : BitVec 32
  time : Option Stamp
  duration : Option Stamp
  deriving DecidableEq, Repr

/-- The outcome of the section checks of R34. -/
inductive CueScan where
  | notACue
  | malformed (event : BitVec 32)
  | parsed (cue : Cue)
  deriving DecidableEq, Repr

/-- The cue kind of a kind byte. -/
def cueKindOf (b : Byte) : Option CueKind :=
  match b.toNat with
  | 1 => some .start
  | 2 => some .startOpen
  | 3 => some .ret
  | 4 => some .cancel
  | _ => none

/-- The section checks of R34 on a packet with payload, in their order. -/
def scanCue (p : Packet) : CueScan :=
  let sec := payloadStart p + 1
  let q := payloadLength p - 1
  let pointer := payloadByte p 0
  let event : BitVec 32 := BitVec.ofNat 32 (packetNumber p (sec + 4) 4)
  let bad : CueScan := .malformed (if pointer = 0#8 ∧ 8 ≤ q then event else 0)
  let len := packetNumber p (sec + 2) 2
  let flags := getByte p (sec + 12)
  if pointer ≠ 0#8 then bad
  else if q = 0 ∨ getByte p sec ≠ 0xD5#8 then .notACue
  else if q < 4 ∨ len < 23 ∨ 179 < len then bad
  else if q < 4 + len then bad
  else if crcOver p sec len ≠ BitVec.ofNat 32 (packetNumber p (sec + len) 4) then bad
  else
    match cueKindOf (getByte p (sec + 1)) with
    | none => bad
    | some kind =>
      .parsed
        { kind := kind
          event := event
          placement := BitVec.ofNat 32 (packetNumber p (sec + 8) 4)
          time := if flags.getLsbD 7 then some (BitVec.ofNat 33 (packetNumber p (sec + 13) 5)) else none
          duration := if flags.getLsbD 6 then some (BitVec.ofNat 33 (packetNumber p (sec + 18) 5)) else none }

end Sys2Proof.Machine
end

