-- ==== Sys2Proof/Machine/StreamTime.lean ====
section
/-! DEFINITION. Stream time arithmetic (chapter 3) and the slot interval estimate (2.3). -/

namespace Sys2Proof.Machine

/-- M, the modulus of clock values (Table 3-1). -/
def clockModulus : Nat := 2 ^ 33 * 300

/-- "At or after" (R42). -/
def atOrAfter (x y : Stamp) : Bool := decide ((x - y).toNat < 2 ^ 32)

/-- The signed arrival difference (R43). -/
def arrivalDiff (a anchor : Arrival) : Int := (a - anchor).toInt

/-- The clock estimate of an arrival stamp from an anchor (R44). -/
def estimateFrom (an : Anchor) (a : Arrival) : Nat :=
  (((an.clock : Int) + arrivalDiff a an.stamp) % (clockModulus : Int)).toNat

/-- The anchor of a clock model, where there is one. -/
def ClockModel.anchor : ClockModel → Option Anchor
  | .unset => none
  | .valid an _ => some an
  | .stale an _ => some an

/-- The model is VALID. -/
def ClockModel.isValid : ClockModel → Bool
  | .valid _ _ => true
  | _ => false

/-- The model is STALE. -/
def ClockModel.isStale : ClockModel → Bool
  | .stale _ _ => true
  | _ => false

/-- C_est of an arrival stamp, or "no time" (R44). -/
def clockEstimate (m : ClockModel) (a : Option Arrival) : Option Nat :=
  match m.anchor, a with
  | some an, some st => some (estimateFrom an st)
  | _, _ => none

/-- The lane presentation time of a clock estimate (R45). -/
def presentationOf (delay cEst : Nat) : Stamp := BitVec.ofNat 33 (cEst / 300 + delay)

/-- P(A), or "no time" (R45). -/
def presentation (m : ClockModel) (delay : Nat) (a : Option Arrival) : Option Stamp :=
  (clockEstimate m a).map (presentationOf delay)

/-- The anchor moved along the model to an arrival stamp (R28, R46): nothing to move while the model is NONE or the
decision has no stamp. -/
def ClockModel.refresh (m : ClockModel) (a : Option Arrival) : ClockModel :=
  match m, a with
  | .valid an cap, some st => .valid { clock := estimateFrom an st, stamp := st } cap
  | .stale an cap, some st => .stale { clock := estimateFrom an st, stamp := st } cap
  | m, _ => m

/-- A capture (R26). -/
def captureModel (base : Stamp) (ext : BitVec 9) (a : Arrival) (now : Millis) : ClockModel :=
  .valid { clock := base.toNat * 300 + ext.toNat, stamp := a } now

/-- The timer started at `start` has run for more than `limit` milliseconds (R29, R104, R123, R180). -/
def elapsedOver (now start : Millis) (limit : Nat) : Bool := decide (limit < (now - start).toNat)

/-- An arrival stamp joins the history, which holds at most 33 (R31). -/
def joinHistory (h : List Arrival) (a : Arrival) : List Arrival :=
  if h.length < 33 then h ++ [a] else h.tail ++ [a]

/-- The slot interval estimate (R32). -/
def slotInterval (nominal : Nat) (h : List Arrival) : Nat :=
  if h.length < 33 then nominal else (h.getLast?.getD 0 - h.head?.getD 0).toNat / 32

/-- The synthetic stamp (R16): the previous decided stamp plus the slot interval estimate. -/
def syntheticStamp (prev : Option Arrival) (estimate : Nat) : Option Arrival :=
  prev.map fun p => p + BitVec.ofNat 32 estimate

/-- The return time of R50: L is the lesser of the duration and the maximum length, or the maximum length. -/
def returnTime (t : Stamp) (duration : Option Stamp) (maxLength : Nat) : Stamp :=
  t + BitVec.ofNat 33 (match duration with
    | some d => min d.toNat maxLength
    | none => maxLength)

/-- The return time a RETURN with requested time `q` sets (R51). -/
def requestedReturn (t q : Stamp) (maxLength : Nat) : Stamp :=
  let d := (q - t).toNat
  if 2 ^ 32 ≤ d then q else if d ≤ maxLength then q else t + BitVec.ofNat 33 maxLength

/-- What cue timing gives a cue: a refusal, a splice time, a requested return time, or a CANCEL unchanged. -/
inductive CueTiming where
  | refused (r : CueRefusal)
  | splice (t : Stamp)
  | requested (q : Stamp)
  | cancel
  deriving DecidableEq, Repr

/-- Cue timing (R48, R49). `pCue` is P_cue; a VALID model always has one. -/
def cueTiming (m : ClockModel) (lateGrace : Nat) (pCue : Option Stamp) (c : Cue) : CueTiming :=
  match m.isValid, pCue with
  | true, some p =>
    match c.kind with
    | .start | .startOpen =>
      match c.time with
      | none => .splice p
      | some t => if atOrAfter p t ∧ lateGrace < (p - t).toNat then .refused .late else .splice t
    | .ret => .requested (c.time.getD p)
    | .cancel => .cancel
  | _, _ => .refused .noClock

/-- The offset of a clip run that starts at a slot of presentation time `p` (R53). -/
def clipOffset (p : Option Stamp) (first : Stamp) : Option Stamp := p.map fun t => t - first

/-- The offset of a live run in REBASE mode (R55); none in PASS mode. -/
def liveOffset (mode : StampMode) (target source : Option Stamp) : Option Stamp :=
  match mode, target, source with
  | .rebase, some t, some s => some (t - s)
  | _, _, _ => none

/-- The clock reference of a packet replaced by a clock estimate (R56), where the packet carries one and the estimate
exists. -/
def restamp (p : Packet) (cEst : Option Nat) : Packet :=
  match cEst with
  | some c => if hasClockRef p then setClockRef p (BitVec.ofNat 33 (c / 300)) (BitVec.ofNat 9 (c % 300)) else p
  | none => p

end Sys2Proof.Machine
end

