-- ==== Sys2Proof/Machine/Ops.lean ====
section
/-! DEFINITION. The operations shared by the blocks: access to the tables of State, clip locks, the effective alert, the
hand-over of as-run records, and the two orders the memory path keeps. -/

namespace Sys2Proof.Machine

/-! ## Table access -/

/-- Lane `l`. -/
def State.lane (s : State) (l : LaneId) : Lane := s.lanes[l]
/-- Lane `l` replaced. -/
def State.setLane (s : State) (l : LaneId) (ln : Lane) : State := { s with lanes := s.lanes.set l ln }
/-- Lane `l` changed by `f`. -/
def State.modLane (s : State) (l : LaneId) (f : Lane → Lane) : State := s.setLane l (f (s.lane l))
/-- The ON context of lane `l` changed by `f`; nothing while the lane is OFF. -/
def State.modOn (s : State) (l : LaneId) (f : OnLane → OnLane) : State :=
  s.modLane l fun ln => { ln with on := ln.on.map f }
/-- The record and context of a lane that is ON. -/
def State.onLane (s : State) (l : LaneId) : Option (LaneRecord × OnLane) :=
  match (s.lane l).record, (s.lane l).on with
  | some r, some o => some (r, o)
  | _, _ => none
/-- The record and context of an ON OUTPUT lane. -/
def State.onOutput (s : State) (l : LaneId) : Option (LaneRecord × OnLane) :=
  (s.onLane l).filter fun x => x.1.role == .output
/-- The lane is configured with role SOURCE and is ON. -/
def State.isOnSource (s : State) (l : LaneId) : Bool :=
  match s.onLane l with
  | some (r, _) => r.role == .source
  | none => false

/-- Clip `c`. -/
def State.clip (s : State) (c : ClipId) : Clip := s.clips[c]
/-- Clip `c` changed by `f`. -/
def State.modClip (s : State) (c : ClipId) (f : Clip → Clip) : State :=
  { s with clips := s.clips.set c (f (s.clip c)) }
/-- The clip is READY (R58). -/
def State.clipReady (s : State) (c : ClipId) : Bool := (s.clip c).body.isSome

/-- Order `o`. -/
def State.order (s : State) (o : OrderId) : Order := s.orders[o]
/-- Order `o` replaced. -/
def State.setOrder (s : State) (o : OrderId) (x : Order) : State := { s with orders := s.orders.set o x }
/-- Order `o` changed by `f`. -/
def State.modOrder (s : State) (o : OrderId) (f : Order → Order) : State := s.setOrder o (f (s.order o))

/-- Alert `a`. -/
def State.alert (s : State) (a : AlertId) : Alert := s.alerts[a]
/-- Alert `a` changed by `f`. -/
def State.modAlert (s : State) (a : AlertId) (f : Alert → Alert) : State :=
  { s with alerts := s.alerts.set a (f (s.alert a)) }

/-- Posting slot `k`. -/
def State.slot (s : State) (k : PostSlotId) : PostSlot := s.slots[k]
/-- Posting slot `k` changed by `f`. -/
def State.modSlot (s : State) (k : PostSlotId) (f : PostSlot → PostSlot) : State :=
  { s with slots := s.slots.set k (f (s.slot k)) }

/-- The report writer changed by `f`. -/
def State.modReport (s : State) (f : Report → Report) : State := { s with report := f s.report }

/-- The lane counter raised and its flag set. -/
def State.note (s : State) (l : LaneId) (c : Counter) (f : Flag) : State := s.modLane l fun ln => ln.note c f
/-- The lane counter raised (for the counters that have no flag). -/
def State.raise (s : State) (l : LaneId) (c : Counter) : State := s.modLane l fun ln => ln.raise c

/-! ## Clip locks (R61) -/

/-- One lock request. -/
def State.lock (s : State) (c : ClipId) : State := s.modClip c fun x => { x with locks := x.locks + 1 }
/-- One release request. -/
def State.release (s : State) (c : ClipId) : State := s.modClip c fun x => { x with locks := x.locks - 1 }

/-! ## Orders -/

/-- The distinct clips a CLIPS order's playlist and pad name; none for a LIVE order (R61, R81). -/
def OrderBody.clips (b : OrderBody) : List ClipId :=
  match b.source with
  | .clips playlist pad => (playlist ++ pad.toList).dedup
  | .live _ _ _ => []

/-- The order is ready (R80, R98). -/
def orderReady (s : State) (b : OrderBody) : Bool :=
  match b.source with
  | .clips _ _ => b.clips.all s.clipReady
  | .live src _ _ => s.isOnSource src

/-- The order's clips are locked, once each (R81). -/
def lockOrder (s : State) (b : OrderBody) : State := b.clips.foldl State.lock s
/-- The order's clips are released, once each (R86, R93). -/
def releaseOrder (s : State) (b : OrderBody) : State := b.clips.foldl State.release s

/-! ## The effective alert (R125) -/

/-- The alert is an OVERRIDE alert. -/
def isOverride (s : State) (a : AlertId) : Bool :=
  match (s.alert a).body with
  | some b => b.mode == .override
  | none => false

/-- The effective entry of a stack: the last OVERRIDE entry, else the last entry (R125). -/
def effectiveEntry (s : State) (stack : List StackEntry) : Option StackEntry :=
  match stack.reverse.find? fun e => isOverride s e.id with
  | some e => some e
  | none => stack.getLast?

/-- The lane's effective alert is an OVERRIDE alert. -/
def overrideEffective (s : State) (stack : List StackEntry) : Bool :=
  match effectiveEntry s stack with
  | some e => isOverride s e.id
  | none => false

/-- The stack entry of alert `a` changed by `f`. -/
def modEntry (stack : List StackEntry) (a : AlertId) (f : StackEntry → StackEntry) : List StackEntry :=
  stack.map fun e => if e.id = a then f e else e

/-! ## Report hand-over (R174) -/

/-- A produced record handed to the report writer: it joins the write queue, or is counted as a gap. -/
def Report.handOver (r : Report) (x : AsRun) : Report :=
  if r.setup.isSome ∧ r.queue.length < 32 then { r with queue := r.queue ++ [x] }
  else { r with gap := heldAt 65535 (r.gap + 1) }

/-- A produced record handed to the report writer. -/
def State.handOver (s : State) (x : AsRun) : State := s.modReport fun r => r.handOver x

/-! ## Reads on the memory port (R6) -/

/-- The return of this read's data is no step of its own: a posting record line before the fourth, a fetch line before
the last, or a line of a posting read that a pin reset has orphaned. -/
def MemRead.silent : MemRead → Bool
  | .up _ _ => false
  | .posting line dead => dead || line != 3
  | .fetch _ last => !last

/-- The next read whose return is a step, and the reads issued after it: the DRAM side returns data in issue order, so
every silent read before it has returned. -/
def nextDue : List MemRead → Option (MemRead × List MemRead)
  | [] => none
  | r :: rs => if r.silent then nextDue rs else some (r, rs)

/-- A pending upstream read served as the memory returns it. -/
def Serve.plainIf (p : Serve → Bool) (sv : Serve) : Serve := if p sv then .plain else sv

/-- The upstream transactions with every pending read chosen by `p` served as the memory returns it. -/
def plainUps (p : Serve → Bool) (us : List UpTxn) : List UpTxn :=
  us.map fun
    | .read a sv => .read a (sv.plainIf p)
    | t => t

/-- The reads on the memory port with every upstream read chosen by `p` served as the memory returns it. -/
def plainReads (p : Serve → Bool) (rs : List MemRead) : List MemRead :=
  rs.map fun
    | .up a sv => .up a (sv.plainIf p)
    | r => r

/-- The read is served by, or from the prepared copy of, lane `l`. -/
def Serve.ofLane (l : LaneId) : Serve → Bool
  | .claim k => k == l
  | .copied k _ => k == l
  | _ => false

/-- The outstanding reads of lane `l` are served as the memory returns them (R4, R166). -/
def State.abandonReads (s : State) (l : LaneId) : State :=
  { s with upOrder := plainUps (Serve.ofLane l) s.upOrder, memReads := plainReads (Serve.ofLane l) s.memReads }

end Sys2Proof.Machine
end

