-- ==== Sys2Proof/Machine/Reporting.lean ====
section
/-! DEFINITION. The report writer (chapter 10): the record layout, unread records, attention causes, the record write and
the read index, and the commands RECORD_WRITE_ISSUE, RECORD_WRITE_COMPLETE and COALESCE_TIMER_EXPIRY. -/

namespace Sys2Proof.Machine

/-- The 32 bytes of an as-run record with its gap field (Table 12-8, R187). -/
def recordBits (x : AsRun) (gap : Nat) : BitVec 256 :=
  packFields 256
    [(0, 1, x.kind.code), (1, 1, x.lane), (2, 1, x.flags.toNat), (3, 1, x.order), (4, 2, x.firstClip),
     (6, 4, x.event.toNat), (10, 5, x.timeIn.toNat), (15, 5, x.timeOut.toNat), (20, 4, countField x.served),
     (24, 2, heldAt 65535 x.underrun), (26, 2, gap), (28, 4, x.ms.toNat)]

/-- The kind is in the urgent kind set. -/
def RingSetup.isUrgent (g : RingSetup) (k : RecordKind) : Bool := g.urgent.getLsbD (k.code - 1)

/-- The unread count: (W - H) mod size, 0 while UNSET. -/
def Report.unread (r : Report) : Nat :=
  match r.setup with
  | some g => ringDiff r.w r.h g.size
  | none => 0

/-- The THRESHOLD cause (Table 10-2). -/
def Report.thresholdCause (r : Report) : Bool :=
  match r.setup with
  | some g => decide (g.threshold ≤ r.unread)
  | none => false

/-- The COALESCE cause (Table 10-2). -/
def Report.coalesceCause (r : Report) : Bool := r.setup.isSome && decide (0 < r.unread) && r.timer == .expired

/-- The URGENT cause (Table 10-2). -/
def Report.urgentCause (r : Report) : Bool := r.setup.isSome && r.urgentPos.isSome

/-- Any attention cause holds. -/
def Report.anyCause (r : Report) : Bool := r.thresholdCause || r.coalesceCause || r.urgentCause

/-- The causes judged afresh; the attention line follows (R181). -/
def Report.judge (r : Report) : Report := { r with attention := r.anyCause }

/-! ## Record writes -/

/-- The line write of a record at place W: the line that holds the place, its data, and its 32 byte enables (R175). R175 and
R187 say nothing of the data on the other 32 bytes, whose enables are clear: DESIGN CHOICE (log entry 42), they are 0. -/
def recordWrite (g : RingSetup) (w gap : Nat) (x : AsRun) : RecordWrite :=
  let low := w % 2 = 0
  { kind := x.kind
    gap := gap
    addr := BitVec.ofNat 36 (g.base + 64 * (w / 2))
    data := (recordBits x gap).setWidth 512 <<< (if low then 0 else 256)
    enables := if low then 0x00000000FFFFFFFF#64 else 0xFFFFFFFF00000000#64
    granted := false
    abandoned := false }

/-- The head record taken (R175): counted as a gap where the ring is full, else issued with the gap count. -/
def Report.issue (r : Report) : Report :=
  match r.setup, r.queue, r.flight with
  | some g, x :: rest, none =>
    if r.unread = g.size - 1 then { r with queue := rest, gap := heldAt 65535 (r.gap + 1) }
    else { r with queue := rest, gap := 0, flight := some (recordWrite g r.w r.gap x) }
  | _, _, _ => r

/-- RECORD_WRITE_ISSUE (R175). -/
def execRecordWriteIssue (s : State) : Host.Outcome State Fault Refusal := .next (s.modReport Report.issue)

/-- A record write completed without error (R176): W rises, an urgent kind sets the urgent position, the coalesce timer
starts where unread was 0, and the causes are judged. -/
def Report.written (r : Report) (g : RingSetup) (x : RecordWrite) (now : Millis) : Report :=
  ({ r with
      flight := none
      w := (r.w + 1) % g.size
      urgentPos := if g.isUrgent x.kind then some r.w else r.urgentPos
      timer := if r.unread = 0 then .running now else r.timer }).judge

/-- A record write completed with the error indication (R177). -/
def Report.failed (r : Report) (x : RecordWrite) : Report :=
  { r with flight := none, gap := heldAt 65535 (r.gap + x.gap + 1) }

/-- The completion of a record write: that of a write granted before a reset is discarded, and that of an abandoned write
too (R173, R182); record writes complete in the order they were granted. -/
def Report.complete (r : Report) (err : Bool) (now : Millis) : Option Report :=
  match r.orphans with
  | k + 1 => some { r with orphans := k }
  | 0 =>
    match r.flight, r.setup with
    | some x, some g =>
      if !x.granted then none
      else if x.abandoned then some { r with flight := none }
      else some (if err then r.failed x else r.written g x now)
    | _, _ => none

/-- RECORD_WRITE_COMPLETE (R176, R177). -/
def execRecordWriteComplete (err : Bool) (s : State) : Host.Outcome State Fault Refusal :=
  match s.report.complete err s.stationMs with
  | some r => .next { s with report := r }
  | none => .fault .unsolicitedCompletion

/-! ## The read index (R178) -/

/-- A read-index write that enables all four index bytes, with value `v`. -/
def Report.readIndex (r : Report) (v : Nat) : Report :=
  match r.setup with
  | none => { r with badIndex := true }
  | some g =>
    if v < g.size ∧ ringDiff v r.h g.size ≤ r.unread then
      let released := match r.urgentPos with
        | some u => decide (ringDiff u r.h g.size < ringDiff v r.h g.size)
        | none => false
      ({ r with
          h := v
          urgentPos := if released then none else r.urgentPos
          timer := if ringDiff r.w v g.size = 0 then .stopped else r.timer }).judge
    else { r with badIndex := true }

/-- A write of the read-index word (R178): all four index bytes enabled is a read-index write, some of them sets the
bad-index flag, none of them only goes to DRAM. -/
def Report.indexWrite (r : Report) (data : Line) (enables : Enables) : Report :=
  let e := enablesAt enables 0 4
  if e = 0#4 then r
  else if e = 0xF#4 then r.readIndex (field data 0 4)
  else { r with badIndex := true }

/-! ## The coalesce timer (R180) -/

/-- The coalesce timer expires where it is due. -/
def Report.coalesceExpiry (r : Report) (now : Millis) : Report :=
  match r.setup, r.timer with
  | some g, .running start => if elapsedOver now start g.coalesce then ({ r with timer := .expired }).judge else r
  | _, _ => r

/-- COALESCE_TIMER_EXPIRY (R180): nothing where the timer has not run past the coalesce time. -/
def execCoalesceTimerExpiry (s : State) : Host.Outcome State Fault Refusal :=
  .next (s.modReport fun r => r.coalesceExpiry s.stationMs)

end Sys2Proof.Machine
end

