-- ==== Sys2Proof/Machine/Fetch.lean ====
section
/-! DEFINITION. The source fetcher (chapter 4): fetch source, flushes, cursors, taps, the fetch scan, and the commands
FETCH_ISSUE and FETCH_COMPLETE. -/

namespace Sys2Proof.Machine

/-! ## Fetch source (R63) -/

/-- The fetch source an ON OUTPUT lane's state calls for, the first line of Table 4-3 that applies. -/
def wantedSource (s : State) (r : LaneRecord) (o : OnLane) : Option FetchId :=
  match effectiveEntry s o.stack with
  | some e =>
    if isOverride s e.id then some (.alert e.id) else wantedBelow s r o
  | none => wantedBelow s r o
where
  /-- The lines of Table 4-3 below the OVERRIDE alert. -/
  wantedBelow (s : State) (r : LaneRecord) (o : OnLane) : Option FetchId :=
    match o.active.filter (fun a => !a.suspended) with
    | some a => some (.insertion a.order)
    | none =>
      if o.feed.state ≠ .live then
        (if r.lossSource = .filler then none else some .loss)
      else
        match o.waiting with
        | none => none
        | some w =>
          match (s.order w.order).body.map OrderBody.source with
          | some (.clips _ _) => some (.insertion w.order)
          | _ => none

/-! ## Flushes (R64, R73) -/

/-- A waiting fetch of the lane and buffer that has no line granted yet is withdrawn. -/
def State.withdraw (s : State) (l : LaneId) (interject : Bool) : State :=
  { s with fetchWait := s.fetchWait.filter fun w => !(w.2 == 0 && w.1.lane == l && w.1.interject == interject) }

/-- The lane's prefetch queue is flushed: entries discarded, ungranted fetches withdrawn, generation raised. -/
def flushQueue (l : LaneId) (s : State) : State :=
  (s.modLane l fun ln =>
    { ln with
      queueGen := ln.queueGen + 1
      on := ln.on.map fun o => { o with fetch := { o.fetch with queue := [] } } }).withdraw l false

/-- The lane's interject buffer is flushed in the same way. -/
def flushInterject (l : LaneId) (s : State) : State :=
  (s.modLane l fun ln =>
    { ln with
      interjectGen := ln.interjectGen + 1
      on := ln.on.map fun o => { o with fetch := { o.fetch with interject := [] } } }).withdraw l true

/-! ## Taps (R74) -/

/-- A tap placed on a SOURCE lane with a lag; it waits while the source's ingest cursor is unsynchronised. -/
def placeTap (s : State) (src : LaneId) (lag : Nat) : Tap :=
  match s.onLane src with
  | some (r, o) =>
    match o.track.ingest with
    | .synchronised i _ =>
      let b := min (lag + 1) (min o.track.fill (r.slots - 9))
      { source := src, lag := lag, pos := .placed (ringDiff i b r.slots) b, fresh := true }
    | .unsynchronised => { source := src, lag := lag, pos := .waiting, fresh := true }
  | none => { source := src, lag := lag, pos := .waiting, fresh := true }

/-! ## Fetch cursors (R65, R70) -/

/-- The clip and packet an insertion's position names. -/
def cursorClip (b : OrderBody) (pos : ClipCursor) : Option (ClipId × Nat) :=
  match b.source, pos with
  | .clips playlist _, .playlist i k => (playlist[i]?).map fun c => (c, k)
  | .clips _ pad, .pad k => pad.map fun c => (c, k)
  | _, _ => none

/-- The length of a READY clip, 0 otherwise. -/
def clipLength (s : State) (c : ClipId) : Nat := ((s.clip c).body.map ClipBody.length).getD 0

/-- The position after a packet (Table 4-5, R88). -/
def stepCursor (s : State) (b : OrderBody) (pos : ClipCursor) : ClipCursor :=
  match b.source, pos with
  | .clips playlist pad, .playlist i k =>
    match playlist[i]? with
    | none => .exhausted
    | some c =>
      if k + 1 < clipLength s c then .playlist i (k + 1)
      else if i + 1 < playlist.length then .playlist (i + 1) 0
      else if pad.isSome then .pad 0 else .exhausted
  | .clips _ (some c), .pad k => if k + 1 < clipLength s c then .pad (k + 1) else .pad 0
  | _, _ => .exhausted

/-- The next packet of a looping clip. -/
def stepLoop (s : State) (c : ClipId) (k : Nat) : Nat := if k + 1 < clipLength s c then k + 1 else 0

/-- The cursor of a source that has just become the lane's fetch source (R65). -/
def placeCursor (s : State) (r : LaneRecord) (o : OnLane) : FetchId → Option FetchCursor
  | .alert a => (s.alert a).body.map fun b => .loop b.clip 0 true
  | .loss =>
    match r.lossSource with
    | .filler => none
    | .slate c => some (.loop c 0 true)
    | .backup src _ lag => some (.tap (placeTap s src lag))
  | .insertion i =>
    match (s.order i).body.map OrderBody.source with
    | none => none
    | some (.live src _ lag) => some (.tap (placeTap s src lag))
    | some (.clips _ _) =>
      some (.insertion i (((o.active.filter fun a => a.order == i).bind ActiveInsertion.cursor).getD (.playlist 0 0)) true)

/-- The lane's fetch source set and its cursor placed. The loss-source run state is none: it is discarded when the loss source
stops being the fetch source (R140), and a selection of the loss source leaves it none, as Table 8-5 has it after LANE ENABLE,
until the first packet is taken (`LossRun.atSelection`). -/
def setSource (s : State) (r : LaneRecord) (want : Option FetchId) (o : OnLane) : OnLane :=
  { o with
    fetch := { o.fetch with source := want, cursor := want.bind (placeCursor s r o) }
    sel := { o.sel with lossRun := none } }

/-- The fetch source of a lane judged again (R63): a change of identity flushes the queue and places the cursor. -/
def judgeSource (l : LaneId) (s : State) : State :=
  match s.onOutput l with
  | none => s
  | some (r, o) =>
    let want := wantedSource s r o
    if want = o.fetch.source then s else (flushQueue l s).modOn l (setSource s r want)

/-! ## Taps following their source (R75, R76) -/

/-- The tap of an ON lane on SOURCE lane `src`. -/
def OnLane.tapOn (o : OnLane) (src : LaneId) : Option Tap :=
  match o.fetch.cursor with
  | some (.tap t) => if t.source = src then some t else none
  | _ => none

/-- The lane's tap replaced. -/
def OnLane.withTap (o : OnLane) (t : Tap) : OnLane := { o with fetch := { o.fetch with cursor := some (.tap t) } }

/-- `f` applied for every lane with a tap on `src`, in ascending lane order. -/
def forTaps (src : LaneId) (f : LaneId → Tap → State → State) (s : State) : State :=
  (List.finRange 64).foldl
    (fun s l =>
      match (s.lane l).on.bind fun o => o.tapOn src with
      | some t => f l t s
      | none => s) s

/-- The lane's tap placed afresh: a new identity, so the queue is flushed. -/
def replaceTap (l : LaneId) (t : Tap) (s : State) : State := (flushQueue l s).modOn l fun o => o.withTap t

/-- A source ingest raises every placed tap's distance by 1; a distance of N_s - 8 or more is a slip (R75, R76). -/
def tapsIngest (src : LaneId) (slots : Nat) (s : State) : State :=
  forTaps src
    (fun l t s =>
      match t.pos with
      | .waiting => s
      | .placed n b =>
        if slots - 8 ≤ b + 1 then (replaceTap l (placeTap s src t.lag) s).note l .slip .slip
        else s.modOn l fun o => o.withTap { t with pos := .placed n (b + 1) }) s

/-- A source's loss of sync leaves every tap on it with no position (R76). -/
def tapsLost (src : LaneId) (s : State) : State :=
  forTaps src (fun l t s => s.modOn l fun o => o.withTap { t with pos := .waiting }) s

/-- A source's resynchronisation at slot `k` places every tap on it afresh with b = 0 (R74, R76). -/
def tapsResync (src : LaneId) (k : Nat) (s : State) : State :=
  forTaps src (fun l t s => replaceTap l { t with pos := .placed k 0, fresh := true } s) s

/-! ## The fetch scan (R67, R68) -/

/-- What the next fetch of a cursor reads: its origin, slot address and run-start mark, and the cursor after it; none
when the cursor has no next packet (R70, R75). -/
def nextFetch (s : State) : FetchCursor → Option (Origin × Nat × Bool × FetchCursor)
  | .loop c k fresh =>
    (s.clip c).body.map fun b =>
      (.clip c k, b.address + 192 * k, fresh || k == 0, .loop c (stepLoop s c k) false)
  | .insertion i pos fresh =>
    match (s.order i).body with
    | none => none
    | some ob =>
      match cursorClip ob pos with
      | none => none
      | some (c, k) =>
        (s.clip c).body.map fun b =>
          (.clip c k, b.address + 192 * k, fresh || k == 0, .insertion i (stepCursor s ob pos) false)
  | .tap t =>
    match t.pos, (s.lane t.source).record with
    | .placed n (b + 1), some r =>
      some (.tap t.source n, r.base + 192 * n, t.fresh,
        .tap { t with pos := .placed ((n + 1) % r.slots) b, fresh := false })
    | _, _ => none

/-- The generation of the lane's queue or interject buffer. -/
def Lane.gen (ln : Lane) (interject : Bool) : BitVec 8 := if interject then ln.interjectGen else ln.queueGen

/-- The fetches issued and not completed: the waiting one, and those whose last line is on the memory port. -/
def State.fetches (s : State) : List FetchTag :=
  (s.fetchWait.map Prod.fst).toList ++
    s.memReads.filterMap fun
      | .fetch t true => some t
      | _ => none

/-- The fetch is one of the lane's buffer. -/
def FetchTag.isOf (t : FetchTag) (l : LaneId) (interject : Bool) : Bool := t.lane == l && t.interject == interject

/-- The lane's fetches in flight of the current generation (4.4). -/
def State.inFlight (s : State) (l : LaneId) (interject : Bool) : Nat :=
  (s.fetches.filter fun t => t.isOf l interject && t.gen == (s.lane l).gen interject && !t.dead).length

/-- A fetch that holds the lane's next fetch back: one of an older generation, or any from before a reset (R64). DESIGN
CHOICE (log entry 39): the 8-bit number alone tells an older generation, so after 256 flushes with a granted fetch still in
flight that fetch counts as one of the present generation. -/
def State.heldBack (s : State) (l : LaneId) (interject : Bool) : Bool :=
  s.fetches.any fun t => t.dead || (t.isOf l interject && t.gen != (s.lane l).gen interject)

/-- The lane's next prefetch, where it has one to make (R67). -/
def prefetchToMake (s : State) (l : LaneId) : Option (Origin × Nat × Bool × FetchCursor) :=
  match s.onOutput l with
  | none => none
  | some (_, o) =>
    if o.fetch.source.isSome ∧ o.fetch.queue.length + s.inFlight l false < 8 ∧ ¬ s.heldBack l false then
      o.fetch.cursor.bind (nextFetch s)
    else none

/-- The lane's next interject fetch, where it has one to make (R67, R73). -/
def interjectToMake (s : State) (l : LaneId) : Option (Origin × Nat × Bool × InterjectCursor) :=
  match s.onOutput l with
  | none => none
  | some (_, o) =>
    match o.fetch.interjectCursor with
    | none => none
    | some ic =>
      if o.fetch.interject.length + s.inFlight l true < 2 ∧ ¬ s.heldBack l true then
        (s.clip ic.clip).body.map fun b =>
          (.clip ic.clip ic.packet, b.address + 192 * ic.packet, ic.fresh || ic.packet == 0,
            { clip := ic.clip, packet := stepLoop s ic.clip ic.packet, fresh := false })
      else none

/-- The fetch tag of a fetch issued now. -/
def State.tagOf (s : State) (l : LaneId) (interject : Bool) (origin : Origin) (addr : Nat) (runStart : Bool) : FetchTag :=
  { lane := l, interject := interject, gen := (s.lane l).gen interject, origin := origin, addr := addr,
    runStart := runStart, dead := false }

/-- One prefetch issued for the lane. -/
def issuePrefetch (l : LaneId) (n : Origin × Nat × Bool × FetchCursor) (s : State) : State :=
  ({ s with fetchWait := some (s.tagOf l false n.1 n.2.1 n.2.2.1, 0) }).modOn l fun o =>
    { o with fetch := { o.fetch with cursor := some n.2.2.2, lastWasInterject := some false } }

/-- One interject fetch issued for the lane. -/
def issueInterject (l : LaneId) (n : Origin × Nat × Bool × InterjectCursor) (s : State) : State :=
  ({ s with fetchWait := some (s.tagOf l true n.1 n.2.1 n.2.2.1, 0) }).modOn l fun o =>
    { o with fetch := { o.fetch with interjectCursor := some n.2.2.2, lastWasInterject := some true } }

/-- One fetch issued for the lane, if it has one to make: with both kinds to make, the kind it did not issue last, the
prefetch first (R68). -/
def issueFor (l : LaneId) (s : State) : Option State :=
  let lastWasInterject := ((s.lane l).on.bind fun o => o.fetch.lastWasInterject).getD true
  match prefetchToMake s l, interjectToMake s l with
  | some p, some i => some (if lastWasInterject then issuePrefetch l p s else issueInterject l i s)
  | some p, none => some (issuePrefetch l p s)
  | none, some i => some (issueInterject l i s)
  | none, none => none

/-- The lanes in the order of a scan from `pos`, wrapping from 63 to 0. -/
def scanOrder (pos : LaneId) : List LaneId := (List.range 64).map fun k => pos + Fin.ofNat 64 k

/-- The fetch scan's choice: the first lane, from the scan position, that has a fetch to make, with that fetch issued. -/
def scanFetch (s : State) : Option (LaneId × State) :=
  (scanOrder s.scanPos).findSome? fun l => (issueFor l s).map fun t => (l, t)

/-- FETCH_ISSUE (R68): nothing while the arbiter holds a waiting prefetch read or no lane has a fetch to make. -/
def execFetchIssue (s : State) : Host.Outcome State Fault Refusal :=
  if s.fetchWait.isSome then .next s
  else
    match scanFetch s with
    | none => .next s
    | some (l, t) => .next { t with scanPos := l + 1 }

/-! ## Completion (R69, R73) -/

/-- The queue entry of a completed fetch (Table 4-4). -/
def entryOf (t : FetchTag) (data : SlotData) (errs : BitVec 3) : QueueEntry :=
  { packet := slotPacket data, stamp := slotStamp data, origin := t.origin, runStart := t.runStart, fault := errs != 0 }

/-- The clip's read-fault flag set, for a packet of a clip (R72, R73). -/
def setReadFault (s : State) : Origin → State
  | .clip c _ => s.modClip c fun x => { x with readFault := true }
  | .tap _ _ => s

/-- A faulted interject fetch as it completes (R73, R134): the entry's cursor moves past the packet, the clip's read-fault
flag and the alert's fetch-fault mark are set, and the lane counts a fetch fault. DEDUCED (log entry 24): the cursor moves one
packet on from where it stands, also while an earlier packet waits in the buffer. -/
def interjectFault (l : LaneId) (o : OnLane) (origin : Origin) (s : State) : State :=
  let s := (setReadFault s origin).note l .fetchFault .fetchFault
  match effectiveEntry s o.stack with
  | none => s
  | some e =>
    let len := match origin with
      | .clip c _ => stepLoop s c e.cursor
      | .tap _ _ => e.cursor
    (s.modAlert e.id fun a => { a with fetchFault := true }).modOn l fun o =>
      { o with stack := modEntry o.stack e.id fun e => { e with cursor := len } }

/-- What the completion of a fetch does: discarded where its lane is OFF, its generation is old or it was issued before a
reset (R64); otherwise it joins the lane's queue or interject buffer, a faulted interject fetch being discarded (R73).
DESIGN CHOICE (log entry 39): the generation is compared by its 8-bit number alone, so a fetch that 256 flushes have passed
by joins as one of the present generation. -/
def completeFetch (t : FetchTag) (data : SlotData) (errs : BitVec 3) (s : State) : State :=
  match (s.lane t.lane).on with
  | none => s
  | some o =>
    if t.dead ∨ t.gen ≠ (s.lane t.lane).gen t.interject then s
    else if t.interject then
      (if errs ≠ 0 then interjectFault t.lane o t.origin s
       else s.modOn t.lane fun o =>
        { o with fetch := { o.fetch with interject := o.fetch.interject ++ [entryOf t data errs] } })
    else s.modOn t.lane fun o =>
      { o with fetch := { o.fetch with queue := o.fetch.queue ++ [entryOf t data errs] } }

/-- FETCH_COMPLETE (R69): the last line of the oldest fetch on the memory port returns. -/
def execFetchComplete (data : SlotData) (errs : BitVec 3) (s : State) : Host.Outcome State Fault Refusal :=
  match nextDue s.memReads with
  | some (.fetch t _, rest) => .next (completeFetch t data errs { s with memReads := rest })
  | _ => .fault .unsolicitedData

end Sys2Proof.Machine
end

