-- ==== Sys2Proof/Machine/Insertion.lean ====
section
/-! DEFINITION. The insertion controller (chapter 5): binding, splice-in, ending, shadow, RETURN and CANCEL. -/

namespace Sys2Proof.Machine

/-! ## Binding (R80, R81, R96) -/

/-- The placement code matches the order under its care mask (R80). -/
def OrderBody.matchesCode (b : OrderBody) (placement : BitVec 32) : Bool :=
  ((placement ^^^ b.matchValue) &&& b.careMask) == 0#32

/-- The first ARMED order of the lane, in ascending index, that matches and is ready (R80). -/
def findOrder (s : State) (l : LaneId) (placement : BitVec 32) : Option OrderId :=
  (List.finRange 256).find? fun i =>
    (s.order i).state == .armed &&
      match (s.order i).body with
      | some b => b.lane == l && b.matchesCode placement && orderReady s b
      | none => false

/-- An order bound as the lane's waiting cue (R81): clips locked, return time given, fetch source judged. -/
def bindOrder (l : LaneId) (i : OrderId) (event : BitVec 32) (kind : BreakKind) (t : Stamp) (duration : Option Stamp)
    (s : State) : State :=
  match (s.order i).body with
  | none => s
  | some b =>
    let w : WaitingCue :=
      { order := i, event := event, kind := kind, splice := t, ret := returnTime t duration b.maxLength }
    let s := lockOrder (s.modOrder i fun x => { x with state := .bound }) b
    judgeSource l (s.modOn l fun o => { o with waiting := some w })

/-! ## Records (R90, R100) -/

/-- The playlist counts as fully served: the cursor is in the pad or exhausted (R90). -/
def ActiveInsertion.fullyServed (a : ActiveInsertion) : Bool :=
  match a.cursor with
  | some (.pad _) => true
  | some .exhausted => true
  | _ => false

/-- The classification of an insertion whose return compare is reached (Table 5-6). -/
def returnKind (a : ActiveInsertion) : RecordKind :=
  if a.cursor.isNone ∨ a.fullyServed then .insertComplete else .insertTruncated

/-- The classification of an insertion ended by chaining (Table 5-6). -/
def chainKind (a : ActiveInsertion) : RecordKind := if a.fullyServed then .insertComplete else .insertTruncated

/-- The record's first clip: the first playlist clip, FFFFh for a LIVE order. -/
def firstClipField (s : State) (i : OrderId) : Nat :=
  match (s.order i).body.map OrderBody.source with
  | some (.clips (c :: _) _) => c.val
  | _ => 0xFFFF

/-- The record of an ended insertion (R100), with DISTURBED where a clip it entered is disturbed (R62). -/
def insertionRecord (s : State) (l : LaneId) (a : ActiveInsertion) (kind : RecordKind) (timeOut : Stamp) : AsRun :=
  { kind := kind
    lane := l.val
    flags := ({ a.flags with disturbed := a.entered.any fun c => (s.clip c).disturbed }).byte
    order := a.order.val
    firstClip := firstClipField s a.order
    event := a.event
    timeIn := a.timeIn
    timeOut := timeOut
    served := a.served
    underrun := a.underrun
    ms := s.stationMs }

/-! ## Ending (R83, R86) -/

/-- An order leaving ACTIVE (R86). -/
def Order.dispose (x : Order) : Order :=
  if x.abort then Order.reset
  else if x.unlimited ∨ 0 < x.remaining then { x with state := .armed }
  else { x with state := .spent }

/-- An order leaves ACTIVE and its clips are released (R86). -/
def disposeOrder (i : OrderId) (s : State) : State :=
  match (s.order i).body with
  | some b => releaseOrder (s.modOrder i Order.dispose) b
  | none => s.modOrder i Order.dispose

/-- The lane's active insertion ended: record, order disposal, record discarded, fetch source judged (R86, R100). The time
out is `timeOut`, or R where there is none. -/
def endInsertion (l : LaneId) (a : ActiveInsertion) (kind : RecordKind) (timeOut : Option Stamp) (s : State) : State :=
  let s := s.handOver (insertionRecord s l a kind (timeOut.getD a.ret))
  judgeSource l ((disposeOrder a.order s).modOn l fun o => { o with active := none })

/-- A time compare: reached when the decision has a time at or after `t` (R47). -/
def reached (p : Option Stamp) (t : Stamp) : Bool :=
  match p with
  | some x => atOrAfter x t
  | none => false

/-- Step 1 of R83: how the lane's active insertion ends on a slot of presentation time `p`, if it does. -/
def endingOf (s : State) (p : Option Stamp) (a : ActiveInsertion) : Option RecordKind :=
  if (s.order a.order).abort then some .insertAborted
  else if reached p a.ret then some (returnKind a)
  else if a.cursor = some .exhausted then some .insertShort
  else none

/-- Step 1 of R83. -/
def endingStep (l : LaneId) (p : Option Stamp) (s : State) : State :=
  match (s.lane l).on.bind OnLane.active with
  | none => s
  | some a =>
    match endingOf s p a with
    | some kind => endInsertion l a kind p s
    | none => s

/-- The active insertion that a waiting cue becomes at its splice slot (R84): suspended and INTERRUPTED under an OVERRIDE
(R128), FEED_LOST_DURING where the feed is not LIVE (R112). -/
def splicedInsertion (s : State) (o : OnLane) (w : WaitingCue) (p : Stamp) : ActiveInsertion :=
  let underOverride := overrideEffective s o.stack
  let start := match (s.order w.order).body.map OrderBody.source with
    | some (.clips (c :: _) _) =>
      (some (ClipCursor.playlist 0 0), clipOffset (some p) (((s.clip c).body.map ClipBody.first).getD 0))
    | some (.clips [] _) => (some ClipCursor.exhausted, none)
    | _ => (none, none)
  { order := w.order, event := w.event, kind := w.kind, splice := w.splice, ret := w.ret, timeIn := p
    cursor := start.1, offset := start.2, entered := [], suspended := underOverride, served := 0, shadow := 0, underrun := 0
    flags := { Conditions.clear with interrupted := underOverride, feedLostDuring := o.feed.state != .live } }

/-- An order going from BOUND to ACTIVE (R84): its remaining uses fall by 1 unless unlimited. -/
def Order.activate (x : Order) : Order :=
  { x with state := .active, remaining := if x.unlimited then x.remaining else x.remaining - 1 }

/-- Splice-in (R84). -/
def spliceIn (l : LaneId) (w : WaitingCue) (p : Stamp) (s : State) : State :=
  let s := s.modOrder w.order Order.activate
  judgeSource l (s.modOn l fun o => { o with active := some (splicedInsertion s o w p), waiting := none })

/-- Steps 2 and 3 of R83: chaining (R85), splice-in, and an ending on the same slot. -/
def spliceStep (l : LaneId) (p : Option Stamp) (s : State) : State :=
  match (s.lane l).on.bind OnLane.waiting, p with
  | some w, some x =>
    if atOrAfter x w.splice then
      let s := match (s.lane l).on.bind OnLane.active with
        | some a => endInsertion l a (chainKind a) p s
        | none => s
      let s := spliceIn l w x s
      match (s.lane l).on.bind OnLane.active with
      | some a => if reached p a.ret then endInsertion l a (returnKind a) p s else s
      | none => s
    else s
  | _, _ => s

/-- Steps 1 to 3 of R83. -/
def insertionSteps (l : LaneId) (p : Option Stamp) (s : State) : State := spliceStep l p (endingStep l p s)

/-! ## Counting a slot (R87, R88, R89) -/

/-- A counted slot's CLOCK_STALE condition: the model is STALE or the decision has no time (R87). -/
def ActiveInsertion.countStale (a : ActiveInsertion) (stale : Bool) : ActiveInsertion :=
  { a with flags := { a.flags with clockStale := a.flags.clockStale || stale } }

/-- A CLIPS insertion's cursor moved past the packet it names (R88). Packet 0 of a clip is a run start: its D is worked at
this slot (R53) and the clip joins the clips entered. -/
def ActiveInsertion.passPacket (s : State) (p : Option Stamp) (a : ActiveInsertion) : ActiveInsertion :=
  match (s.order a.order).body, a.cursor with
  | some b, some pos =>
    match cursorClip b pos with
    | none => a
    | some (c, k) =>
      let first := ((s.clip c).body.map ClipBody.first).getD 0
      { a with
        cursor := some (stepCursor s b pos)
        offset := if k = 0 then clipOffset p first else a.offset
        entered := if k = 0 ∧ c ∉ a.entered then a.entered ++ [c] else a.entered }
  | _, _ => a

/-- A slot passed in shadow (R87, R89). -/
def ActiveInsertion.passShadow (s : State) (p : Option Stamp) (stale : Bool) (a : ActiveInsertion) : ActiveInsertion :=
  let a := a.passPacket s p
  ({ a with shadow := a.shadow + 1 }).countStale stale

/-- An underrun slot (R71, R87). -/
def ActiveInsertion.countUnderrun (stale : Bool) (a : ActiveInsertion) : ActiveInsertion :=
  ({ a with underrun := a.underrun + 1 }).countStale stale

/-! ## Cues (R39, R80, R92, R93, R101) -/

/-- The waiting cue removed: order ARMED with its uses unchanged, clips released, fetch source judged (R93). -/
def removeWaiting (l : LaneId) (w : WaitingCue) (s : State) : State :=
  let s := s.modOrder w.order fun x => { x with state := .armed }
  let s := match (s.order w.order).body with
    | some b => releaseOrder s b
    | none => s
  judgeSource l (s.modOn l fun o => { o with waiting := none })

/-- The maximum length of an order. -/
def maxLengthOf (s : State) (i : OrderId) : Nat := ((s.order i).body.map OrderBody.maxLength).getD 0

/-- A START or START_OPEN that timing accepted with splice time `t` (R80, R81). -/
def bindCue (l : LaneId) (c : Cue) (t : Stamp) (s : State) : Option CueRefusal × State :=
  if ((s.lane l).on.bind OnLane.waiting).isSome then (some .pendingFull, s)
  else
    match findOrder s l c.placement with
    | none => (some .noOrder, s)
    | some i =>
      match c.kind with
      | .start => (none, bindOrder l i c.event .start t c.duration s)
      | _ => (none, bindOrder l i c.event .startOpen t none s)

/-- A RETURN that timing accepted with requested time `q` (R92). -/
def returnCue (l : LaneId) (event : BitVec 32) (q : Stamp) (s : State) : Option CueRefusal × State :=
  let active := ((s.lane l).on.bind OnLane.active).filter fun a => a.event == event
  let waiting := ((s.lane l).on.bind OnLane.waiting).filter fun w => w.event == event
  match active, waiting with
  | some a, _ =>
    let r := requestedReturn a.splice q (maxLengthOf s a.order)
    (none, s.modOn l fun o => { o with active := some { a with ret := r } })
  | none, some w =>
    let r := requestedReturn w.splice q (maxLengthOf s w.order)
    (none, s.modOn l fun o => { o with waiting := some { w with ret := r } })
  | none, none => (some .unmatched, s)

/-- A CANCEL that timing accepted (R93). -/
def cancelCue (l : LaneId) (event : BitVec 32) (s : State) : Option CueRefusal × State :=
  let active := ((s.lane l).on.bind OnLane.active).filter fun a => a.event == event
  let waiting := ((s.lane l).on.bind OnLane.waiting).filter fun w => w.event == event
  match waiting, active with
  | some w, _ => (none, removeWaiting l w s)
  | none, some _ => (some .cancelLate, s)
  | none, none => (some .unmatched, s)

/-- The CUE_REFUSED record (R101). -/
def cueRefusedRecord (s : State) (l : LaneId) (r : CueRefusal) (event : BitVec 32) (pCue time : Option Stamp) : AsRun :=
  { kind := .cueRefused
    lane := l.val
    flags := BitVec.ofNat 8 r.code
    order := if r = .cancelLate then (((s.lane l).on.bind OnLane.active).map fun a => a.order.val).getD 0 else 0
    firstClip := 0xFFFF
    event := event
    timeIn := pCue.getD 0
    timeOut := time.getD 0
    served := 0
    underrun := 0
    ms := s.stationMs }

/-- An entry joins the recent-cue list, which holds at most 8 (R37). -/
def joinCues (cues : List RecentCue) (e : RecentCue) : List RecentCue :=
  if cues.length < 8 then cues ++ [e] else cues.tail ++ [e]

/-- What timing and the insertion controller make of a parsed cue that is no duplicate (R39). -/
def decideCue (l : LaneId) (timing : CueTiming) (c : Cue) (s : State) : Option CueRefusal × State :=
  match timing with
  | .refused r => (some r, s)
  | .splice t => bindCue l c t s
  | .requested q => returnCue l c.event q s
  | .cancel => cancelCue l c.event s

/-- A parsed cue taken (R37 to R39): a duplicate is counted and ignored; any other is timed and decided, joins the list
with its outcome, and gives a CUE_REFUSED record where it is refused. -/
def takeCue (l : LaneId) (c : Cue) (stamp : Arrival) (s : State) : State :=
  match s.onLane l with
  | none => s
  | some (r, o) =>
    if o.cues.any fun e => e.event == c.event && e.kind == c.kind then s.raise l .duplicateCue
    else
      let pCue := presentation o.clock r.playDelay (some stamp)
      let x := decideCue l (cueTiming o.clock r.lateGrace pCue c) c s
      let s := x.2.modOn l fun o => { o with cues := joinCues o.cues { event := c.event, kind := c.kind, outcome := x.1 } }
      match x.1 with
      | some why => s.handOver (cueRefusedRecord s l why c.event pCue c.time)
      | none => s

end Sys2Proof.Machine
end

