-- ==== Sys2Proof/Machine/FeedMonitor.lean ====
section
/-! DEFINITION. The feed monitor (chapter 6) and the commands LOSS_TIMER_EXPIRY and STALE_TIMER_EXPIRY. -/

namespace Sys2Proof.Machine

/-- The feed monitor's state at LANE ENABLE (R103). -/
def Feed.enabled (now : Millis) : Feed :=
  { state := .recovering, lossTimer := some now, good := 0, captureSeen := false, outage := none }

/-- P of the lane's previous decided stamp, or 0 when that is "no time" or the lane is a SOURCE lane (R105, R116). -/
def lossTime (r : LaneRecord) (o : OnLane) : Stamp :=
  if r.role = .source then 0 else (presentation o.clock r.playDelay o.track.prevStamp).getD 0

/-- First clip of a feed record: the slate clip id, FFFFh otherwise (R116). -/
def slateField (r : LaneRecord) : Nat :=
  match r.lossSource with
  | .slate c => c.val
  | _ => 0xFFFF

/-- The FEED_LOST record (R116). -/
def feedLostRecord (l : LaneId) (r : LaneRecord) (o : OnLane) (start : Stamp) (now : Millis) : AsRun :=
  { kind := .feedLost
    lane := l.val
    flags := 0
    order := (o.active.map fun a => a.order.val).getD 0
    firstClip := slateField r
    event := (o.active.map ActiveInsertion.event).getD 0
    timeIn := start
    timeOut := 0
    served := 0
    underrun := 0
    ms := now }

/-- The FEED_RESTORED record (R116). -/
def feedRestoredRecord (l : LaneId) (r : LaneRecord) (o : OnLane) (x : Outage) (now : Millis) : AsRun :=
  { kind := .feedRestored
    lane := l.val
    flags := 0
    order := 0
    firstClip := slateField r
    event := 0
    timeIn := x.start
    timeOut := lossTime r o
    served := x.served.toNat
    underrun := x.underrun.toNat
    ms := now }

/-- The proof of R108 is complete. -/
def Feed.proven (f : Feed) (recovery : Nat) : Bool := decide (recovery ≤ f.good) && f.captureSeen

/-- The lane enters LIVE (R109): an open outage gives FEED_RESTORED and is closed; the fetch source is judged again. -/
def enterLive (l : LaneId) (r : LaneRecord) (o : OnLane) (s : State) : State :=
  let s := match o.feed.outage with
    | some x => s.handOver (feedRestoredRecord l r o x s.stationMs)
    | none => s
  judgeSource l (s.modOn l fun o => { o with feed := { o.feed with state := .live, outage := none } })

/-- The proof judged in RECOVERING (R108). -/
def judgeProof (l : LaneId) (s : State) : State :=
  match s.onLane l with
  | none => s
  | some (r, o) => if o.feed.state = .recovering ∧ o.feed.proven r.recovery then enterLive l r o s else s

/-- What an ingest event makes of the feed state before the proof is judged (R107). -/
def Feed.ingest (f : Feed) (now : Millis) : Feed :=
  match f.state with
  | .live => { f with lossTimer := some now }
  | .lost => { f with state := .recovering, lossTimer := some now, good := 1 }
  | .recovering => { f with lossTimer := some now, good := heldAt 255 (f.good + 1) }

/-- An ingest event (R107). -/
def feedIngest (l : LaneId) (s : State) : State :=
  judgeProof l (s.modOn l fun o => { o with feed := o.feed.ingest s.stationMs })

/-- A capture notice (R108). -/
def captureNotice (l : LaneId) (s : State) : State :=
  judgeProof l (s.modOn l fun o => { o with feed := { o.feed with captureSeen := true } })

/-- The feed in LOST: timer stopped, good count 0, capture-seen mark clear (R105, R106). -/
def Feed.inLost (outage : Option Outage) : Feed :=
  { state := .lost, lossTimer := none, good := 0, captureSeen := false, outage := outage }

/-- FEED_LOST_DURING set on an active insertion (R105). -/
def ActiveInsertion.markFeedLost (a : ActiveInsertion) : ActiveInsertion :=
  { a with flags := { a.flags with feedLostDuring := true } }

/-- A LIVE lane entering LOST (R105). -/
def feedLost (l : LaneId) (r : LaneRecord) (o : OnLane) (s : State) : State :=
  let start := lossTime r o
  let s := s.modOn l fun o => { o with feed := Feed.inLost (some { start := start, served := 0, underrun := 0 }) }
  let s := s.handOver (feedLostRecord l r o start s.stationMs)
  judgeSource l (s.modOn l fun o => { o with active := o.active.map ActiveInsertion.markFeedLost })

/-- A RECOVERING lane entering LOST (R106). -/
def feedFlap (l : LaneId) (s : State) : State :=
  (s.modOn l fun o => { o with feed := Feed.inLost o.feed.outage }).note l .flap .flap

/-- LOSS_TIMER_EXPIRY (R104 to R106): nothing where the lane's loss timer has not run past its loss limit. -/
def execLossTimerExpiry (l : LaneId) (s : State) : Host.Outcome State Fault Refusal :=
  match s.onLane l with
  | none => .next s
  | some (r, o) =>
    match o.feed.lossTimer with
    | none => .next s
    | some start =>
      if elapsedOver s.stationMs start r.lossLimit then
        match o.feed.state with
        | .live => .next (feedLost l r o s)
        | .recovering => .next (feedFlap l s)
        | .lost => .next s
      else .next s

/-- STALE_TIMER_EXPIRY (R29): nothing where the model is not VALID or its timer has not run past the stale limit. -/
def execStaleTimerExpiry (l : LaneId) (s : State) : Host.Outcome State Fault Refusal :=
  match s.onLane l with
  | none => .next s
  | some (r, o) =>
    match o.clock with
    | .valid an cap =>
      if elapsedOver s.stationMs cap r.staleLimit then
        .next ((s.modOn l fun o => { o with clock := .stale an cap }).note l .stale .stale)
      else .next s
    | _ => .next s

end Sys2Proof.Machine
end

