-- ==== Sys2Proof/Machine/Alerting.lean ====
section
/-! DEFINITION. The alert controller (chapter 7) without the interject step: joins, effective alert changes, alert endings,
and the command ALERT_DURATION_EXPIRY. -/

namespace Sys2Proof.Machine

/-! ## Effective alert changes (R125) -/

/-- The interval of an INTERJECT alert, 0 for OVERRIDE. -/
def alertInterval (s : State) (a : AlertId) : Nat :=
  match (s.alert a).body.map AlertBody.mode with
  | some (.interject _ n) => n
  | _ => 0

/-- The alert's clip, where its entry has fields. -/
def alertClip (s : State) (a : AlertId) : Option ClipId := (s.alert a).body.map AlertBody.clip

/-- A stack entry as it becomes effective (R125 step 1). -/
def StackEntry.restart (s : State) (e : StackEntry) : StackEntry :=
  let e := { e with cursor := 0, offset := none }
  if isOverride s e.id then e else { e with countdown := alertInterval s e.id, due := false, wait := 0 }

/-- An active insertion as the override standing on its lane changes (R125 step 2, R128, R129). -/
def ActiveInsertion.setOverride (was isNow : Bool) (a : ActiveInsertion) : ActiveInsertion :=
  if !was && isNow then { a with suspended := true, flags := { a.flags with interrupted := true } }
  else if was && !isNow then { a with suspended := false }
  else a

/-- The interject fetch cursor an effective entry calls for: packet 0 of an INTERJECT alert's clip (R73). -/
def interjectStart (s : State) (e : Option StackEntry) : Option InterjectCursor :=
  match e with
  | none => none
  | some e =>
    if isOverride s e.id then none
    else (alertClip s e.id).map fun c => { clip := c, packet := 0, fresh := true }

/-- The lane context with its stack replaced by one of another effective alert: steps 1 and 2 of R125, and the interject
fetch cursor at packet 0 of a newly effective INTERJECT alert's clip (R73). -/
def OnLane.restack (s : State) (stack : List StackEntry) (o : OnLane) : OnLane :=
  let after := effectiveEntry s stack
  { o with
    stack := match after with
      | some e => modEntry stack e.id (StackEntry.restart s)
      | none => stack
    active := o.active.map (ActiveInsertion.setOverride (overrideEffective s o.stack) (overrideEffective s stack))
    fetch := { o.fetch with interjectCursor := interjectStart s after } }

/-- A lane's stack changed by `f`, and its effective alert judged again (R125): a change flushes the interject buffer
(R73) and the fetch source is judged. -/
def restack (l : LaneId) (f : List StackEntry → List StackEntry) (s : State) : State :=
  match (s.lane l).on with
  | none => s
  | some o =>
    if (effectiveEntry s o.stack).map StackEntry.id = (effectiveEntry s (f o.stack)).map StackEntry.id then
      s.modOn l fun o => { o with stack := f o.stack }
    else judgeSource l ((flushInterject l s).modOn l fun o => o.restack s (f o.stack))

/-! ## Joins (R124, R126) -/

/-- The lane carries the label: clock label, cue label or a label of its map. -/
def LaneRecord.carries (r : LaneRecord) (lb : Label) : Bool :=
  r.clockLabel == lb || r.cueLabel == some lb || r.labelMap.any fun e => e.label == lb

/-- Joining the alert clashes on the lane (R126). -/
def clashes (r : LaneRecord) (b : AlertBody) : Bool :=
  match b.mode with
  | .interject lb _ => r.carries lb
  | .override => false

/-- The entry a join pushes (R124). -/
def newEntry (r : LaneRecord) (a : AlertId) (b : AlertBody) : StackEntry :=
  { id := a, cursor := 0, offset := none, lastCount := 15
    countdown := match b.mode with
      | .interject _ n => n
      | .override => 0
    due := false, wait := 0, clash := clashes r b }

/-- The alert's zone set contains the lane's zone. -/
def AlertBody.covers (b : AlertBody) (r : LaneRecord) : Bool := b.zones.getLsbD r.zone

/-- The lane joins an alert in force (R124). -/
def joinAlert (a : AlertId) (b : AlertBody) (l : LaneId) (s : State) : State :=
  match s.onOutput l with
  | none => s
  | some (r, _) =>
    let s := if clashes r b then s.modLane l fun ln => ln.setFlag .clash else s
    restack l (fun st => st ++ [newEntry r a b]) s

/-- The ON OUTPUT lanes in the alert's zone set, ascending (R120 step 4). -/
def coveredLanes (s : State) (b : AlertBody) : List LaneId :=
  (List.finRange 64).filter fun l =>
    match s.onOutput l with
    | some (r, _) => b.covers r
    | none => false

/-! ## Endings (R121, R135) -/

/-- The alert's mode bit in its records (12.4). -/
def AlertBody.modeBit (b : AlertBody) : Bool :=
  match b.mode with
  | .interject _ _ => true
  | .override => false

/-- The ALERT_START record (R135). -/
def alertStartRecord (a : AlertId) (b : AlertBody) (joined : Nat) (now : Millis) : AsRun :=
  { kind := .alertStart, lane := joined, flags := BitVec.ofNat 8 (marks [b.modeBit]), order := a.val
    firstClip := b.clip.val, event := b.zones.setWidth 32, timeIn := 0, timeOut := 0, served := 0, underrun := 0
    ms := now }

/-- The ALERT_END record (R135). -/
def alertEndRecord (s : State) (a : AlertId) (b : AlertBody) (cause : AlertCause) : AsRun :=
  let x := s.alert a
  { kind := .alertEnd, lane := x.laneCount
    flags := BitVec.ofNat 8
      (marks [b.modeBit, cause == .expired, false, (s.clip b.clip).disturbed, x.fetchFault])
    order := a.val, firstClip := b.clip.val, event := b.zones.setWidth 32, timeIn := 0, timeOut := 0
    served := x.served.toNat, underrun := x.underrun.toNat, ms := s.stationMs }

/-- The alert's entry removed from the stack of every lane that holds one (R121 step 1). -/
def leaveAlert (a : AlertId) (s : State) : State :=
  (List.finRange 64).foldl
    (fun s l =>
      match (s.lane l).on with
      | some o => if o.stack.any fun e => e.id == a then restack l (fun st => st.filter fun e => e.id != a) s else s
      | none => s) s

/-- An alert in force ended with a cause (R121). -/
def endAlert (a : AlertId) (b : AlertBody) (cause : AlertCause) (s : State) : State :=
  let s := leaveAlert a s
  let s := s.modAlert a fun x => { x with timer := false, inForce := false, lastCause := some cause }
  let s := { s with forceList := s.forceList.filter fun x => x != a }
  let s := s.release b.clip
  s.handOver (alertEndRecord s a b cause)

/-- ALERT_DURATION_EXPIRY (R123): nothing where the alert's duration timer has not run past its duration. -/
def execAlertDurationExpiry (a : AlertId) (s : State) : Host.Outcome State Fault Refusal :=
  match (s.alert a).body with
  | none => .next s
  | some b =>
    if (s.alert a).timer ∧ elapsedOver s.stationMs (s.alert a).start b.duration then
      .next (endAlert a b .expired s)
    else .next s

end Sys2Proof.Machine
end

