-- ==== Sys2Proof/Machine/Ingest.lean ====
section
/-! DEFINITION. The ingest cursor (1.4) and the ingest parser (chapter 2): what a write into the ring of an ON lane does
beyond being forwarded. -/

namespace Sys2Proof.Machine

/-! ## The parser (R22 to R39) -/

/-- A capture taken on the lane (R26), counted as a timebase change where the discontinuity flag is set (R30). -/
def captureStep (l : LaneId) (p : Packet) (a : Arrival) (s : State) : State :=
  let s := s.modOn l fun o => { o with clock := captureModel (clockRefBase p) (clockRefExt p) a s.stationMs }
  let s := if discontinuity p then s.note l .timebaseChange .timebaseChanged else s
  captureNotice l s

/-- The anchor refreshed by a slot that is not a capture (R28). -/
def refreshStep (l : LaneId) (a : Arrival) (s : State) : State :=
  s.modOn l fun o => { o with clock := o.clock.refresh (some a) }

/-- Clock handling of a packet with a good header (R26 to R28). -/
def clockStep (l : LaneId) (r : LaneRecord) (p : Packet) (a : Arrival) (s : State) : State :=
  if packetLabel p = r.clockLabel ∧ hasClockRef p then
    if (clockRefExt p).toNat < 300 then captureStep l p a s
    else refreshStep l a (s.note l .badReference .badReference)
  else refreshStep l a s

/-- Cue handling of a packet with a good header (R33, R34). -/
def cueStep (l : LaneId) (r : LaneRecord) (p : Packet) (a : Arrival) (s : State) : State :=
  if r.role = .output ∧ r.cueLabel = some (packetLabel p) ∧ unitStart p ∧ bearsPayload p then
    if scrambling p ≠ 0 then s.raise l .notACue
    else
      match scanCue p with
      | .notACue => s.raise l .notACue
      | .malformed event =>
        (s.note l .malformedCue .malformedCue).handOver (cueRefusedRecord s l .malformed event none none)
      | .parsed c => takeCue l c a s
  else s

/-- The parser's whole handling of an ingested slot (R22, R23). -/
def parseSlot (l : LaneId) (r : LaneRecord) (slot : SlotData) (s : State) : State :=
  let p := slotPacket slot
  let a := slotStamp slot
  if !hasMarker p then refreshStep l a (s.note l .noMarker .noMarker)
  else
    match headerVerdict p with
    | .bad => refreshStep l a (s.note l .badHeader .badHeader)
    | .errored => refreshStep l a (s.note l .errored .errored)
    | .good => cueStep l r p a (clockStep l r p a s)

/-! ## Slot ingest (R10) -/

/-- The tracker's part of an ingest: stamp history, slot interval estimate (R31, R32), and fill and starved lead by role
(R10). -/
def Tracker.ingestSlot (t : Tracker) (r : LaneRecord) (a : Arrival) : Tracker :=
  let h := joinHistory t.history a
  let t := { t with history := h, estimate := slotInterval r.nominal h }
  if r.role = .output ∧ 0 < t.lead then { t with lead := t.lead - 1 }
  else { t with fill := heldAt r.slots (t.fill + 1) }

/-- The ingest overruns an OUTPUT lane's ring: no starved lead and fill already N (R10). -/
def Tracker.overruns (t : Tracker) (r : LaneRecord) : Bool :=
  r.role == .output && t.lead == 0 && decide (r.slots ≤ t.fill)

/-- A completed slot ingested (R10, R21). `feedFirst` gives the order of the feed monitor's event and the parser's. -/
def ingestStep (l : LaneId) (r : LaneRecord) (slot : SlotData) (feedFirst : Bool) (s : State) : State :=
  let overrun := match (s.lane l).on with
    | some o => o.track.overruns r
    | none => false
  let s := s.modOn l fun o => { o with track := o.track.ingestSlot r (slotStamp slot) }
  let s := if overrun then s.note l .overrun .overrun else s
  let s := if r.role = .source then tapsIngest l r.slots s else s
  if feedFirst then parseSlot l r slot (feedIngest l s) else feedIngest l (parseSlot l r slot s)

/-! ## The ingest cursor (R9, R11, R12) -/

/-- The write resynchronises an unsynchronised cursor: a whole line 0 with a start marker (R12). -/
def resynchronises (line : Nat) (data : Line) (enables : Enables) : Bool :=
  line == 0 && enables == BitVec.allOnes 64 && getByte data 4 == 0x47#8

/-- The tracker after a resynchronisation at slot `k` (R12, Table 2-5). -/
def Tracker.resync (t : Tracker) (r : LaneRecord) (k : Nat) (data : Line) : Tracker :=
  { t with
    ingest := .synchronised k 1
    assembly := setSlotLine t.assembly 0 data
    history := []
    estimate := r.nominal
    fill := match t.play with
      | some p => ringDiff k p r.slots
      | none => 0
    lead := 0 }

/-- A write into the ring of an ON lane whose cursor is UNSYNCHRONISED (R12). -/
def resyncStep (l : LaneId) (r : LaneRecord) (k line : Nat) (data : Line) (enables : Enables) (s : State) : State :=
  if resynchronises line data enables then
    let s := s.modOn l fun o => { o with track := o.track.resync r k data }
    if r.role = .source then tapsResync l k s else s
  else s

/-- The loss of ingest sync (R11). -/
def loseSync (l : LaneId) (r : LaneRecord) (s : State) : State :=
  let s := (s.modOn l fun o => { o with track := { o.track with ingest := .unsynchronised } }).note l .lostSync .lostSync
  if r.role = .source then tapsLost l s else s

/-- A write into line `line` of slot `k` of the ring of an ON lane (R9, R11, R12). -/
def ringStep (l : LaneId) (k line : Nat) (data : Line) (enables : Enables) (feedFirst : Bool) (s : State) : State :=
  match s.onLane l with
  | none => s
  | some (r, o) =>
    match o.track.ingest with
    | .unsynchronised => resyncStep l r k line data enables s
    | .synchronised i e =>
      if k = i ∧ line = e ∧ enables = BitVec.allOnes 64 then
        let slot := setSlotLine o.track.assembly line data
        let next : IngestCursor := if line < 2 then .synchronised i (line + 1) else .synchronised ((i + 1) % r.slots) 0
        let s := s.modOn l fun o => { o with track := { o.track with assembly := slot, ingest := next } }
        if line < 2 then s else ingestStep l r slot feedFirst s
      else resyncStep l r k line data enables (loseSync l r s)

end Sys2Proof.Machine
end

