-- ==== Sys2Proof/Machine/Selector.lean ====
section
/-! DEFINITION. The slot selector (chapter 8), with the interject step (7.4): everything the content part of a slot
decision does (R16, R137). -/

namespace Sys2Proof.Machine

/-- What stage 1 of R137 fixes about a decided slot: the returned line 0 and its error indication, the decision, its
stamp, P_slot and C_est, and whether the lane's model is STALE. -/
structure Decided where
  data : Line
  err : Bool
  fresh : Bool
  stamp : Option Arrival
  pSlot : Option Stamp
  cEst : Option Nat
  stale : Bool
  deriving DecidableEq, Repr

/-- The packet chosen for a slot: the network's own, a generated filler, a substituted packet mapped to a place of the
lane's label map, or an interject packet. -/
inductive Outgoing where
  | network
  | filler
  | mapped (p : Packet) (place : Nat)
  | interject (p : Packet)
  deriving DecidableEq, Repr

/-! ## Stage 1: the decided stamp (R16, R17, R46) -/

/-- The stamp of a decision (R16): the arrival stamp of a fresh slot read without error, else the synthetic stamp. -/
def decidedStamp (o : OnLane) (fresh : Bool) (data : Line) (err : Bool) : Option Arrival :=
  if fresh ∧ ¬ err then some (line0Stamp data) else syntheticStamp o.track.prevStamp o.track.estimate

/-- What the decision's content part starts from. -/
def decide1 (r : LaneRecord) (o : OnLane) (d : Decision) (data : Line) (err : Bool) : Decided :=
  let stamp := decidedStamp o d.fresh data err
  { data := data, err := err, fresh := d.fresh, stamp := stamp
    pSlot := presentation o.clock r.playDelay stamp, cEst := clockEstimate o.clock stamp, stale := o.clock.isStale }

/-- Stage 1 in the lane: the decision leaves the list, the stamp becomes the previous decided stamp, the anchor is
refreshed. -/
def OnLane.takeDecision (d : Decided) (o : OnLane) : OnLane :=
  { o with
    track := { o.track with
      awaiting := o.track.awaiting.tail
      prevStamp := if d.stamp.isSome then d.stamp else o.track.prevStamp }
    clock := o.clock.refresh d.stamp }

/-! ## Stage 3: the source (R138) and the packet taken (R71, R140) -/

/-- The class of a slot: the first line of Table 8-1 that applies. -/
def sourceClass (s : State) (o : OnLane) (d : Decided) : SourceClass :=
  if overrideEffective s o.stack then .alert
  else if (o.active.filter fun a => !a.suspended && a.cursor != some .exhausted).isSome then .insertion
  else if o.feed.state ≠ .live then .loss
  else if d.fresh ∧ ¬ d.err then .network
  else .filler

/-- The substituted classes (R138). -/
def SourceClass.substituted : SourceClass → Bool
  | .alert => true
  | .insertion => true
  | .loss => true
  | _ => false

/-- P of a tap packet's own arrival stamp, on its source lane's model and play delay (R55). -/
def sourceTime (s : State) (e : QueueEntry) : Option Stamp :=
  match e.origin with
  | .clip _ _ => none
  | .tap src _ =>
    match s.onLane src with
    | some (r, o) => presentation o.clock r.playDelay (some e.stamp)
    | none => none

/-- The offset after a tap packet is taken: worked at the first packet of a live run, else kept (R55, R140). DEDUCED (log
entry 40): a run-start packet that is a fetch fault is a packet taken, so the run begins at it, with D worked from its stamp
bytes as they were read. -/
def tapOffset (s : State) (mode : StampMode) (d : Decided) (e : QueueEntry) (held : Option Stamp) : Option Stamp :=
  if e.runStart then liveOffset mode d.pSlot (sourceTime s e) else held

/-- The first presentation stamp of a clip. -/
def clipFirst (s : State) (c : ClipId) : Stamp := ((s.clip c).body.map ClipBody.first).getD 0

/-- An active insertion after a packet is taken for it (R87, R88, R140). -/
def ActiveInsertion.servePacket (s : State) (d : Decided) (e : QueueEntry) (a : ActiveInsertion) : ActiveInsertion :=
  let a := match (s.order a.order).body.map OrderBody.source with
    | some (.live _ mode _) => { a with offset := tapOffset s mode d e a.offset }
    | _ => a.passPacket s d.pSlot
  let a := { a with served := a.served + 1, flags := { a.flags with fetchFault := a.flags.fetchFault || e.fault } }
  a.countStale (d.stale || d.pSlot.isNone)

/-- A stack entry after a packet of its OVERRIDE clip is taken (R127): packet 0 is a run start. -/
def StackEntry.servePacket (s : State) (d : Decided) (e : StackEntry) : StackEntry :=
  match alertClip s e.id with
  | none => e
  | some c =>
    { e with
      cursor := stepLoop s c e.cursor
      offset := if e.cursor = 0 then clipOffset d.pSlot (clipFirst s c) else e.offset }

/-- What a loss-source run state that is none counts as when a packet is taken: each selection of the slate starts at packet 0
(R111, R140), with no D yet. DESIGN CHOICE (log entry 41): the run state comes into being at that first packet. -/
def LossRun.atSelection : LossRun := { cursor := 0, offset := none }

/-- The loss-source run state after a packet is taken (R111, R140). -/
def LossRun.servePacket (s : State) (r : LaneRecord) (d : Decided) (e : QueueEntry) (x : LossRun) : LossRun :=
  match r.lossSource with
  | .filler => x
  | .slate c =>
    { cursor := stepLoop s c x.cursor
      offset := if x.cursor = 0 then clipOffset d.pSlot (clipFirst s c) else x.offset }
  | .backup _ mode _ => { x with offset := tapOffset s mode d e x.offset }

/-- A loss-source slot counted in an open outage record (R115). -/
def Feed.countServed (f : Feed) : Feed :=
  { f with outage := f.outage.map fun x => { x with served := raise32 x.served } }

/-- A loss-source underrun counted in an open outage record (R115). -/
def Feed.countUnderrun (f : Feed) : Feed :=
  { f with outage := f.outage.map fun x => { x with underrun := raise32 x.underrun } }

/-- The owner's record of a packet taken (R140): cursor moved, run begun, counts raised. -/
def ownerServed (s : State) (r : LaneRecord) (cl : SourceClass) (d : Decided) (e : QueueEntry) (o : OnLane) : OnLane :=
  match cl with
  | .alert =>
    match effectiveEntry s o.stack with
    | some x => { o with stack := modEntry o.stack x.id (StackEntry.servePacket s d) }
    | none => o
  | .insertion => { o with active := o.active.map (ActiveInsertion.servePacket s d e) }
  | .loss =>
    { o with
      sel := { o.sel with lossRun := some ((o.sel.lossRun.getD .atSelection).servePacket s r d e) }
      feed := o.feed.countServed }
  | _ => o

/-- The alert table's record of a packet taken for an OVERRIDE alert (R127). -/
def Alert.served1 (fault : Bool) (a : Alert) : Alert :=
  { a with served := raise32 a.served, fetchFault := a.fetchFault || fault }

/-- The head of the queue taken for the slot, and its owner told (R71, R72, R140). -/
def takeHead (l : LaneId) (r : LaneRecord) (cl : SourceClass) (d : Decided) (e : QueueEntry) (s : State) : State :=
  let t := s.modOn l fun o =>
    let o := ownerServed s r cl d e o
    { o with fetch := { o.fetch with queue := o.fetch.queue.tail } }
  let t := match cl, (s.lane l).on.bind fun o => effectiveEntry s o.stack with
    | .alert, some x => t.modAlert x.id (Alert.served1 e.fault)
    | _, _ => t
  if e.fault then (setReadFault t e.origin).note l .fetchFault .fetchFault else t

/-- An underrun (R71, R87, R115, R127). -/
def underrun (l : LaneId) (cl : SourceClass) (d : Decided) (s : State) : State :=
  let t := s.note l .underrun .underrun
  match cl with
  | .alert =>
    match (s.lane l).on.bind fun o => effectiveEntry s o.stack with
    | some x => t.modAlert x.id fun a => { a with underrun := raise32 a.underrun }
    | none => t
  | .insertion =>
    t.modOn l fun o => { o with active := o.active.map (ActiveInsertion.countUnderrun (d.stale || d.pSlot.isNone)) }
  | .loss => t.modOn l fun o => { o with feed := o.feed.countUnderrun }
  | _ => t

/-! ## Stage 4: mapping and rewrites (R142 to R144) -/

/-- The kind a label has in a list. -/
def kindIn (ls : List LabelEntry) (lb : Label) : Option StreamKind := (ls.find? fun e => e.label == lb).map LabelEntry.kind

/-- The place of a kind in a label map. -/
def placeOf (ls : List LabelEntry) (k : StreamKind) : Option Nat := ls.findIdx? fun e => e.kind == k

/-- The list a packet's label is looked up in (R142): the clip's label list, or the source lane's label map. -/
def originLabels (s : State) : Origin → List LabelEntry
  | .clip c _ => ((s.clip c).body.map ClipBody.labels).getD []
  | .tap src _ => ((s.lane src).record.map LaneRecord.labelMap).getD []

/-- The outcome of label mapping (R142, R143). -/
inductive Mapping where
  | to (place : Nat) (label : Label)
  | filler
  | unmapped
  deriving DecidableEq, Repr

/-- Label mapping of a taken packet (R142, R143). What counts as a bad header of an errored packet is log entry 38's choice. -/
def mapPacket (source target : List LabelEntry) (p : Packet) : Mapping :=
  if !hasMarker p || headerVerdict p == .bad then .unmapped
  else if packetLabel p = fillerLabel then .filler
  else
    match (kindIn source (packetLabel p)).bind (placeOf target) with
    | none => .unmapped
    | some i =>
      match target[i]? with
      | some e => .to i e.label
      | none => .unmapped

/-- The offset of a run, with whether its stamps are moved and its clock references restamped (Table 8-2). -/
structure RunRewrite where
  offset : Option Stamp
  restamps : Bool
  deriving DecidableEq, Repr

/-- The rewrites a taken packet gets from its owner, as the owner stands after taking it (R140, R144). -/
def runRewrite (s : State) (r : LaneRecord) (cl : SourceClass) (o : OnLane) : RunRewrite :=
  match cl with
  | .alert => { offset := (effectiveEntry s o.stack).bind StackEntry.offset, restamps := true }
  | .insertion =>
    match o.active with
    | none => { offset := none, restamps := false }
    | some a =>
      match (s.order a.order).body.map OrderBody.source with
      | some (.live _ _ _) => { offset := a.offset, restamps := a.offset.isSome }
      | _ => { offset := a.offset, restamps := true }
  | .loss =>
    match o.sel.lossRun, r.lossSource with
    | some x, .backup _ _ _ => { offset := x.offset, restamps := x.offset.isSome }
    | some x, _ => { offset := x.offset, restamps := true }
    | none, _ => { offset := none, restamps := false }
  | _ => { offset := none, restamps := false }

/-- A packet's stamps moved and its clock reference restamped (R54 to R56). -/
def rewrite (x : RunRewrite) (cEst : Option Nat) (p : Packet) : Packet :=
  let p := match x.offset with
    | some off => moveStamps p off
    | none => p
  if x.restamps then restamp p cEst else p

/-- The stamps of the packet were to be moved and it is unparsed (R52). -/
def unparsedIn (x : RunRewrite) (p : Packet) : Bool := x.offset.isSome && scanStamps p == .unparsed

/-- A taken packet prepared: a fetch fault or an unmapped packet is a generated filler, any other is mapped and rewritten;
the lane's unmapped and unparsed-stamp counters (R52, R72, R143). -/
def prepareTaken (l : LaneId) (r : LaneRecord) (cl : SourceClass) (d : Decided) (e : QueueEntry) (s : State) :
    Outgoing × State :=
  if e.fault then (.filler, s)
  else
    match mapPacket (originLabels s e.origin) r.labelMap e.packet with
    | .filler => (.filler, s)
    | .unmapped => (.filler, s.note l .unmapped .unmapped)
    | .to i lb =>
      let x := match (s.lane l).on with
        | some o => runRewrite s r cl o
        | none => { offset := none, restamps := false }
      let p := setLabel e.packet lb
      (.mapped (rewrite x d.cEst p) i, if unparsedIn x p then s.raise l .unparsedStamp else s)

/-- Stages 3 and 4 for a class: the packet and the state after taking it. -/
def chooseSource (l : LaneId) (r : LaneRecord) (cl : SourceClass) (d : Decided) (s : State) : Outgoing × State :=
  match cl with
  | .network => (.network, s)
  | .filler => (.filler, s)
  | cl =>
    if cl = .loss ∧ r.lossSource = .filler then (.filler, s.modOn l fun o => { o with feed := o.feed.countServed })
    else
      match (s.lane l).on.bind fun o => o.fetch.queue.head? with
      | none => (.filler, underrun l cl d s)
      | some e => prepareTaken l r cl d e (takeHead l r cl d e s)

/-- A suspended active insertion passes the slot in shadow (R87, R89). -/
def shadowStep (l : LaneId) (d : Decided) (s : State) : State :=
  s.modOn l fun o =>
    { o with active := o.active.map fun a =>
        if a.suspended ∧ a.cursor ≠ some .exhausted then a.passShadow s d.pSlot (d.stale || d.pSlot.isNone) else a }

/-! ## Stage 5: the interject step (R130 to R134) -/

/-- The due countdown paced (R130); a clashing entry is not paced (R126). -/
def StackEntry.pace (interval : Nat) (e : StackEntry) : StackEntry :=
  if e.clash then e
  else if e.countdown ≤ 1 then
    { e with countdown := interval, due := true, wait := if e.due then e.wait else 0 }
  else { e with countdown := e.countdown - 1 }

/-- The label and clock-reference test of the packet chosen so far, as placement reads them (R131, R132). -/
def chosenLabel (d : Decided) : Outgoing → Label × Bool
  | .network => (packetLabel (line0Packet d.data), hasClockRef (line0Packet d.data))
  | .filler => (fillerLabel, false)
  | .mapped p _ => (packetLabel p, hasClockRef p)
  | .interject p => (packetLabel p, hasClockRef p)

/-- What placement does with a due packet while the buffer holds an entry (R131). -/
inductive Placement where
  | replaces
  | displaces
  | waits
  deriving DecidableEq, Repr

/-- The placement judgement (R131, R132). -/
def placement (r : LaneRecord) (d : Decided) (wait : Nat) (out : Outgoing) : Placement :=
  let c := chosenLabel d out
  if c.1 = fillerLabel then .replaces
  else if r.deadline ≤ wait ∧ ¬ c.2 ∧ r.cueLabel ≠ some c.1 then .displaces
  else .waits

/-- The stack entry after its interject packet goes out (R131, R133): the cursor past it, D worked at packet 0, the last
count advanced for a packet with payload, the due mark cleared. DESIGN CHOICE (log entry 36): in a run whose packet 0 was a
faulted fetch, which R73 discards, no slot serves packet 0 and the manual gives no D; the entry keeps the D it has, that of
the run before, or none in the first run since the alert became effective. -/
def StackEntry.send (s : State) (d : Decided) (q : QueueEntry) (e : StackEntry) : StackEntry :=
  match q.origin with
  | .tap _ _ => e
  | .clip c k =>
    { e with
      cursor := stepLoop s c e.cursor
      offset := if k = 0 then clipOffset d.pSlot (clipFirst s c) else e.offset
      lastCount := if bearsPayload q.packet then e.lastCount + 1 else e.lastCount
      due := false
      wait := 0 }

/-- The interject packet prepared (R133), from the entry as it stands after sending. -/
def interjectPacket (lb : Label) (d : Decided) (e : StackEntry) (p : Packet) : Packet :=
  setCount (rewrite { offset := e.offset, restamps := true } d.cEst (setLabel p lb)) e.lastCount

/-- The label map entry a network packet's label names. -/
def networkPlace (r : LaneRecord) (d : Decided) : Option Nat :=
  r.labelMap.findIdx? fun e => e.label == packetLabel (line0Packet d.data)

/-- A continuity record changed by `f`. -/
def Selector.modRecord (x : Selector) (i : Nat) (f : Continuity → Continuity) : Selector :=
  { x with continuity := x.continuity.modify i f }

/-- The mark a displaced packet leaves in continuity: a network packet with payload on a mapped label marks its entry
pending (R150). -/
def Selector.displaced (r : LaneRecord) (d : Decided) (out : Outgoing) (x : Selector) : Selector :=
  match out with
  | .network =>
    if bearsPayload (line0Packet d.data) then
      match networkPlace r d with
      | some i => x.modRecord i fun c => { c with pending := true }
      | none => x
    else x
  | _ => x

/-- The interject label of an alert. -/
def interjectLabel (s : State) (a : AlertId) : Option Label :=
  match (s.alert a).body.map AlertBody.mode with
  | some (.interject lb _) => some lb
  | _ => none

/-- The interject packet sent in place of the packet chosen. -/
def sendInterject (l : LaneId) (r : LaneRecord) (d : Decided) (lb : Label) (e : StackEntry) (q : QueueEntry)
    (displaces : Bool) (out : Outgoing) (s : State) : Outgoing × State :=
  let e := e.send s d q
  let t := s.modOn l fun o =>
    { o with
      stack := modEntry o.stack e.id fun _ => e
      fetch := { o.fetch with interject := o.fetch.interject.tail }
      sel := if displaces then o.sel.displaced r d out else o.sel }
  let t := t.modAlert e.id fun a => { a with served := raise32 a.served }
  let t := if displaces then t.raise l .displaced else t
  let t := if unparsedIn { offset := e.offset, restamps := true } (setLabel q.packet lb) then t.raise l .unparsedStamp else t
  (.interject (interjectPacket lb d e q.packet), t)

/-- The interject step (R130, R131, R134), taken while the effective alert is an INTERJECT alert (R145). -/
def interjectStep (l : LaneId) (r : LaneRecord) (d : Decided) (out : Outgoing) (s : State) : Outgoing × State :=
  match (s.lane l).on with
  | none => (out, s)
  | some o =>
    match effectiveEntry s o.stack with
    | none => (out, s)
    | some e =>
      match interjectLabel s e.id with
      | none => (out, s)
      | some lb =>
        let e := e.pace (alertInterval s e.id)
        let s := s.modOn l fun o => { o with stack := modEntry o.stack e.id fun _ => e }
        let waits := s.modOn l fun o =>
          { o with stack := modEntry o.stack e.id fun e => { e with wait := heldAt 255 (e.wait + 1) } }
        if e.due then
          match o.fetch.interject.head?, placement r d e.wait out with
          | some q, .replaces => sendInterject l r d lb e q false out s
          | some q, .displaces => sendInterject l r d lb e q true out s
          | _, _ => (out, waits)
        else (out, s)

/-! ## Stage 6: continuity (R146 to R150) -/

/-- The count after a last count: none counts as 15 for a substituted packet (R147). -/
def Continuity.lastOr15 (c : Continuity) : BitVec 4 := c.last.getD 15

/-- The count a substituted packet carries and the record after it (R147). -/
def Continuity.substituted (payload : Bool) (c : Continuity) : BitVec 4 × Continuity :=
  if payload then (c.lastOr15 + 1, { c with last := some (c.lastOr15 + 1) }) else (c.lastOr15, c)

/-- The count a network packet carries and the record after it (Table 8-3). Where a pending entry has no last count the
manual states no count: `open_`, a free value, stands for it. -/
def Continuity.network (open_ : BitVec 4) (payload : Bool) (input : BitVec 4) (c : Continuity) : BitVec 4 × Continuity :=
  let last := c.last.getD open_
  if payload then
    if c.pending then (last + 1, { last := some (last + 1), delta := last + 1 - input, pending := false })
    else
      match c.last with
      | some _ => (input + c.delta, { c with last := some (input + c.delta) })
      | none => (input, { c with last := some input })
  else if c.pending then (last, c)
  else (input + c.delta, c)

/-- Every entry whose last count is not none marked pending (R148). -/
def Selector.markPending (x : Selector) : Selector :=
  { x with away := false, continuity := x.continuity.map fun c => if c.last.isSome then { c with pending := true } else c }

/-- The network packet is subject to count rewriting (R139): a start marker, and the label of a map entry. -/
def rewrittenPlace (r : LaneRecord) (d : Decided) : Option Nat :=
  if hasMarker (line0Packet d.data) then networkPlace r d else none

/-- Line 0 with the packet's count rewritten: bits 3..0 of slot byte 7. -/
def setLine0Count (data : Line) (c : BitVec 4) : Line := setByte data 7 ((getByte data 7 &&& 0xF0#8) ||| c.setWidth 8)

/-- The prepared copy of a packet that replaces the whole slot; bytes 0..3 as the returned line 0 held them (R151). -/
def replacedCopy (data : Line) (p : Packet) : PreparedCopy :=
  let x := makeSlot (line0Stamp data) p
  { line0 := some (slotLine x 0), line1 := some (slotLine x 1), line2 := some (slotLine x 2) }

/-- Stages 6 and 7: the selector after continuity, and the prepared copy (R147 to R151). -/
def finishPacket (r : LaneRecord) (cl : SourceClass) (d : Decided) (out : Outgoing) (x : Selector) :
    PreparedCopy × Selector :=
  let x := if cl = .network ∧ x.away then x.markPending else x
  match out with
  | .network =>
    match rewrittenPlace r d with
    | none => ({ line0 := none, line1 := none, line2 := none }, x)
    | some i =>
      let p := line0Packet d.data
      let n := x.continuity[i]?.map
        (Continuity.network (Config.openLastCount d.data i) (bearsPayload p) (packetCount p))
      match n with
      | none => ({ line0 := none, line1 := none, line2 := none }, x)
      | some n =>
        ({ line0 := some (setLine0Count d.data n.1), line1 := none, line2 := none }, x.modRecord i fun _ => n.2)
  | .filler => (replacedCopy d.data fillerPacket, { x with away := x.away || cl.substituted })
  | .mapped p i =>
    let n := x.continuity[i]?.map (Continuity.substituted (bearsPayload p))
    match n with
    | none => (replacedCopy d.data p, { x with away := true })
    | some n => (replacedCopy d.data (setCount p n.1), { (x.modRecord i fun _ => n.2) with away := true })
  | .interject p => (replacedCopy d.data p, x)

/-! ## The content part (R16, R137) -/

/-- Stages 3 to 7 of R137, once stages 1 and 2 are done. -/
def serveSlot (l : LaneId) (r : LaneRecord) (d : Decided) (s : State) : State :=
  match (s.lane l).on with
  | none => s
  | some o =>
    let cl := sourceClass s o d
    let s := shadowStep l d s
    let c := chooseSource l r cl d s
    let c := interjectStep l r d c.1 c.2
    c.2.modOn l fun o =>
      let f := finishPacket r cl d c.1 o.sel
      { o with track := { o.track with copy := some f.1 }, sel := { f.2 with served := some cl } }

/-- The content part of the lane's oldest decision, with the returned line 0 (R16, R17, R137). -/
def contentPart (l : LaneId) (data : Line) (err : Bool) (s : State) : State :=
  match s.onLane l with
  | none => s
  | some (r, o) =>
    match o.track.awaiting with
    | [] => s
    | dec :: _ =>
      let d := decide1 r o dec data err
      let s := if err then s.note l .readFault .readFault else s
      let s := s.modOn l (OnLane.takeDecision d)
      serveSlot l r d (insertionSteps l d.pSlot s)

end Sys2Proof.Machine
end

