-- ==== Sys2Proof/Machine/Overlay.lean ====
section
/-! DEFINITION. The control window's map and the status overlays (R157, R164, R169 to R171, R179; 12.2, 12.3). -/

namespace Sys2Proof.Machine

/-! ## The window map (Table 9-2) -/

/-- Bytes of the control window. -/
def windowSize : Nat := 65536

/-- The control window base: S x 256 MiB (R153); none while the pin is held. -/
def State.windowBase (s : State) : Option Nat :=
  match s.pin with
  | .held => none
  | .released straps => some (straps.toNat * 268435456)

/-- The overlay bytes of the window line at an offset: how many bytes from which byte, if the line holds any. -/
def overlayBytes (off : Nat) : Option (Nat × Nat) :=
  if off < 0x1000 then (if off % 256 = 0xC0 then some (56, 8) else none)
  else if off = 0x1000 then some (0, 64)
  else if off = 0x1040 then some (0, 8)
  else if 0x1080 ≤ off ∧ off < 0x1100 then some (0, 64)
  else if 0x2000 ≤ off ∧ off < 0x5800 then some (0, 64)
  else if 0x8000 ≤ off ∧ off < 0xC000 then some (0, 64)
  else none

/-! ## Go words (R164, Table 12-5) -/

/-- The state code of a posting slot. -/
def PostState.code : PostState → Nat
  | .idle => 0
  | .pending => 1
  | .working => 2
  | .done => 3

/-- A slot's place in the posting queue, 0 for the head, 0 where it is not PENDING. -/
def queuePlace (s : State) (k : PostSlotId) : Nat :=
  if (s.slot k).state = .pending then s.queue.idxOf k else 0

/-- The overlaid go word of slot `k`. -/
def goWord (s : State) (k : PostSlotId) : BitVec 64 :=
  let x := s.slot k
  packFields 64
    [(0, 1, x.kind.toNat), (1, 1, x.state.code + 128 * x.doubled.toNat), (2, 2, x.tag.toNat), (4, 1, x.result.code),
     (5, 1, x.detail), (6, 1, queuePlace s k)]

/-! ## Part status block (R169, Table 12-6) -/

/-- A set of 64 lane marks: bit `l` for lane `l`. -/
def laneMarks (f : LaneId → Bool) : Nat := marks ((List.finRange 64).map f)

/-- A list of one-byte fields from byte `off`. -/
def byteFields (off : Nat) (xs : List Nat) : List (Nat × Nat × Nat) := xs.zipIdx.map fun x => (off + x.2, 1, x.1)

/-- The timer code of the report ring byte. -/
def CoalesceTimer.code : CoalesceTimer → Nat
  | .stopped => 0
  | .running _ => 1
  | .expired => 2

/-- The strap value latched. -/
def State.straps (s : State) : Nat :=
  match s.pin with
  | .held => 0
  | .released x => x.toNat

/-- The part status summary line. DESIGN CHOICE (log entry 37): a write that REPORT SETUP abandoned (R173) and whose
completion has not come shows as a write in flight in bit 1 of byte 50; R175 names the two apart and Table 12-6 does not say
which it counts. -/
def statusSummary (s : State) : Line :=
  let r := s.report
  packFields 512
    ([(0, 1, s.straps), (1, 1, (s.working.map fun w => w.slot.val).getD 0xFF), (2, 6, s.stationTime.toNat),
      (8, 4, s.stationMs.toNat), (12, 1, s.queue.length), (13, 1, s.forceList.length)] ++
     byteFields 14 (s.forceList.map Fin.val) ++ byteFields 18 (s.queue.map Fin.val) ++
     [(34, 8, laneMarks fun l => (s.lane l).on.isSome), (42, 8, laneMarks fun l => (s.lane l).flags != 0),
      (50, 1, r.setup.isSome.toNat + 2 * r.flight.isSome.toNat + 4 * r.timer.code + 16 * r.badIndex.toNat),
      (51, 1, r.thresholdCause.toNat + 2 * r.coalesceCause.toNat + 4 * r.urgentCause.toNat + 128 * r.attention.toNat),
      (52, 2, r.w), (54, 2, r.h), (56, 2, r.unread), (58, 2, r.gap), (60, 1, r.queue.length)])

/-- The code of an alert's last ending cause. -/
def causeCode : Option AlertCause → Nat
  | none => 0
  | some .ended => 1
  | some .expired => 2

/-- An alert section entry: 32 bytes. -/
def alertEntry (s : State) (a : AlertId) : BitVec 256 :=
  let x := s.alert a
  match x.body with
  | none => 0
  | some b =>
    let m := match b.mode with
      | .override => (0, 0)
      | .interject lb n => (lb.toNat, n)
    packFields 256
      [(0, 1, x.inForce.toNat + 2 * b.modeBit.toNat + 4 * x.fetchFault.toNat + 16 * causeCode x.lastCause),
       (1, 1, x.laneCount), (2, 2, b.zones.toNat), (4, 2, b.clip.val), (6, 2, m.1), (8, 1, m.2), (12, 4, b.duration),
       (16, 4, x.start.toNat), (20, 4, x.served.toNat), (24, 4, x.underrun.toNat)]

/-! ## Lane entries (R170, Table 12-7) -/

/-- The clock model code. -/
def ClockModel.code : ClockModel → Nat
  | .unset => 0
  | .valid _ _ => 1
  | .stale _ _ => 2

/-- The last capture time, 0 where there is none. -/
def ClockModel.captured : ClockModel → Nat
  | .unset => 0
  | .valid _ t => t.toNat
  | .stale _ t => t.toNat

/-- The feed state code. -/
def FeedState.code : FeedState → Nat
  | .live => 1
  | .lost => 2
  | .recovering => 3

/-- The served source code. -/
def servedCode : Option SourceClass → Nat
  | none => 0
  | some .alert => 1
  | some .insertion => 2
  | some .loss => 3
  | some .network => 4
  | some .filler => 5

/-- The cue kind code (Table 2-3). -/
def CueKind.code : CueKind → Nat
  | .start => 1
  | .startOpen => 2
  | .ret => 3
  | .cancel => 4

/-- The break kind code (12.3). -/
def BreakKind.code : BreakKind → Nat
  | .start => 1
  | .startOpen => 2
  | .scheduled => 3

/-- The ingest cursor's fields: synchronised mark, expected slot, expected line. -/
def IngestCursor.fields : IngestCursor → Nat × Nat × Nat
  | .unsynchronised => (0, 0, 0)
  | .synchronised i e => (1, i, e)

/-- The lane's insertion state code (Table 5-4). -/
def insertionCode (o : OnLane) : Nat := if o.active.isSome then 2 else if o.waiting.isSome then 1 else 0

/-- The state, role and zone byte of a configured lane. -/
def laneByte (r : LaneRecord) (on : Bool) : Nat := on.toNat + 2 + 4 * (r.role == .source).toNat + 16 * r.zone.val

/-- The summary fields of an ON lane. -/
def onLaneFields (s : State) (o : OnLane) : List (Nat × Nat × Nat) :=
  let t := o.track
  let g := t.ingest.fields
  let eff := effectiveEntry s o.stack
  let due := eff.filter fun e => !isOverride s e.id
  let cue := o.cues.getLast?
  [(1, 1, g.1 + 2 * g.2.2 + 16 * t.play.isSome.toNat), (2, 2, g.2.1), (4, 2, t.play.getD 0), (6, 2, t.lastDecided.getD 0),
   (8, 4, t.fill), (12, 4, t.lead), (16, 4, t.estimate), (20, 1, o.clock.code),
   (21, 1, o.feed.state.code + 128 * o.feed.captureSeen.toNat), (22, 1, o.feed.good),
   (23, 1, insertionCode o + 128 * ((o.active.map ActiveInsertion.suspended).getD false).toNat),
   (24, 4, o.clock.captured), (28, 1, o.stack.length)] ++
  byteFields 29 (o.stack.map fun e => e.id.val) ++
  [(33, 1, match eff with
      | some e => o.stack.findIdx fun x => x.id == e.id
      | none => 0xFF),
   (34, 1, (due.map fun e => e.due.toNat).getD 0), (35, 1, (due.map StackEntry.wait).getD 0),
   (36, 1, servedCode o.sel.served + 128 * o.sel.away.toNat), (37, 1, (cue.map fun c => c.kind.code).getD 0),
   (38, 1, ((cue.bind RecentCue.outcome).map CueRefusal.code).getD 0), (40, 4, (cue.map fun c => c.event.toNat).getD 0)]

/-- A lane summary entry: an unconfigured lane shows its flags alone, an OFF lane its state, role, zone and flags. -/
def laneSummary (s : State) (l : LaneId) : Line :=
  let ln := s.lane l
  packFields 512
    ((match ln.record, ln.on with
      | some r, some o => (0, 1, laneByte r true) :: onLaneFields s o
      | some r, none => [(0, 1, laneByte r false), (33, 1, 0xFF)]
      | none, _ => []) ++ [(44, 4, ln.flags.toNat)])

/-- The cursor fields of an active insertion: playlist place, 6 pad, 7 exhausted, FFh for a LIVE order; packet index. -/
def cursorFields : Option ClipCursor → Nat × Nat
  | none => (0xFF, 0)
  | some (.playlist i k) => (i, k)
  | some (.pad k) => (6, k)
  | some .exhausted => (7, 0)

/-- A map entry's three bytes: last count with bit 4 set when none, delta, pending mark. -/
def continuityFields (i : Nat) (c : Option Continuity) : List (Nat × Nat × Nat) :=
  let last := match c.bind Continuity.last with
    | some n => n.toNat
    | none => 16
  [(168 + 3 * i, 1, last), (169 + 3 * i, 1, (c.map fun x => x.delta.toNat).getD 0),
   (170 + 3 * i, 1, (c.map fun x => x.pending.toNat).getD 0)]

/-- The detail fields of an ON lane. -/
def onDetailFields (o : OnLane) : List (Nat × Nat × Nat) :=
  (match o.waiting with
    | none => []
    | some w =>
      [(84, 1, w.kind.code), (85, 1, w.order.val), (88, 4, w.event.toNat), (92, 5, w.splice.toNat), (97, 5, w.ret.toNat)]) ++
  (match o.active with
    | none => []
    | some a =>
      let c := cursorFields a.cursor
      [(104, 1, a.kind.code), (105, 1, a.order.val), (106, 1, a.flags.byte.toNat), (107, 1, c.1), (108, 4, a.event.toNat),
       (112, 5, a.splice.toNat), (117, 5, a.ret.toNat), (122, 5, a.timeIn.toNat), (128, 4, c.2),
       (132, 4, countField a.served), (136, 4, countField a.shadow), (140, 4, countField a.underrun)]) ++
  (match o.feed.outage with
    | none => []
    | some x => [(144, 1, 1), (148, 5, x.start.toNat), (156, 4, x.served.toNat), (160, 4, x.underrun.toNat)])

/-- The continuity fields of a configured lane, one entry for each label map entry. -/
def mapFields (r : LaneRecord) (o : Option OnLane) : List (Nat × Nat × Nat) :=
  (List.range r.labelMap.length).flatMap fun i => continuityFields i (o.bind fun o => o.sel.continuity[i]?)

/-- A lane detail entry: 256 bytes. -/
def laneDetail (s : State) (l : LaneId) : BitVec 2048 :=
  let ln := s.lane l
  packFields 2048
    ((ln.counts.toList.zipIdx.map fun x => (4 * x.2, 4, x.1.toNat)) ++
     (match ln.record, ln.on with
      | some r, some o => onDetailFields o ++ mapFields r (some o)
      | some r, none => mapFields r none
      | none, _ => []))

/-! ## Order and clip entries (R171) -/

/-- The order state code. -/
def OrderState.code : OrderState → Nat
  | .empty => 0
  | .armed => 1
  | .bound => 2
  | .active => 3
  | .spent => 4

/-- The event of the waiting cue or active insertion a BOUND or ACTIVE order stands for. -/
def orderEvent (s : State) (i : OrderId) (b : OrderBody) : Nat :=
  let o := (s.lane b.lane).on
  match (s.order i).state with
  | .bound => ((o.bind OnLane.waiting).map fun w => w.event.toNat).getD 0
  | .active => ((o.bind OnLane.active).map fun a => a.event.toNat).getD 0
  | _ => 0

/-- The order's source is LIVE. -/
def OrderBody.isLive (b : OrderBody) : Bool :=
  match b.source with
  | .live _ _ _ => true
  | .clips _ _ => false

/-- An order status entry: 16 bytes. -/
def orderEntry (s : State) (i : OrderId) : BitVec 128 :=
  let x := s.order i
  match x.body with
  | none => 0
  | some b =>
    packFields 128
      [(0, 1, x.state.code), (1, 1, b.lane.val), (2, 1, b.isLive.toNat + 2 * x.unlimited.toNat + 4 * x.abort.toNat),
       (3, 1, x.remaining), (4, 4, orderEvent s i b)]

/-- A clip status entry: 8 bytes. -/
def clipEntry (s : State) (c : ClipId) : BitVec 64 :=
  let x := s.clip c
  packFields 64
    [(0, 1, x.body.isSome.toNat + 2 * x.disturbed.toNat + 4 * x.readFault.toNat), (2, 2, x.locks),
     (4, 3, (x.body.map fun b => b.length - 1).getD 0)]

/-- A clip address entry: 4 bytes. -/
def clipAddressEntry (s : State) (c : ClipId) : BitVec 32 :=
  BitVec.ofNat 32 (((s.clip c).body.map fun b => b.address / 64).getD 0)

/-! ## Laying over a line (R157) -/

/-- The read-index word (R179). -/
def indexWord (s : State) : BitVec 64 :=
  let r := s.report
  if r.setup.isSome then packFields 64 [(0, 2, r.h), (2, 2, r.w), (4, 2, r.unread), (6, 1, 1)] else 0

/-- `n` entries of `w` bytes laid side by side. -/
def packEntries (w : Nat) (xs : List Nat) : Line := packFields 512 (xs.zipIdx.map fun x => (w * x.2, w, x.1))

/-- The live values of the overlay bytes of the window line at `off`, in their places in the line, 0 elsewhere. -/
def overlayValue (s : State) (off : Nat) : Line :=
  if off < 0x1000 then (goWord s (Fin.ofNat 16 (off / 256))).setWidth 512 <<< (8 * 56)
  else if off = 0x1000 then statusSummary s
  else if off = 0x1040 then (indexWord s).setWidth 512
  else if off < 0x1100 then
    packEntries 32 ((List.range 2).map fun k => (alertEntry s (Fin.ofNat 4 ((off - 0x1080) / 32 + k))).toNat)
  else if off < 0x3000 then laneSummary s (Fin.ofNat 64 ((off - 0x2000) / 64))
  else if off < 0x4000 then
    packEntries 16 ((List.range 4).map fun k => (orderEntry s (Fin.ofNat 256 ((off - 0x3000) / 16 + k))).toNat)
  else if off < 0x5000 then
    packEntries 8 ((List.range 8).map fun k => (clipEntry s (Fin.ofNat 512 ((off - 0x4000) / 8 + k))).toNat)
  else if off < 0x5800 then
    packEntries 4 ((List.range 16).map fun k => (clipAddressEntry s (Fin.ofNat 512 ((off - 0x5000) / 4 + k))).toNat)
  else
    (laneDetail s (Fin.ofNat 64 ((off - 0x8000) / 256))).extractLsb' (512 * ((off - 0x8000) / 64 % 4)) 512

/-- A mask of `n` bytes from byte `k` of a line. -/
def byteMask (k n : Nat) : Line := BitVec.ofNat 512 (2 ^ (8 * n) - 1) <<< (8 * k)

/-- The returned line with its overlay bytes replaced by live values (R157). -/
def overlayLine (s : State) (off : Nat) (data : Line) : Line :=
  match overlayBytes off with
  | none => data
  | some (k, n) => (data &&& ~~~byteMask k n) ||| (overlayValue s off &&& byteMask k n)

end Sys2Proof.Machine
end

