-- ==== Sys2Proof/Machine/MemoryPath.lean ====
section
/-! DEFINITION. The memory path (1.3): classification of upstream traffic, slot claims (1.5), the arbiter, the data the DRAM
side returns, and the commands of the two ports. -/

namespace Sys2Proof.Machine

/-- A vector changed entry by entry, each with its index. -/
def mapEntries {α : Type} {n : Nat} (f : Nat → α → α) (v : Vector α n) : Vector α n :=
  ⟨(v.toList.mapIdx f).toArray, by simp⟩

/-! ## Classification (R5) -/

/-- The classes of Table 1-3: the control window at an offset, a line of a slot of the ring of an ON or an OFF lane, the
watch window of a locked clip, any other address. A transaction that arrives while the reset pin is held is not
classified. -/
inductive AddrClass where
  | unclassified
  | window (off : Nat)
  | ring (lane : LaneId) (slot line : Nat)
  | offRing
  | watched
  | other
  deriving DecidableEq, Repr

/-- The byte address of the line an address lies in. -/
def lineAddr (a : Addr) : Nat := a.toNat / 64 * 64

/-- The address lies in the ring of a lane record. -/
def LaneRecord.ringHas (r : LaneRecord) (a : Nat) : Bool := decide (r.base ≤ a) && decide (a < r.base + 192 * r.slots)

/-- The configured lane whose ring holds an address. -/
def ringLane (s : State) (a : Nat) : Option (LaneId × LaneRecord) :=
  (List.finRange 64).findSome? fun l =>
    match (s.lane l).record with
    | some r => if r.ringHas a then some (l, r) else none
    | none => none

/-- The line at `a` lies in the area of a clip. -/
def ClipBody.areaHas (b : ClipBody) (a : Nat) : Bool :=
  decide (b.address ≤ a) && decide (a < b.address + 192 * b.length)

/-- The line at `a` lies in the watch window of a locked clip (R62). -/
def Clip.watches (x : Clip) (a : Nat) : Bool :=
  decide (0 < x.locks) &&
    match x.body with
    | some b => b.areaHas a
    | none => false

/-- The class of a line address (R5). -/
def classify (s : State) (a : Nat) : AddrClass :=
  match s.windowBase with
  | none => .unclassified
  | some base =>
    if base ≤ a ∧ a < base + windowSize then .window (a - base)
    else
      match ringLane s a with
      | some (l, r) =>
        if (s.lane l).on.isSome then .ring l ((a - r.base) / 192) ((a - r.base) % 192 / 64) else .offRing
      | none => if s.clips.toList.any fun x => x.watches a then .watched else .other

/-! ## Upstream writes -/

/-- The posting slot whose go word a window line holds (9.2). -/
def goSlotAt (off : Nat) : Option PostSlotId :=
  if off < 0x1000 ∧ off % 256 = 0xC0 then some (Fin.ofNat 16 (off / 256)) else none

/-- The slot for which a write to a window line is a go write: byte 0 of its go word is enabled (R158). -/
def goWriteSlot (off : Nat) (enables : Enables) : Option PostSlotId :=
  if enables.getLsbD 56 then goSlotAt off else none

/-- A go write taken by its slot (R158, R159): an IDLE or DONE slot becomes PENDING with kind and tag latched and joins
the queue; a PENDING or WORKING slot has its doubled flag set. -/
def takeGoWrite (k : PostSlotId) (data : Line) (enables : Enables) (s : State) : State :=
  match (s.slot k).state with
  | .pending => s.modSlot k fun x => { x with doubled := true }
  | .working => s.modSlot k fun x => { x with doubled := true }
  | _ =>
    let tagByte := fun j => if enables.getLsbD (56 + j) then getByte data (56 + j) else 0#8
    { (s.modSlot k fun _ =>
        { state := .pending, kind := getByte data 56, tag := (tagByte 3 ++ tagByte 2 : BitVec (8 + 8))
          result := .ok, detail := 0, doubled := false }) with
      queue := s.queue ++ [k] }

/-- The go write makes its slot PENDING. -/
def goWritePosts (s : State) (k : PostSlotId) : Bool := (s.slot k).state == .idle || (s.slot k).state == .done

/-- The disturbed flag set on every locked clip whose area holds the line at `a` (R62). -/
def disturb (a : Nat) (s : State) : State :=
  { s with clips := mapEntries (fun _ x => if x.watches a then { x with disturbed := true } else x) s.clips }

/-- The write joins the upstream order, as presented (R6). -/
def forwardWrite (a : Addr) (data : Line) (enables : Enables) (go : Option PostSlotId) (s : State) : State :=
  { s with upOrder := s.upOrder ++ [.write a data enables go] }

/-- A write into the control window (R156): a go write, a read-index write, or one that only goes to DRAM. -/
def windowWrite (off : Nat) (a : Addr) (data : Line) (enables : Enables) (s : State) : State :=
  match goWriteSlot off enables with
  | some k =>
    forwardWrite a data enables (if goWritePosts s k then some k else none) (takeGoWrite k data enables s)
  | none =>
    forwardWrite a data enables none
      (if off = 0x1040 then s.modReport fun r => r.indexWrite data enables else s)

/-- An upstream write arrives (R5, R6): whatever its class, it is forwarded unchanged; the blocks its class names see it. -/
def arriveWrite (a : Addr) (data : Line) (enables : Enables) (feedFirst : Bool) (s : State) : State :=
  match classify s (lineAddr a) with
  | .window off => windowWrite off a data enables s
  | .ring l k line => forwardWrite a data enables none (ringStep l k line data enables feedFirst s)
  | .watched => forwardWrite a data enables none (if enables = 0 then s else disturb (lineAddr a) s)
  | .unclassified => forwardWrite a data enables none s
  | .offRing => forwardWrite a data enables none s
  | .other => forwardWrite a data enables none s

/-- RING_WRITE (R9). The part classifies every write by its address alone, so whatever class the address has is what the
write meets (log entry 3). -/
def execRingWrite (a : Addr) (data : Line) (enables : Enables) (feedFirst : Bool) (s : State) :
    Host.Outcome State Fault Refusal := .next (arriveWrite a data enables feedFirst s)

/-- WATCH_WINDOW_WRITE (R62). -/
def execWatchWindowWrite (a : Addr) (data : Line) (enables : Enables) (s : State) :
    Host.Outcome State Fault Refusal := .next (arriveWrite a data enables false s)

/-- GO_WRITE (R158). -/
def execGoWrite (a : Addr) (data : Line) (enables : Enables) (s : State) :
    Host.Outcome State Fault Refusal := .next (arriveWrite a data enables false s)

/-- READ_INDEX_WRITE (R178). -/
def execReadIndexWrite (a : Addr) (data : Line) (enables : Enables) (s : State) :
    Host.Outcome State Fault Refusal := .next (arriveWrite a data enables false s)

/-- UPSTREAM_WRITE (R6). -/
def execUpstreamWrite (a : Addr) (data : Line) (enables : Enables) (s : State) :
    Host.Outcome State Fault Refusal := .next (arriveWrite a data enables false s)

/-- WRITE_COMPLETION (R8): the completion of a forwarded upstream write, with or without the error indication, is taken
and goes no further. -/
def execWriteCompletion (_err : Bool) (s : State) : Host.Outcome State Fault Refusal :=
  if s.upWrites = 0 then .fault .unsolicitedCompletion else .next { s with upWrites := s.upWrites - 1 }

/-! ## Slot claims and line reads (R13 to R15) -/

/-- Fill and lead as a first placement or a jump sets them (R13). -/
def Tracker.place (t : Tracker) (slots k : Nat) : Tracker :=
  { t with
    fill := match t.ingest with
      | .synchronised i _ => ringDiff i k slots
      | .unsynchronised => 0
    lead := 0 }

/-- The line-0 read of slot `k` is a jump: the play cursor is synchronised and expects another slot (R13). -/
def Tracker.jumps (t : Tracker) (k : Nat) : Bool :=
  match t.play with
  | some p => p != k
  | none => false

/-- The cursor part of a slot decision (R13): placement, the fresh or starved judgement, and the decision handed on. -/
def Tracker.claim (t : Tracker) (slots k : Nat) : Tracker :=
  let t := if t.play = some k then t else t.place slots k
  { t with
    fill := t.fill - 1
    lead := if t.fill = 0 then heldAt slots (t.lead + 1) else t.lead
    play := some ((k + 1) % slots)
    lastDecided := some k
    awaiting := t.awaiting ++ [{ slot := k, fresh := decide (0 < t.fill) }] }

/-- The read joins the upstream order, to be served as `sv` says (R6). -/
def forwardRead (a : Addr) (sv : Serve) (s : State) : State := { s with upOrder := s.upOrder ++ [.read a sv] }

/-- A read of line `line` of slot `k` of the ring of an ON OUTPUT lane: a re-read (R14), a slot claim (R13), a line of the
last decided slot, or a stray read (R15). -/
def ringRead (l : LaneId) (r : LaneRecord) (o : OnLane) (k line : Nat) (a : Addr) (s : State) : State :=
  if o.track.lastDecided = some k then forwardRead a (.copied l line) s
  else if line = 0 then
    let s := if o.track.jumps k then s.note l .jump .jump else s
    forwardRead a (.claim l) (s.modOn l fun o => { o with track := o.track.claim r.slots k })
  else forwardRead a .plain (s.note l .strayRead .strayRead)

/-- An upstream read arrives (R5, R6). -/
def arriveRead (a : Addr) (s : State) : State :=
  match classify s (lineAddr a) with
  | .window off => forwardRead a (if (overlayBytes off).isSome then .overlay off else .plain) s
  | .ring l k line =>
    match s.onOutput l with
    | some (r, o) => ringRead l r o k line a s
    | none => forwardRead a .plain s
  | _ => forwardRead a .plain s

/-- SLOT_CLAIM (R13). -/
def execSlotClaim (a : Addr) (s : State) : Host.Outcome State Fault Refusal := .next (arriveRead a s)
/-- SLOT_LINE_READ (R15). -/
def execSlotLineRead (a : Addr) (s : State) : Host.Outcome State Fault Refusal := .next (arriveRead a s)
/-- CONTROL_WINDOW_READ (R6). -/
def execControlWindowRead (a : Addr) (s : State) : Host.Outcome State Fault Refusal := .next (arriveRead a s)
/-- UPSTREAM_READ (R6). -/
def execUpstreamRead (a : Addr) (s : State) : Host.Outcome State Fault Refusal := .next (arriveRead a s)

/-! ## The arbiter (R7) -/

/-- The part transaction the arbiter would grant, by class order. -/
inductive PartTxn where
  | posting (w : Working)
  | report (x : RecordWrite)
  | fetch (t : FetchTag) (line : Nat)
  deriving DecidableEq, Repr

/-- A go write that made posting slot `k` PENDING still waits in the upstream order (R161). -/
def goWaits (us : List UpTxn) (k : PostSlotId) : Bool :=
  us.any fun
    | .write _ _ _ go => go == some k
    | _ => false

/-- The part's waiting transaction of the highest class: posting record reads, report writes, prefetch reads (R7). The
record reads of the WORKING posting wait until its go write has been forwarded (R161). -/
def waitingPart (s : State) : Option PartTxn :=
  match s.working.filter fun w => decide (w.granted < 4) && !goWaits s.upOrder w.slot with
  | some w => some (.posting w)
  | none =>
    match s.report.flight.filter fun x => !x.granted with
    | some x => some (.report x)
    | none => s.fetchWait.map fun w => .fetch w.1 w.2

/-- The head of the upstream order granted the memory port. -/
def grantUp (t : UpTxn) (rest : List UpTxn) (s : State) : State :=
  match t with
  | .write a d e _ => { s with upOrder := rest, upWrites := s.upWrites + 1, memPort := some (.write a d e) }
  | .read a sv => { s with upOrder := rest, memReads := s.memReads ++ [.up a sv], memPort := some (.read a) }

/-- The address of record line `line` of a posting slot. -/
def recordLineAddr (s : State) (k : PostSlotId) (line : Nat) : Addr :=
  BitVec.ofNat 36 (s.windowBase.getD 0 + 256 * k.val + 64 * line)

/-- A part transaction granted the memory port. -/
def grantPart (t : PartTxn) (s : State) : State :=
  match t with
  | .posting w =>
    { s with
      working := some { w with granted := w.granted + 1 }
      memReads := s.memReads ++ [.posting w.granted false]
      memPort := some (.read (recordLineAddr s w.slot w.granted)) }
  | .report x =>
    { s.modReport (fun r => { r with flight := some { x with granted := true } }) with
      memPort := some (.write x.addr x.data x.enables) }
  | .fetch t line =>
    { s with
      fetchWait := if line < 2 then some (t, line + 1) else none
      memReads := s.memReads ++ [.fetch t (decide (2 ≤ line))]
      memPort := some (.read (BitVec.ofNat 36 (t.addr + 64 * line))) }

/-- The run count after an upstream grant: it holds at 4, and stays 0 while the reset pin is held (R7, R154). -/
def raisedRun (s : State) : Nat :=
  match s.pin with
  | .held => 0
  | .released _ => heldAt 4 (s.runCount + 1)

/-- One grant of the memory port (R7); nothing where nothing waits. -/
def grant (s : State) : State :=
  match s.upOrder, waitingPart s with
  | t :: rest, none => { grantUp t rest s with runCount := raisedRun s }
  | [], some p => { grantPart p s with runCount := 0 }
  | t :: rest, some p =>
    if s.runCount < 4 then { grantUp t rest s with runCount := s.runCount + 1 } else { grantPart p s with runCount := 0 }
  | [], none => s

/-- ARBITER_GRANT (R7). -/
def execArbiterGrant (s : State) : Host.Outcome State Fault Refusal := .next (grant s)

/-! ## Read data returning (R6, R8, R14 to R17, R157) -/

/-- A line returned at the upstream port with the error indication its own memory read gave (R8). -/
def release (a : Addr) (data : Line) (err : Bool) (s : State) : State :=
  { s with upPort := some { addr := a, data := data, err := err } }

/-- Line `j` of a prepared copy, where it is marked replaced. -/
def PreparedCopy.line (c : PreparedCopy) (j : Nat) : Option Line :=
  match j with
  | 0 => c.line0
  | 1 => c.line1
  | _ => c.line2

/-- A line served from the lane's prepared copy: the copy's data where the line is replaced, the memory data of the read
itself where it is pass (R16). -/
def copiedLine (s : State) (l : LaneId) (j : Nat) (data : Line) : Line :=
  ((((s.lane l).on.bind fun o => o.track.copy).bind fun c => c.line j)).getD data

/-- The data of an upstream read served as the read was classified. -/
def serveReturn (a : Addr) (sv : Serve) (data : Line) (err : Bool) (s : State) : State :=
  match sv with
  | .plain => release a data err s
  | .claim l =>
    let t := contentPart l data err s
    release a (copiedLine t l 0 data) err t
  | .copied l j => release a (copiedLine s l j data) err s
  | .overlay off => release a (overlayLine s off data) err s

/-- The DRAM side returns the next read data, and it is an upstream read's. -/
def returnUp (data : Line) (err : Bool) (s : State) : Host.Outcome State Fault Refusal :=
  match nextDue s.memReads with
  | some (.up a sv, rest) => .next (serveReturn a sv data err { s with memReads := rest })
  | _ => .fault .unsolicitedData

/-- SLOT_CONTENT_PART (R16): the data returned is served as its own read was classified (log entry 3). -/
def execSlotContentPart (data : Line) (err : Bool) (s : State) : Host.Outcome State Fault Refusal := returnUp data err s
/-- OVERLAY_READ_RETURN (R157). -/
def execOverlayReadReturn (data : Line) (err : Bool) (s : State) : Host.Outcome State Fault Refusal := returnUp data err s
/-- UPSTREAM_READ_RETURN (R8). -/
def execUpstreamReadReturn (data : Line) (err : Bool) (s : State) : Host.Outcome State Fault Refusal := returnUp data err s

end Sys2Proof.Machine
end

