-- ==== Sys2Proof/Machine/Operands.lean ====
section
/-! DEFINITION. The operand forms of the postings: the fields of each posting record (Table 12-4) and their checks, in the
order of the record (R1, R186). A check list pairs each field index with whether the field is at fault. -/

namespace Sys2Proof.Machine

/-- The index of the first field at fault. -/
def firstBad : List (Nat × Bool) → Option Nat
  | [] => none
  | (i, bad) :: rest => if bad then some i else firstBad rest

/-- The stream kind of a kind code (12.2). -/
def streamKindOf : Nat → Option StreamKind
  | 1 => some .video
  | 2 => some .audio1
  | 3 => some .audio2
  | 4 => some .audio3
  | 5 => some .data1
  | 6 => some .data2
  | 7 => some .data3
  | 8 => some .clock
  | _ => none

/-- PASS or REBASE from its code. -/
def stampModeOf (n : Nat) : StampMode := if n = 1 then .rebase else .pass

/-- The highest label of a label field. -/
def maxLabel : Nat := 0x1FFE

/-- A mark byte without codes of its own: 0 clear, 1 set, any other byte a free value. -/
def markSet (n : Nat) : Bool := if n = 0 then false else if n = 1 then true else Config.markByte (BitVec.ofNat 8 n)

/-! ## Label lists -/

/-- The entries of a list field as (kind code, label) pairs: at most the eight the field has room for (R186). -/
def listEntries (x : RecordData) (off count : Nat) : List (Nat × Nat) :=
  (List.range (min count 8)).map fun k => (field x (off + 4 * k) 1, field x (off + 4 * k + 2) 2)

/-- A list with a kind code or label out of range, a kind twice or a label twice. -/
def badList (es : List (Nat × Nat)) : Bool :=
  es.any (fun e => (streamKindOf e.1).isNone || decide (maxLabel < e.2)) ||
    !decide (es.map Prod.fst).Nodup || !decide (es.map Prod.snd).Nodup

/-- The entries as label entries. -/
def labelEntries (es : List (Nat × Nat)) : List LabelEntry :=
  es.filterMap fun e => (streamKindOf e.1).map fun k => { kind := k, label := BitVec.ofNat 13 e.2 }

/-! ## LANE CONFIGURE -/

/-- The label map entries of a LANE CONFIGURE record. -/
def laneMapEntries (x : RecordData) : List (Nat × Nat) := listEntries x 0x34 (field x 0x30 1)

/-- The loss-source checks of fields 15 to 19 (R1, R186). -/
def laneLossChecks (x : RecordData) : List (Nat × Bool) :=
  let kind := field x 0x28 1
  [(15, decide (2 < kind) || (field x 0x01 1 == 1 && kind != 0)),
   (16, kind == 1 && decide (511 < field x 0x2A 2)),
   (17, kind == 2 && (decide (63 < field x 0x2C 1) || field x 0x2C 1 == field x 0x00 1)),
   (18, kind == 2 && decide (1 < field x 0x2D 1))]

/-- The field checks of LANE CONFIGURE after the lane number (R1, R186). -/
def laneChecks (x : RecordData) : List (Nat × Bool) :=
  let base := field x 0x08 5
  let slots := field x 0x10 4
  let cue := field x 0x16 2
  let nominal := field x 0x1C 4
  [(2, decide (1 < field x 0x01 1)),
   (3, decide (15 < field x 0x02 1)),
   (4, decide (2 ^ 36 ≤ base) || base % 64 != 0),
   (5, decide (slots < 16) || decide (65536 < slots) || decide (2 ^ 36 < base + 192 * slots)),
   (6, decide (maxLabel < field x 0x14 2)),
   (7, cue != 0xFFFF && (decide (maxLabel < cue) || cue == field x 0x14 2 || (laneMapEntries x).any fun e => e.2 == cue)),
   (8, decide (900000 < field x 0x18 4)),
   (9, decide (nominal < 2700) || decide (27000000 < nominal) || decide (2 ^ 31 ≤ slots * nominal)),
   (10, decide (field x 0x20 2 < 10) || decide (10000 < field x 0x20 2)),
   (11, decide (field x 0x22 2 < 10) || decide (5000 < field x 0x22 2)),
   (12, field x 0x24 1 == 0),
   (13, field x 0x25 1 == 0),
   (14, decide (45000 < field x 0x26 2))] ++
  laneLossChecks x ++
  [(20, field x 0x30 1 == 0 || decide (8 < field x 0x30 1)),
   (21, badList (laneMapEntries x))]

/-- The loss source of a checked record. -/
def laneLossSource (x : RecordData) : LossSource :=
  match field x 0x28 1 with
  | 1 => .slate (Fin.ofNat 512 (field x 0x2A 2))
  | 2 => .backup (Fin.ofNat 64 (field x 0x2C 1)) (stampModeOf (field x 0x2D 1)) (field x 0x2E 1)
  | _ => .filler

/-- The lane record of a checked LANE CONFIGURE record. -/
def laneRecordOf (x : RecordData) : LaneRecord :=
  { role := if field x 0x01 1 = 1 then .source else .output
    base := field x 0x08 5
    slots := field x 0x10 4
    zone := Fin.ofNat 16 (field x 0x02 1)
    clockLabel := BitVec.ofNat 13 (field x 0x14 2)
    cueLabel := if field x 0x16 2 = 0xFFFF then none else some (BitVec.ofNat 13 (field x 0x16 2))
    labelMap := labelEntries (laneMapEntries x)
    playDelay := field x 0x18 4
    nominal := field x 0x1C 4
    staleLimit := field x 0x20 2
    lossLimit := field x 0x22 2
    recovery := field x 0x24 1
    lateGrace := field x 0x26 2
    deadline := field x 0x25 1
    lossSource := laneLossSource x }

/-! ## CLIP DECLARE -/

/-- The label list entries of a CLIP DECLARE record. -/
def clipListEntries (x : RecordData) : List (Nat × Nat) := listEntries x 0x24 (field x 0x20 1)

/-- The field checks of CLIP DECLARE after the clip id (R59). -/
def clipChecks (x : RecordData) : List (Nat × Bool) :=
  let address := field x 0x08 5
  [(2, decide (2 ^ 36 ≤ address) || address % 64 != 0),
   (3, decide (2 ^ 36 < address + 192 * (field x 0x10 3 + 1))),
   (4, decide (2 ^ 33 ≤ field x 0x18 5)),
   (5, field x 0x20 1 == 0 || decide (8 < field x 0x20 1)),
   (6, badList (clipListEntries x))]

/-- The clip of a checked CLIP DECLARE record. -/
def clipBodyOf (x : RecordData) : ClipBody :=
  { address := field x 0x08 5, length := field x 0x10 3 + 1, first := BitVec.ofNat 33 (field x 0x18 5)
    labels := labelEntries (clipListEntries x) }

/-! ## ORDER LOAD -/

/-- The playlist ids of an ORDER LOAD record: at most the six the field has room for. -/
def playlistIds (x : RecordData) : List Nat :=
  (List.range (min (field x 0x10 1) 6)).map fun k => field x (0x12 + 2 * k) 2

/-- The lane named is configured with the role. -/
def configuredAs (s : State) (n : Nat) (role : Role) : Bool :=
  if h : n < 64 then
    match (s.lane ⟨n, h⟩).record with
    | some r => r.role == role
    | none => false
  else false

/-- The field checks of ORDER LOAD (R79, R186). -/
def orderChecks (s : State) (x : RecordData) : List (Nat × Bool) :=
  let clips := field x 0x03 1 == 0
  let live := field x 0x03 1 == 1
  let pad := field x 0x20 2
  [(2, !configuredAs s (field x 0x01 1) .output),
   (4, decide (1 < field x 0x03 1)),
   (7, decide (field x 0x0C 4 < 90000) || decide (54000000 < field x 0x0C 4)),
   (8, clips && (field x 0x10 1 == 0 || decide (6 < field x 0x10 1))),
   (9, clips && (playlistIds x).any fun n => decide (511 < n)),
   (10, clips && pad != 0xFFFF && decide (511 < pad)),
   (11, live && !configuredAs s (field x 0x22 1) .source),
   (12, live && decide (1 < field x 0x23 1))]

/-- The order of a checked ORDER LOAD record. -/
def orderBodyOf (x : RecordData) : OrderBody :=
  { lane := Fin.ofNat 64 (field x 0x01 1)
    matchValue := BitVec.ofNat 32 (field x 0x04 4)
    careMask := BitVec.ofNat 32 (field x 0x08 4)
    uses := field x 0x02 1
    source :=
      if field x 0x03 1 = 1 then
        .live (Fin.ofNat 64 (field x 0x22 1)) (stampModeOf (field x 0x23 1)) (field x 0x24 1)
      else
        .clips ((playlistIds x).map fun n => Fin.ofNat 512 n)
          (if field x 0x20 2 = 0xFFFF then none else some (Fin.ofNat 512 (field x 0x20 2)))
    maxLength := field x 0x0C 4 }

/-- The field that names a clip of the order that is not READY: the playlist, field 9, or the pad, field 10 (R186). -/
def orderNotReady (s : State) (b : OrderBody) : Option Nat :=
  match b.source with
  | .clips playlist pad =>
    if !playlist.all s.clipReady then some 9
    else if pad.any fun c => !s.clipReady c then some 10
    else none
  | .live _ _ _ => none

/-! ## SCHEDULE, ALERT START, REPORT SETUP -/

/-- The field checks of SCHEDULE (R95, R186). -/
def scheduleChecks (x : RecordData) : List (Nat × Bool) :=
  [(1, decide (63 < field x 0x00 1)),
   (3, decide (1 < field x 0x02 1)),
   (4, decide (1 < field x 0x03 1)),
   (6, field x 0x02 1 == 0 && decide (2 ^ 33 ≤ field x 0x08 5)),
   (7, field x 0x03 1 == 1 && decide (2 ^ 33 ≤ field x 0x10 5))]

/-- The field checks of ALERT START after the alert id (R119, R186). -/
def alertChecks (x : RecordData) : List (Nat × Bool) :=
  let interject := field x 0x01 1 == 1
  [(2, decide (1 < field x 0x01 1)),
   (3, field x 0x02 2 == 0),
   (4, decide (511 < field x 0x04 2)),
   (5, interject && decide (maxLabel < field x 0x06 2)),
   (6, interject && field x 0x08 1 == 0),
   (7, decide (3600000 < field x 0x0C 4))]

/-- The alert of a checked ALERT START record. -/
def alertBodyOf (x : RecordData) : AlertBody :=
  { zones := BitVec.ofNat 16 (field x 0x02 2)
    mode := if field x 0x01 1 = 1 then .interject (BitVec.ofNat 13 (field x 0x06 2)) (field x 0x08 1) else .override
    clip := Fin.ofNat 512 (field x 0x04 2)
    duration := field x 0x0C 4 }

/-- The field checks of REPORT SETUP (R172, R186). -/
def reportChecks (x : RecordData) : List (Nat × Bool) :=
  let base := field x 0x00 5
  let size := field x 0x08 4
  let threshold := field x 0x0C 1
  [(1, decide (2 ^ 36 ≤ base) || base % 64 != 0),
   (2, decide (size < 16) || decide (65536 < size) || decide (2 ^ 36 < base + 32 * size)),
   (3, threshold == 0 || decide (size - 1 < threshold)),
   (4, field x 0x0E 2 == 0 || decide (1000 < field x 0x0E 2))]

/-- The default urgent kind set: FEED_LOST, ALERT_START and ALERT_END (R172). -/
def defaultUrgent : BitVec 9 := 0x1A0#9

/-- The ring of a checked REPORT SETUP record. -/
def ringSetupOf (x : RecordData) : RingSetup :=
  { base := field x 0x00 5, size := field x 0x08 4, threshold := field x 0x0C 1, coalesce := field x 0x0E 2
    urgent := if markSet (field x 0x10 1) then defaultUrgent else BitVec.ofNat 9 (field x 0x12 2) }

end Sys2Proof.Machine
end

