-- ==== Sys2Proof/Machine/Postings.lean ====
section
/-! DEFINITION. The posting engine (9.4) and the postings: POSTING_TAKE, POSTING_MEMORY_FAULT, LANE CONFIGURE to PART RESET,
and both resets. -/

namespace Sys2Proof.Machine

/-! ## Taking and completing a posting (R161 to R163) -/

/-- The kinds of Table 9-4. -/
def knownKind (k : BitVec 8) : Bool := (1 ≤ k.toNat && k.toNat ≤ 12) || k.toNat == 15

/-- The slot is DONE with a result and detail, and no slot is WORKING. -/
def finishPosting (k : PostSlotId) (res : PostResult) (detail : Nat) (s : State) : State :=
  { s.modSlot k (fun x => { x with state := .done, result := res, detail := detail }) with working := none }

/-- The head of the queue taken (R161): WORKING, or DONE with BAD_KIND at once. -/
def takePosting (k : PostSlotId) (rest : List PostSlotId) (s : State) : State :=
  if knownKind (s.slot k).kind then
    { s.modSlot k (fun x => { x with state := .working }) with queue := rest, working := some { slot := k, granted := 0 } }
  else { finishPosting k .badKind 0 s with queue := rest }

/-- POSTING_TAKE (R161): nothing while a slot is WORKING or the queue is empty. -/
def execPostingTake (s : State) : Host.Outcome State Fault Refusal :=
  match s.working, s.queue with
  | none, k :: rest => .next (takePosting k rest s)
  | _, _ => .next s

/-- The WORKING slot whose record's last line is the next data to return, and the state with that data taken. -/
def recordReturns (s : State) : Option (PostSlotId × State) :=
  match s.working, nextDue s.memReads with
  | some w, some (.posting _ _, rest) => if w.granted = 4 then some (w.slot, { s with memReads := rest }) else none
  | _, _ => none

/-- The number of the lowest record line that returned the error indication (R162). -/
def lowestFault (errs : BitVec 4) : Nat := ((List.range 4).find? fun k => errs.getLsbD k).getD 0

/-- POSTING_MEMORY_FAULT (R162). -/
def execPostingMemoryFault (errs : BitVec 4) (s : State) : Host.Outcome State Fault Refusal :=
  if errs = 0 then .refused .noFaultedLine
  else
    match recordReturns s with
    | some (k, t) => .next (finishPosting k .memoryFault (lowestFault errs) t)
    | none => .refused .noPostingDue

/-- What carrying a posting out answers: the state, the result and the detail (R163). -/
abbrev Carried := State × PostResult × Nat

/-- The posting of kind `code` in the WORKING slot carried out as one event once its record has returned (R161). -/
def carryOut (code : BitVec 8) (act : State → Carried) (s : State) : Host.Outcome State Fault Refusal :=
  match recordReturns s with
  | some (k, t) =>
    if (s.slot k).kind = code then
      let c := act t
      .next (finishPosting k c.2.1 c.2.2 c.1)
    else .refused .noPostingDue
  | none => .refused .noPostingDue

/-! ## Overlap checks (R2, R59, R172) -/

/-- The byte ranges from `a` of `n` bytes and from `b` of `m` bytes share a byte. -/
def rangesMeet (a n b m : Nat) : Bool := decide (a < b + m) && decide (b < a + n)

/-- A ring of a configured lane, `but` apart, shares a byte with the range. -/
def meetsLane (s : State) (but : Option LaneId) (a n : Nat) : Bool :=
  (List.finRange 64).any fun l =>
    some l != but &&
      match (s.lane l).record with
      | some r => rangesMeet a n r.base (192 * r.slots)
      | none => false

/-- The control window shares a byte with the range. -/
def meetsWindow (s : State) (a n : Nat) : Bool :=
  match s.windowBase with
  | some b => rangesMeet a n b windowSize
  | none => false

/-- The report ring, while set up, shares a byte with the range. -/
def meetsReport (s : State) (a n : Nat) : Bool :=
  match s.report.setup with
  | some g => rangesMeet a n g.base (32 * g.size)
  | none => false

/-- A READY clip shares a byte with the range. -/
def meetsClip (s : State) (a n : Nat) : Bool :=
  s.clips.toList.any fun c =>
    match c.body with
    | some b => rangesMeet a n b.address (192 * b.length)
    | none => false

/-! ## LANE CONFIGURE (R1, R2) -/

/-- LANE CONFIGURE of lane `l`. -/
def configureLane (x : RecordData) (l : LaneId) (s : State) : Carried :=
  if (s.lane l).on.isSome then (s, .badState, 0)
  else
    match firstBad (laneChecks x) with
    | some i => (s, .badField, i)
    | none =>
      let r := laneRecordOf x
      let n := 192 * r.slots
      if meetsLane s (some l) r.base n then (s, .overlap, 1)
      else if meetsWindow s r.base n then (s, .overlap, 2)
      else if meetsReport s r.base n then (s, .overlap, 3)
      else if meetsClip s r.base n then (s, .overlap, 4)
      else (s.modLane l fun ln => { ln.clearCounts with record := some r }, .ok, 0)

/-- A posting on the lane its record's byte 0 names: above 63 is BAD_FIELD, field 1. -/
def withLane (x : RecordData) (act : LaneId → State → Carried) (s : State) : Carried :=
  if h : field x 0x00 1 < 64 then act ⟨field x 0x00 1, h⟩ s else (s, .badField, 1)

/-- LANE_CONFIGURE (R2). -/
def execLaneConfigure (record : RecordData) (s : State) : Host.Outcome State Fault Refusal :=
  carryOut 0x01#8 (withLane record (configureLane record)) s

/-! ## LANE ENABLE (R3, R113, R165) -/

/-- The tracker context at enable (R3). -/
def Tracker.enabled (r : LaneRecord) : Tracker :=
  { ingest := .unsynchronised, assembly := 0, history := [], estimate := r.nominal, fill := 0, lead := 0, play := none,
    lastDecided := none, prevStamp := none, copy := none, awaiting := [] }

/-- The context of a lane right after its enable, before it joins any alert (R165). -/
def OnLane.enabled (r : LaneRecord) (now : Millis) : OnLane :=
  { track := Tracker.enabled r
    clock := .unset
    cues := []
    feed := Feed.enabled now
    active := none
    waiting := none
    stack := []
    fetch :=
      { source := none, cursor := none, queue := [], interject := [], interjectCursor := none, lastWasInterject := none }
    sel :=
      { served := none, away := false
        continuity := r.labelMap.map fun _ => { last := none, delta := 0, pending := false }, lossRun := none } }

/-- The loss source of an OUTPUT lane is not ready: the field its LANE CONFIGURE record names it by (R113, R186). -/
def lossNotReady (s : State) (r : LaneRecord) : Option Nat :=
  if r.role = .source then none
  else
    match r.lossSource with
    | .filler => none
    | .slate c => if s.clipReady c then none else some 16
    | .backup b _ _ => if s.isOnSource b then none else some 17

/-- The slate clip an OUTPUT lane locks while it is ON (R61). -/
def slateOf (r : LaneRecord) : Option ClipId :=
  match r.role, r.lossSource with
  | .output, .slate c => some c
  | _, _ => none

/-- The alerts in force whose zone set holds the lane's zone, in force-list order (R124). -/
def joinedAlerts (s : State) (r : LaneRecord) : List (AlertId × AlertBody) :=
  s.forceList.filterMap fun a =>
    match (s.alert a).body with
    | some b => if b.covers r then some (a, b) else none
    | none => none

/-- The alert stack an OUTPUT lane starts with, its effective entry as R125 leaves it. -/
def enableStack (s : State) (r : LaneRecord) : List StackEntry :=
  (joinedAlerts s r).map fun x => newEntry r x.1 x.2

/-- The context of an OUTPUT lane at enable with its alert stack and interject fetch cursor (R165). The lane has no
fetches yet, so nothing is flushed and the generations are kept (Table 4-6). -/
def OnLane.enabledOutput (s : State) (r : LaneRecord) : OnLane :=
  let o := OnLane.enabled r s.stationMs
  let stack := enableStack s r
  { o with stack := stack, fetch := { o.fetch with interjectCursor := interjectStart s (effectiveEntry s stack) } }

/-- One more lane has joined the alert: its lane count rises, holding at 255 (R124). -/
def Alert.countLane (a : Alert) : Alert := { a with laneCount := heldAt 255 (a.laneCount + 1) }

/-- An accepted LANE ENABLE (R165). -/
def enableAccepted (l : LaneId) (r : LaneRecord) (s : State) : State :=
  if r.role = .source then s.modLane l fun ln => { ln with on := some (OnLane.enabled r s.stationMs) }
  else
    let o := OnLane.enabledOutput s r
    let want := wantedSource s r o
    let t := s.modLane l fun ln =>
      let ln := if o.stack.any StackEntry.clash then ln.setFlag .clash else ln
      { ln with on := some (setSource s r want o) }
    let t := (joinedAlerts s r).foldl (fun t x => t.modAlert x.1 Alert.countLane) t
    match slateOf r with
    | some c => t.lock c
    | none => t

/-- LANE ENABLE of lane `l` (R165). -/
def enableLane (l : LaneId) (s : State) : Carried :=
  match (s.lane l).record with
  | none => (s, .badState, 0)
  | some r =>
    if (s.lane l).on.isSome then (s, .badState, 0)
    else
      match lossNotReady s r with
      | some i => (s, .notReady, i)
      | none => (enableAccepted l r s, .ok, 0)

/-- LANE_ENABLE (R165). -/
def execLaneEnable (record : RecordData) (s : State) : Host.Outcome State Fault Refusal :=
  carryOut 0x02#8 (withLane record enableLane) s

/-! ## LANE DISABLE (R4, R97, R114, R166) -/

/-- An ON OUTPUT lane names the lane as its backup, or a BOUND or ACTIVE LIVE order names it as its source (R114). -/
def laneInUse (s : State) (l : LaneId) : Bool :=
  ((List.finRange 64).any fun k =>
    match s.onOutput k with
    | some (r, _) =>
      match r.lossSource with
      | .backup b _ _ => b == l
      | _ => false
    | none => false) ||
  s.orders.toList.any fun x =>
    (x.state == .bound || x.state == .active) &&
      match x.body.map OrderBody.source with
      | some (.live src _ _) => src == l
      | _ => false

/-- The lane's active insertion ended as INSERT_ABORTED, its time out P of the previous decided stamp (R97). -/
def abortActive (l : LaneId) (r : LaneRecord) (s : State) : State :=
  match (s.lane l).on with
  | none => s
  | some o =>
    match o.active with
    | some a => endInsertion l a .insertAborted (presentation o.clock r.playDelay o.track.prevStamp) s
    | none => s

/-- The lane's waiting cue removed (R97). -/
def dropWaiting (l : LaneId) (s : State) : State :=
  match (s.lane l).on.bind OnLane.waiting with
  | some w => removeWaiting l w s
  | none => s

/-- The lane OFF, its context discarded and both its generations raised by 1 over `ln0` (Table 4-6). -/
def Lane.turnOff (ln0 ln : Lane) : Lane :=
  { ln with on := none, queueGen := ln0.queueGen + 1, interjectGen := ln0.interjectGen + 1 }

/-- An accepted LANE DISABLE (R166): whatever the endings inside it change, it flushes once. -/
def disableAccepted (l : LaneId) (r : LaneRecord) (s0 : State) : State :=
  let s := dropWaiting l (abortActive l r s0)
  let s := match slateOf r with
    | some c => s.release c
    | none => s
  let s := (s.withdraw l false).withdraw l true
  (s.abandonReads l).modLane l (Lane.turnOff (s0.lane l))

/-- LANE DISABLE of lane `l` (R166). -/
def disableLane (l : LaneId) (s : State) : Carried :=
  match s.onLane l with
  | none => (s, .badState, 0)
  | some (r, _) =>
    if r.role = .source ∧ laneInUse s l then (s, .inUse, 0) else (disableAccepted l r s, .ok, 0)

/-- LANE_DISABLE (R166). -/
def execLaneDisable (record : RecordData) (s : State) : Host.Outcome State Fault Refusal :=
  carryOut 0x03#8 (withLane record disableLane) s

/-! ## CLIP DECLARE, CLIP CLEAR (R59, R60) -/

/-- A posting on the clip its record's bytes 0 and 1 name: above 511 is BAD_FIELD, field 1. -/
def withClip (x : RecordData) (act : ClipId → State → Carried) (s : State) : Carried :=
  if h : field x 0x00 2 < 512 then act ⟨field x 0x00 2, h⟩ s else (s, .badField, 1)

/-- CLIP DECLARE of clip `c` (R59). -/
def declareClip (x : RecordData) (c : ClipId) (s : State) : Carried :=
  if 0 < (s.clip c).locks then (s, .locked, 0)
  else
    match firstBad (clipChecks x) with
    | some i => (s, .badField, i)
    | none =>
      let b := clipBodyOf x
      let n := 192 * b.length
      if meetsLane s none b.address n then (s, .overlap, 1)
      else if meetsWindow s b.address n then (s, .overlap, 2)
      else if meetsReport s b.address n then (s, .overlap, 3)
      else (s.modClip c fun y => { y with body := some b, disturbed := false, readFault := false }, .ok, 0)

/-- CLIP_DECLARE (R59). -/
def execClipDeclare (record : RecordData) (s : State) : Host.Outcome State Fault Refusal :=
  carryOut 0x04#8 (withClip record (declareClip record)) s

/-- CLIP CLEAR of clip `c` (R60). -/
def clearClip (c : ClipId) (s : State) : Carried :=
  if (s.clip c).body.isNone then (s, .badState, 0)
  else if 0 < (s.clip c).locks then (s, .locked, 0)
  else (s.modClip c fun _ => Clip.reset, .ok, 0)

/-- CLIP_CLEAR (R60). -/
def execClipClear (record : RecordData) (s : State) : Host.Outcome State Fault Refusal :=
  carryOut 0x05#8 (withClip record clearClip) s

/-! ## ORDER LOAD, ORDER CANCEL, SCHEDULE (R79, R94 to R96) -/

/-- ORDER LOAD (R79). -/
def loadOrder (x : RecordData) (s : State) : Carried :=
  let i : OrderId := Fin.ofNat 256 (field x 0x00 1)
  if (s.order i).state = .bound ∨ (s.order i).state = .active then (s, .inUse, 0)
  else
    match firstBad (orderChecks s x) with
    | some n => (s, .badField, n)
    | none =>
      let b := orderBodyOf x
      match orderNotReady s b with
      | some n => (s, .notReady, n)
      | none =>
        (s.setOrder i
          { state := .armed, body := some b, remaining := b.uses, unlimited := b.uses == 0, abort := false }, .ok, 0)

/-- ORDER_LOAD (R79). -/
def execOrderLoad (record : RecordData) (s : State) : Host.Outcome State Fault Refusal :=
  carryOut 0x06#8 (loadOrder record) s

/-- The waiting cue of a BOUND order removed from its lane (R94). -/
def unbind (i : OrderId) (s : State) : State :=
  match (s.order i).body with
  | none => s
  | some b =>
    match ((s.lane b.lane).on.bind OnLane.waiting).filter fun w => w.order == i with
    | some w => removeWaiting b.lane w s
    | none => s

/-- ORDER CANCEL (Table 5-7). -/
def cancelOrder (x : RecordData) (s : State) : Carried :=
  let i : OrderId := Fin.ofNat 256 (field x 0x00 1)
  match (s.order i).state with
  | .empty => (s, .badState, 0)
  | .armed => (s.setOrder i Order.reset, .ok, 0)
  | .spent => (s.setOrder i Order.reset, .ok, 0)
  | .bound => ((unbind i s).setOrder i Order.reset, .ok, 0)
  | .active =>
    if (s.order i).abort then (s, .badState, 0)
    else (s.modOrder i fun y => { y with abort := true }, .ok, 0)

/-- ORDER_CANCEL (R94). -/
def execOrderCancel (record : RecordData) (s : State) : Host.Outcome State Fault Refusal :=
  carryOut 0x07#8 (cancelOrder record) s

/-- The splice time of a SCHEDULE: the posting's, or P of the lane's previous decided stamp for an immediate one (R50). -/
def scheduleTime (x : RecordData) (r : LaneRecord) (o : OnLane) : Option Stamp :=
  if field x 0x02 1 = 1 then presentation o.clock r.playDelay o.track.prevStamp
  else some (BitVec.ofNat 33 (field x 0x08 5))

/-- SCHEDULE on lane `l` once its field checks have passed (R95, R96). -/
def scheduleOn (x : RecordData) (l : LaneId) (s : State) : Carried :=
  match s.onOutput l with
  | none => (s, .badState, 0)
  | some (r, o) =>
    match o.clock.isValid && o.waiting.isNone, scheduleTime x r o with
    | true, some t =>
      let i : OrderId := Fin.ofNat 256 (field x 0x01 1)
      match (s.order i).state == .armed, (s.order i).body with
      | true, some b =>
        if b.lane ≠ l then (s, .inUse, 0)
        else if !orderReady s b then (s, .notReady, 2)
        else
          let duration := if field x 0x03 1 = 1 then some (BitVec.ofNat 33 (field x 0x10 5)) else none
          (bindOrder l i (BitVec.ofNat 32 (field x 0x04 4)) .scheduled t duration s, .ok, 0)
      | _, _ => (s, .inUse, 0)
    | _, _ => (s, .badState, 0)

/-- SCHEDULE (R95, R96). -/
def schedule (x : RecordData) (s : State) : Carried :=
  match firstBad (scheduleChecks x) with
  | some i => (s, .badField, i)
  | none => scheduleOn x (Fin.ofNat 64 (field x 0x00 1)) s

/-- SCHEDULE (R96). -/
def execSchedule (record : RecordData) (s : State) : Host.Outcome State Fault Refusal :=
  carryOut 0x08#8 (schedule record) s

/-! ## ALERT START, ALERT END (R119 to R122) -/

/-- A posting on the alert its record's byte 0 names: above 3 is BAD_FIELD, field 1. -/
def withAlert (x : RecordData) (act : AlertId → State → Carried) (s : State) : Carried :=
  if h : field x 0x00 1 < 4 then act ⟨field x 0x00 1, h⟩ s else (s, .badField, 1)

/-- An accepted ALERT START (R120). -/
def startAlert (a : AlertId) (b : AlertBody) (s : State) : State :=
  let covered := coveredLanes s b
  let s := s.modAlert a fun _ =>
    { inForce := true, body := some b, start := s.stationMs, timer := decide (0 < b.duration), served := 0, underrun := 0
      laneCount := covered.length, fetchFault := false, lastCause := none }
  let s := { s with forceList := s.forceList ++ [a] }
  let s := s.lock b.clip
  let s := covered.foldl (fun t l => joinAlert a b l t) s
  s.handOver (alertStartRecord a b covered.length s.stationMs)

/-- ALERT START of alert `a` (R119, R120). -/
def alertStartOn (x : RecordData) (a : AlertId) (s : State) : Carried :=
  if (s.alert a).inForce then (s, .inUse, 0)
  else
    match firstBad (alertChecks x) with
    | some i => (s, .badField, i)
    | none =>
      let b := alertBodyOf x
      if s.clipReady b.clip then (startAlert a b s, .ok, 0) else (s, .notReady, 4)

/-- ALERT_START (R120). -/
def execAlertStart (record : RecordData) (s : State) : Host.Outcome State Fault Refusal :=
  carryOut 0x09#8 (withAlert record (alertStartOn record)) s

/-- ALERT END of alert `a` (R122). -/
def alertEndOn (a : AlertId) (s : State) : Carried :=
  match (s.alert a).inForce, (s.alert a).body with
  | true, some b => (endAlert a b .ended s, .ok, 0)
  | _, _ => (s, .badState, 0)

/-- ALERT_END (R122). -/
def execAlertEnd (record : RecordData) (s : State) : Host.Outcome State Fault Refusal :=
  carryOut 0x0A#8 (withAlert record alertEndOn) s

/-! ## REPORT SETUP (R172, R173) -/

/-- The report writer after an accepted REPORT SETUP (R173): a write still in flight is abandoned. -/
def Report.setUp (g : RingSetup) (r : Report) : Report :=
  { setup := some g, w := 0, h := 0, gap := 0, queue := []
    flight := r.flight.map fun x => { x with abandoned := true }
    orphans := r.orphans, urgentPos := none, timer := .stopped, badIndex := false, attention := false }

/-- REPORT SETUP (R172, R173). -/
def setUpReport (x : RecordData) (s : State) : Carried :=
  match firstBad (reportChecks x) with
  | some i => (s, .badField, i)
  | none =>
    let g := ringSetupOf x
    let n := 32 * g.size
    if meetsLane s none g.base n then (s, .overlap, 1)
    else if meetsWindow s g.base n then (s, .overlap, 2)
    else if meetsClip s g.base n then (s, .overlap, 4)
    else (s.modReport (Report.setUp g), .ok, 0)

/-- REPORT_SETUP (R173). -/
def execReportSetup (record : RecordData) (s : State) : Host.Outcome State Fault Refusal :=
  carryOut 0x0B#8 (setUpReport record) s

/-! ## COUNTERS CLEAR (R167) -/

/-- COUNTERS CLEAR (R167). -/
def clearCounters (x : RecordData) (s : State) : Carried :=
  let set := field x 0x00 8
  let s := { s with lanes := mapEntries (fun l ln => if set.testBit l then ln.clearCounts else ln) s.lanes }
  (if markSet (field x 0x08 1) then { s with clips := mapEntries (fun _ c => { c with readFault := false }) s.clips } else s,
   .ok, 0)

/-- COUNTERS_CLEAR (R167). -/
def execCountersClear (record : RecordData) (s : State) : Host.Outcome State Fault Refusal :=
  carryOut 0x0C#8 (clearCounters record) s

/-! ## Resets (R20, R154, R168, R182) -/

/-- The reads on the memory port after a reset: posting reads and fetches orphaned, the last fetch line granted standing
for its fetch (R64, R154). -/
def orphanReads (rs : List MemRead) : List MemRead :=
  (rs.foldr
    (fun r acc =>
      match r with
      | .fetch t last => (true, .fetch { t with dead := true } (last || !acc.1) :: acc.2)
      | .posting n _ => (acc.1, .posting n true :: acc.2)
      | .up a sv => (acc.1, .up a sv :: acc.2))
    (false, [])).2

/-- The record writes whose completions are to be discarded after a reset (R182). -/
def Report.orphaned (r : Report) : Nat :=
  match r.flight with
  | some x => if x.granted then r.orphans + 1 else r.orphans
  | none => r.orphans

/-- What both resets do to every block but the posting slots: reset values, outstanding upstream reads served as the memory
returns them, the part's own reads and writes orphaned. -/
def resetBlocks (s : State) : State :=
  { s with
    upOrder := plainUps (fun _ => true) s.upOrder
    memReads := orphanReads (plainReads (fun _ => true) s.memReads)
    runCount := 0
    lanes := Vector.replicate 64 Lane.reset
    clips := Vector.replicate 512 Clip.reset
    scanPos := 0
    fetchWait := none
    orders := Vector.replicate 256 Order.reset
    alerts := Vector.replicate 4 Alert.reset
    forceList := []
    queue := []
    working := none
    report := { Report.reset with orphans := s.report.orphaned } }

/-- A DROPPED posting (R168). -/
def PostSlot.drop (x : PostSlot) : PostSlot :=
  if x.state = .pending then { x with state := .done, result := .dropped, detail := 0 } else x

/-- PART RESET carried out (R168). -/
def resetPart (s : State) : Carried :=
  ({ resetBlocks s with slots := mapEntries (fun _ x => x.drop) s.slots }, .ok, 0)

/-- PART_RESET (R168): its record has no fields. -/
def execPartReset (_record : RecordData) (s : State) : Host.Outcome State Fault Refusal :=
  carryOut 0x0F#8 resetPart s

/-- The go-write marks removed from the upstream order: a go write that arrived before a pin reset posts nothing. -/
def unmarkGo (us : List UpTxn) : List UpTxn :=
  us.map fun
    | .write a d e _ => .write a d e none
    | t => t

/-- The part while the reset pin is held (R154). -/
def pinResetState (s : State) : State :=
  let t := resetBlocks s
  { t with
    pin := .held
    stationTime := 0
    msPhase := 0
    stationMs := 0
    upOrder := unmarkGo t.upOrder
    slots := Vector.replicate 16 PostSlot.reset }

/-- PIN_RESET (R154). -/
def execPinReset (s : State) : Host.Outcome State Fault Refusal := .next (pinResetState s)

/-- PIN_RESET_RELEASE (R153, R155). -/
def execPinResetRelease (straps : BitVec 8) (s : State) : Host.Outcome State Fault Refusal :=
  match s.pin with
  | .held => .next { s with pin := .released straps }
  | .released _ => .refused .pinNotHeld

end Sys2Proof.Machine
end

