-- ==== Sys2Proof/Machine/Dispatch.lean ====
section
/-! DEFINITION. The meaning of every command: one arm per row of spec/opcode_table.json. -/

namespace Sys2Proof.Machine

def exec (i : Instr) (s : State) : Host.Outcome State Fault Refusal :=
  match i with
  | .pinReset => Sys2Proof.Machine.execPinReset s
  | .pinResetRelease straps => Sys2Proof.Machine.execPinResetRelease straps s
  | .ringWrite addr data enables feedFirst => Sys2Proof.Machine.execRingWrite addr data enables feedFirst s
  | .watchWindowWrite addr data enables => Sys2Proof.Machine.execWatchWindowWrite addr data enables s
  | .goWrite addr data enables => Sys2Proof.Machine.execGoWrite addr data enables s
  | .readIndexWrite addr data enables => Sys2Proof.Machine.execReadIndexWrite addr data enables s
  | .upstreamWrite addr data enables => Sys2Proof.Machine.execUpstreamWrite addr data enables s
  | .writeCompletion err => Sys2Proof.Machine.execWriteCompletion err s
  | .slotClaim addr => Sys2Proof.Machine.execSlotClaim addr s
  | .slotLineRead addr => Sys2Proof.Machine.execSlotLineRead addr s
  | .controlWindowRead addr => Sys2Proof.Machine.execControlWindowRead addr s
  | .upstreamRead addr => Sys2Proof.Machine.execUpstreamRead addr s
  | .arbiterGrant => Sys2Proof.Machine.execArbiterGrant s
  | .slotContentPart data err => Sys2Proof.Machine.execSlotContentPart data err s
  | .overlayReadReturn data err => Sys2Proof.Machine.execOverlayReadReturn data err s
  | .upstreamReadReturn data err => Sys2Proof.Machine.execUpstreamReadReturn data err s
  | .postingTake => Sys2Proof.Machine.execPostingTake s
  | .postingMemoryFault errs => Sys2Proof.Machine.execPostingMemoryFault errs s
  | .laneConfigure record => Sys2Proof.Machine.execLaneConfigure record s
  | .laneEnable record => Sys2Proof.Machine.execLaneEnable record s
  | .laneDisable record => Sys2Proof.Machine.execLaneDisable record s
  | .clipDeclare record => Sys2Proof.Machine.execClipDeclare record s
  | .clipClear record => Sys2Proof.Machine.execClipClear record s
  | .orderLoad record => Sys2Proof.Machine.execOrderLoad record s
  | .orderCancel record => Sys2Proof.Machine.execOrderCancel record s
  | .schedule record => Sys2Proof.Machine.execSchedule record s
  | .alertStart record => Sys2Proof.Machine.execAlertStart record s
  | .alertEnd record => Sys2Proof.Machine.execAlertEnd record s
  | .reportSetup record => Sys2Proof.Machine.execReportSetup record s
  | .countersClear record => Sys2Proof.Machine.execCountersClear record s
  | .partReset record => Sys2Proof.Machine.execPartReset record s
  | .fetchIssue => Sys2Proof.Machine.execFetchIssue s
  | .fetchComplete data errs => Sys2Proof.Machine.execFetchComplete data errs s
  | .recordWriteIssue => Sys2Proof.Machine.execRecordWriteIssue s
  | .recordWriteComplete err => Sys2Proof.Machine.execRecordWriteComplete err s
  | .staleTimerExpiry lane => Sys2Proof.Machine.execStaleTimerExpiry lane s
  | .lossTimerExpiry lane => Sys2Proof.Machine.execLossTimerExpiry lane s
  | .alertDurationExpiry id => Sys2Proof.Machine.execAlertDurationExpiry id s
  | .coalesceTimerExpiry => Sys2Proof.Machine.execCoalesceTimerExpiry s

end Sys2Proof.Machine
end

