-- ==== Sys2Proof/Machine/Step.lean ====
section
/-! DEFINITION. One step of the part: the command at the front of the queue, or one tick of the station reference while no
command waits. -/

namespace Sys2Proof.Machine

/-- The state with the command a word spells at the front of its queue; the state itself where the word spells none, which
is every word, since no row of the table has bits (log entry 1). -/
def State.withFetchWord (s : State) (nbits w : Nat) : State :=
  match Sys2Proof.decodeTableWord nbits w with
  | some i => { s with pending := i :: s.pending }
  | none => s

/-- The command at the front of the queue is taken and carried out with the queue's rest. On an empty queue one station tick
passes (DESIGN CHOICE, log entry 2): commands themselves take no station time. -/
def step (s : State) : Host.Outcome State Fault Refusal :=
  match s.pending with
  | [] => .next (tick s)
  | c :: rest => exec c { s with pending := rest }

end Sys2Proof.Machine
end

