-- ==== Sys2Proof/Safety.lean ====
section
/-! DEFINITION. What the manual says always holds of the part, block by block: the posting queue (R160, R161), the report
writer and the attention line (R174 to R182), the force list (R118), the run count (R7), the ring cursors (R10, R13, R31,
R32), the recent-cue lists (R37), the insertion contexts (R82), and the places of the prefetch queues (R67); and the frames
and situations the statements speak of. -/

namespace Sys2Proof.Machine

/-- R160, R161: the posting queue holds no slot twice and holds a slot exactly when it is PENDING, and a slot is WORKING
exactly when it is the one posting being carried out. -/
structure PostingInv (s : State) : Prop where
  nodup : s.queue.Nodup
  queued : ∀ k, k ∈ s.queue ↔ (s.slot k).state = .pending
  working : ∀ k, (s.slot k).state = .working ↔ s.working.map Working.slot = some k

/-- R118: the force list holds no id twice and holds an id exactly while its entry is IN FORCE. -/
structure ForceInv (s : State) : Prop where
  nodup : s.forceList.Nodup
  inForce : ∀ a, a ∈ s.forceList ↔ (s.alert a).inForce = true

/-- R7: the run count is 0..4. -/
def RunInv (s : State) : Prop := s.runCount ≤ 4

/-- The ranges of chapter 10's opening list: W and H are places of the ring, the gap count is 0..65,535, the write queue
holds at most 32 records; the ring's own fields are those R172 accepts. -/
structure ReportRanges (r : Report) : Prop where
  gap : r.gap ≤ 65535
  queue : r.queue.length ≤ 32
  ring : ∀ g, r.setup = some g → 16 ≤ g.size ∧ g.size ≤ 65536 ∧ 1 ≤ g.threshold ∧ r.w < g.size ∧ r.h < g.size

/-- R175, R176, R178, R180, R181: the attention line is asserted exactly while a cause holds; the coalesce timer is stopped
exactly while nothing is unread; the urgent position lies in the unread span; and a record write that has not been abandoned
still finds a free place. -/
structure AttentionInv (r : Report) : Prop where
  line : r.attention = r.anyCause
  timer : r.setup.isSome = true → (r.timer = .stopped ↔ r.unread = 0)
  urgent : ∀ g u, r.setup = some g → r.urgentPos = some u → u < g.size ∧ ringDiff u r.h g.size < r.unread
  flight : ∀ g x, r.setup = some g → r.flight = some x → x.abandoned = false → r.unread + 1 < g.size

/-- The report writer's invariant. -/
structure ReportInv (s : State) : Prop where
  ranges : ReportRanges s.report
  attention : AttentionInv s.report

/-- The tracker of an ON lane with ring slots `n` (R9, R10, R13, R31, R32): the cursors name places of the ring, fill and
lead lie in 0..N and are never both above 0, the history holds at most 33 stamps, and the estimate is below 2^27. -/
structure TrackerInv (n : Nat) (t : Tracker) : Prop where
  ingest : ∀ i e, t.ingest = .synchronised i e → i < n ∧ e ≤ 2
  play : ∀ p, t.play = some p → p < n
  decided : ∀ k, t.lastDecided = some k → k < n
  fill : t.fill ≤ n
  lead : t.lead ≤ n
  apart : 0 < t.lead → t.fill = 0
  history : t.history.length ≤ 33
  estimate : t.estimate < 2 ^ 27

/-- Every lane record is one R1 accepts as far as its ring and nominal interval go, and an ON lane has a record and a tracker
that keeps `TrackerInv`; on a SOURCE lane, which has no play cursor (R12, R18), that cursor is unsynchronised and the lead 0. -/
structure RingInv (s : State) : Prop where
  record : ∀ l r, (s.lane l).record = some r → 16 ≤ r.slots ∧ r.slots ≤ 65536 ∧ r.nominal ≤ 27000000
  on : ∀ l o, (s.lane l).on = some o → ∃ r, (s.lane l).record = some r ∧ TrackerInv r.slots o.track ∧
    (r.role = .source → o.track.play = none ∧ o.track.lead = 0)

/-- R37: the recent-cue list of an ON lane holds at most 8 entries and no two with one event number and kind. -/
def CueInv (s : State) : Prop :=
  ∀ l o, (s.lane l).on = some o →
    o.cues.length ≤ 8 ∧ (o.cues.map fun e => (e.event, e.kind)).Nodup

/-- Lane `l` holds order `i` as its active insertion. -/
def holdsActive (s : State) (l : LaneId) (i : OrderId) : Prop :=
  ((s.lane l).on.bind OnLane.active).map ActiveInsertion.order = some i

/-- Lane `l` holds order `i` as its waiting cue. -/
def holdsWaiting (s : State) (l : LaneId) (i : OrderId) : Prop :=
  ((s.lane l).on.bind OnLane.waiting).map WaitingCue.order = some i

/-- R82: an order is ACTIVE exactly when it is some lane's active insertion and BOUND exactly when it is some lane's waiting
cue, and that lane is the one its lane field names. -/
structure OrderInv (s : State) : Prop where
  active : ∀ i, (s.order i).state = .active ↔ ∃ l, holdsActive s l i
  bound : ∀ i, (s.order i).state = .bound ↔ ∃ l, holdsWaiting s l i
  lane : ∀ l i, holdsActive s l i ∨ holdsWaiting s l i → (s.order i).body.map OrderBody.lane = some l

/-- Fetches of a lane's queue or interject buffer that are not orphaned by a reset, of any generation. -/
def State.alive (s : State) (l : LaneId) (interject : Bool) : Nat :=
  (s.fetches.filter fun t => t.isOf l interject && !t.dead).length

/-- R67, R73: the queue entries and the fetches in flight of an ON lane together never exceed 8, those of its interject
buffer never exceed 2; and no lane has more fetches of any generation outstanding than that. -/
structure PlacesInv (s : State) : Prop where
  queue : ∀ l o, (s.lane l).on = some o → o.fetch.queue.length + s.inFlight l false ≤ 8
  interject : ∀ l o, (s.lane l).on = some o → o.fetch.interject.length + s.inFlight l true ≤ 2
  queueAlive : ∀ l, s.alive l false ≤ 8
  interjectAlive : ∀ l, s.alive l true ≤ 2

/-! ## Frames -/

/-- The two ports and the memory path's lists of `t` are those of `s`, and so are the pin and the station clock. -/
structure SamePorts (s t : State) : Prop where
  pin : t.pin = s.pin
  stationTime : t.stationTime = s.stationTime
  msPhase : t.msPhase = s.msPhase
  stationMs : t.stationMs = s.stationMs
  memReads : t.memReads = s.memReads
  upWrites : t.upWrites = s.upWrites
  runCount : t.runCount = s.runCount
  memPort : t.memPort = s.memPort
  upPort : t.upPort = s.upPort

/-- The posting slots, the posting queue and the WORKING slot of `t` are those of `s`. -/
structure SameEngine (s t : State) : Prop where
  slots : t.slots = s.slots
  queue : t.queue = s.queue
  working : t.working = s.working

/-- The tracker context of a lane, where it is ON. -/
def State.tracker (s : State) (l : LaneId) : Option Tracker := (s.lane l).on.map OnLane.track

/-- The posting of kind `code` in slot `k` is due to be carried out (R161): `k` is WORKING with its four record lines granted,
and the fourth line is the next data to return, with the reads `rest` issued after it. -/
structure Due (s : State) (k : PostSlotId) (code : BitVec 8) (rest : List MemRead) : Prop where
  working : s.working = some { slot := k, granted := 4 }
  returns : ∃ line dead, nextDue s.memReads = some (.posting line dead, rest)
  kind : (s.slot k).kind = code

/-- R2, R59, R172, Table 9-5: the `n` bytes from `a` meet an area of the kind: 1 the ring of a configured lane but `but`, 2 the
control window, 3 the report ring, 4 a READY clip. -/
def Meets (s : State) (but : Option LaneId) (a n : Nat) : Nat → Prop
  | 1 => ∃ m q, some m ≠ but ∧ (s.lane m).record = some q ∧ a < q.base + 192 * q.slots ∧ q.base < a + n
  | 2 => ∃ b, s.windowBase = some b ∧ a < b + 65536 ∧ b < a + n
  | 3 => ∃ g, s.report.setup = some g ∧ a < g.base + 32 * g.size ∧ g.base < a + n
  | 4 => ∃ c b, (s.clip c).body = some b ∧ a < b.address + 192 * b.length ∧ b.address < a + n
  | _ => False

/-- The posting in slot `k`, whose record has returned with the reads `rest` after it, is refused with the result and detail:
the slot is DONE with them and no slot is WORKING; nothing else has changed but the record data taken (R163). -/
def Refused (s : State) (k : PostSlotId) (rest : List MemRead) (res : PostResult) (detail : Nat)
    (x : Host.Outcome State Fault Refusal) : Prop :=
  x = .next { s with
    memReads := rest
    working := none
    slots := s.slots.set k { s.slot k with state := .done, result := res, detail := detail } }

/-! ## The fields of the posting records (Table 12-4, R186) -/

/-- `n` is the lowest number with the property: the first field at fault, or the first area met. -/
def FirstAt (bad : Nat → Prop) (n : Nat) : Prop := bad n ∧ ∀ m, m < n → ¬ bad m

/-- R1, R59: the list of `count` entries from byte `off` of record `x` is at fault: a kind code outside 1..8, a label above 1FFEh, a
kind twice or a label twice. Entries beyond the count are not examined, nor beyond the field's room of eight, where the count
is at fault itself (log entry 30). -/
def ListBad (x : RecordData) (off count : Nat) : Prop :=
  (∃ k, k < count ∧ k < 8 ∧
    (field x (off + 4 * k) 1 = 0 ∨ 8 < field x (off + 4 * k) 1 ∨ 0x1FFE < field x (off + 4 * k + 2) 2)) ∨
  ∃ j k, j < k ∧ k < count ∧ k < 8 ∧
    (field x (off + 4 * j) 1 = field x (off + 4 * k) 1 ∨ field x (off + 4 * j + 2) 2 = field x (off + 4 * k + 2) 2)

/-- R1, R186, Table 1-1: field `n` of a LANE CONFIGURE record is at fault, the lane number apart. -/
def LaneFieldBad (x : RecordData) : Nat → Prop
  | 2 => 1 < field x 0x01 1
  | 3 => 15 < field x 0x02 1
  | 4 => 2 ^ 36 ≤ field x 0x08 5 ∨ field x 0x08 5 % 64 ≠ 0
  | 5 => field x 0x10 4 < 16 ∨ 65536 < field x 0x10 4 ∨ 2 ^ 36 < field x 0x08 5 + 192 * field x 0x10 4
  | 6 => 0x1FFE < field x 0x14 2
  | 7 => field x 0x16 2 ≠ 0xFFFF ∧ (0x1FFE < field x 0x16 2 ∨ field x 0x16 2 = field x 0x14 2 ∨
      ∃ k, k < field x 0x30 1 ∧ k < 8 ∧ field x (0x34 + 4 * k + 2) 2 = field x 0x16 2)
  | 8 => 900000 < field x 0x18 4
  | 9 => field x 0x1C 4 < 2700 ∨ 27000000 < field x 0x1C 4 ∨ 2 ^ 31 ≤ field x 0x10 4 * field x 0x1C 4
  | 10 => field x 0x20 2 < 10 ∨ 10000 < field x 0x20 2
  | 11 => field x 0x22 2 < 10 ∨ 5000 < field x 0x22 2
  | 12 => field x 0x24 1 = 0
  | 13 => field x 0x25 1 = 0
  | 14 => 45000 < field x 0x26 2
  | 15 => 2 < field x 0x28 1 ∨ (field x 0x01 1 = 1 ∧ field x 0x28 1 ≠ 0)
  | 16 => field x 0x28 1 = 1 ∧ 511 < field x 0x2A 2
  | 17 => field x 0x28 1 = 2 ∧ (63 < field x 0x2C 1 ∨ field x 0x2C 1 = field x 0x00 1)
  | 18 => field x 0x28 1 = 2 ∧ 1 < field x 0x2D 1
  | 20 => field x 0x30 1 = 0 ∨ 8 < field x 0x30 1
  | 21 => ListBad x 0x34 (field x 0x30 1)
  | _ => False

/-- R59, R186, Table 4-1: field `n` of a CLIP DECLARE record is at fault, the clip id apart. -/
def ClipFieldBad (x : RecordData) : Nat → Prop
  | 2 => 2 ^ 36 ≤ field x 0x08 5 ∨ field x 0x08 5 % 64 ≠ 0
  | 3 => 2 ^ 36 < field x 0x08 5 + 192 * (field x 0x10 3 + 1)
  | 4 => 2 ^ 33 ≤ field x 0x18 5
  | 5 => field x 0x20 1 = 0 ∨ 8 < field x 0x20 1
  | 6 => ListBad x 0x24 (field x 0x20 1)
  | _ => False

/-- Lane `n` is 0..63 and configured with the role. -/
def Configured (s : State) (n : Nat) (role : Role) : Prop :=
  ∃ (l : LaneId) (r : LaneRecord), n = l.val ∧ (s.lane l).record = some r ∧ r.role = role

/-- R79, R186, Table 5-1: field `n` of an ORDER LOAD record is at fault. Playlist ids beyond the count are not examined, nor
beyond the field's room of six, where the count is at fault itself (log entry 30). -/
def OrderFieldBad (s : State) (x : RecordData) : Nat → Prop
  | 2 => ¬ Configured s (field x 0x01 1) .output
  | 4 => 1 < field x 0x03 1
  | 7 => field x 0x0C 4 < 90000 ∨ 54000000 < field x 0x0C 4
  | 8 => field x 0x03 1 = 0 ∧ (field x 0x10 1 = 0 ∨ 6 < field x 0x10 1)
  | 9 => field x 0x03 1 = 0 ∧ ∃ k, k < field x 0x10 1 ∧ k < 6 ∧ 511 < field x (0x12 + 2 * k) 2
  | 10 => field x 0x03 1 = 0 ∧ field x 0x20 2 ≠ 0xFFFF ∧ 511 < field x 0x20 2
  | 11 => field x 0x03 1 = 1 ∧ ¬ Configured s (field x 0x22 1) .source
  | 12 => field x 0x03 1 = 1 ∧ 1 < field x 0x23 1
  | _ => False

/-- R95, R186: field `n` of a SCHEDULE record is at fault. -/
def ScheduleFieldBad (x : RecordData) : Nat → Prop
  | 1 => 63 < field x 0x00 1
  | 3 => 1 < field x 0x02 1
  | 4 => 1 < field x 0x03 1
  | 6 => field x 0x02 1 = 0 ∧ 2 ^ 33 ≤ field x 0x08 5
  | 7 => field x 0x03 1 = 1 ∧ 2 ^ 33 ≤ field x 0x10 5
  | _ => False

/-- R119, R186, Table 7-1: field `n` of an ALERT START record is at fault, the alert id apart. -/
def AlertFieldBad (x : RecordData) : Nat → Prop
  | 2 => 1 < field x 0x01 1
  | 3 => field x 0x02 2 = 0
  | 4 => 511 < field x 0x04 2
  | 5 => field x 0x01 1 = 1 ∧ 0x1FFE < field x 0x06 2
  | 6 => field x 0x01 1 = 1 ∧ field x 0x08 1 = 0
  | 7 => 3600000 < field x 0x0C 4
  | _ => False

/-- R172, R186: field `n` of a REPORT SETUP record is at fault. -/
def ReportFieldBad (x : RecordData) : Nat → Prop
  | 1 => 2 ^ 36 ≤ field x 0x00 5 ∨ field x 0x00 5 % 64 ≠ 0
  | 2 => field x 0x08 4 < 16 ∨ 65536 < field x 0x08 4 ∨ 2 ^ 36 < field x 0x00 5 + 32 * field x 0x08 4
  | 3 => field x 0x0C 1 = 0 ∨ field x 0x08 4 ≤ field x 0x0C 1
  | 4 => field x 0x0E 2 = 0 ∨ 1000 < field x 0x0E 2
  | _ => False

/-- 12.2: the label entries are those of the list of `count` entries from byte `off` of record `x`, in its order. -/
def ListRead (x : RecordData) (off count : Nat) (es : List LabelEntry) : Prop :=
  es.length = count ∧ ∀ k e, es[k]? = some e →
    streamKindOf (field x (off + 4 * k) 1) = some e.kind ∧ e.label.toNat = field x (off + 4 * k + 2) 2

/-- Table 12-4: the lane record holds the fields of a LANE CONFIGURE record. -/
structure LaneRead (x : RecordData) (r : LaneRecord) : Prop where
  role : r.role = if field x 0x01 1 = 1 then .source else .output
  ring : r.base = field x 0x08 5 ∧ r.slots = field x 0x10 4 ∧ r.zone.val = field x 0x02 1
  labels : r.clockLabel.toNat = field x 0x14 2 ∧
    r.cueLabel.map BitVec.toNat = if field x 0x16 2 = 0xFFFF then none else some (field x 0x16 2)
  labelMap : ListRead x 0x34 (field x 0x30 1) r.labelMap
  times : r.playDelay = field x 0x18 4 ∧ r.nominal = field x 0x1C 4 ∧ r.staleLimit = field x 0x20 2 ∧
    r.lossLimit = field x 0x22 2 ∧ r.recovery = field x 0x24 1 ∧ r.deadline = field x 0x25 1 ∧ r.lateGrace = field x 0x26 2
  noSource : field x 0x28 1 = 0 → r.lossSource = .filler
  slate : field x 0x28 1 = 1 → ∃ c, r.lossSource = .slate c ∧ c.val = field x 0x2A 2
  backup : field x 0x28 1 = 2 → ∃ b m, r.lossSource = .backup b m (field x 0x2E 1) ∧ b.val = field x 0x2C 1 ∧
    (m = .rebase ↔ field x 0x2D 1 = 1)

/-- Table 12-4: the clip holds the fields of a CLIP DECLARE record. -/
structure ClipRead (x : RecordData) (b : ClipBody) : Prop where
  area : b.address = field x 0x08 5 ∧ b.length = field x 0x10 3 + 1
  first : b.first.toNat = field x 0x18 5
  labels : ListRead x 0x24 (field x 0x20 1) b.labels

/-- Table 12-4: the order holds the fields of an ORDER LOAD record. -/
structure OrderRead (x : RecordData) (b : OrderBody) : Prop where
  lane : b.lane.val = field x 0x01 1
  code : b.matchValue.toNat = field x 0x04 4 ∧ b.careMask.toNat = field x 0x08 4
  limits : b.uses = field x 0x02 1 ∧ b.maxLength = field x 0x0C 4
  clips : field x 0x03 1 = 0 → ∃ list pad, b.source = .clips list pad ∧
    list.map Fin.val = (List.range (field x 0x10 1)).map (fun k => field x (0x12 + 2 * k) 2) ∧
    pad.map Fin.val = if field x 0x20 2 = 0xFFFF then none else some (field x 0x20 2)
  live : field x 0x03 1 = 1 → ∃ l m, b.source = .live l m (field x 0x24 1) ∧ l.val = field x 0x22 1 ∧
    (m = .rebase ↔ field x 0x23 1 = 1)

/-- Table 12-4: the alert holds the fields of an ALERT START record. -/
structure AlertRead (x : RecordData) (b : AlertBody) : Prop where
  zones : b.zones.toNat = field x 0x02 2
  clip : b.clip.val = field x 0x04 2
  duration : b.duration = field x 0x0C 4
  override : field x 0x01 1 = 0 → b.mode = .override
  interject : field x 0x01 1 = 1 → ∃ lb, b.mode = .interject lb (field x 0x08 1) ∧ lb.toNat = field x 0x06 2

/-- Table 12-4, R172: the ring holds the fields of a REPORT SETUP record; the default urgent kinds are FEED_LOST (6), ALERT_START
(8) and ALERT_END (9). That a default mark of 0 is clear and one of 1 set is the model's choice (log entry 8). -/
structure RingRead (x : RecordData) (g : RingSetup) : Prop where
  area : g.base = field x 0x00 5 ∧ g.size = field x 0x08 4
  attention : g.threshold = field x 0x0C 1 ∧ g.coalesce = field x 0x0E 2
  default : field x 0x10 1 = 1 → ∀ k, 1 ≤ k → k ≤ 9 → g.urgent.getLsbD (k - 1) = decide (k = 6 ∨ k = 8 ∨ k = 9)
  marked : field x 0x10 1 = 0 → ∀ k, 1 ≤ k → k ≤ 9 → g.urgent.getLsbD (k - 1) = (field x 0x12 2).testBit (k - 1)

/-! ## The effective alert (R125) -/

/-- A stack entry as it becomes effective (R125 step 1), with the alerts of `t`. -/
def restarted (t : State) (z : StackEntry) : StackEntry :=
  match (t.alert z.id).body.map AlertBody.mode with
  | some .override => { z with cursor := 0, offset := none }
  | some (.interject _ n) => { z with cursor := 0, offset := none, countdown := n, due := false, wait := 0 }
  | none => { z with cursor := 0, offset := none, countdown := 0, due := false, wait := 0 }

/-- R63: the fetch source of OUTPUT lane context `o` of record `r` is the first line of Table 4-3 that applies, with the tables of
`t`; a lane whose loss source is NONE has none while its feed is not LIVE. -/
structure FetchSourceIs (t : State) (r : LaneRecord) (o : OnLane) : Prop where
  override : ∀ e, effectiveEntry t o.stack = some e → isOverride t e.id = true → o.fetch.source = some (.alert e.id)
  insertion : overrideEffective t o.stack = false → ∀ x, o.active = some x → x.suspended = false →
    o.fetch.source = some (.insertion x.order)
  loss : overrideEffective t o.stack = false → (∀ x, o.active = some x → x.suspended = true) → o.feed.state ≠ .live →
    o.fetch.source = if r.lossSource = .filler then none else some .loss
  priming : overrideEffective t o.stack = false → (∀ x, o.active = some x → x.suspended = true) → o.feed.state = .live →
    o.fetch.source = o.waiting.bind fun w =>
      match (t.order w.order).body.map OrderBody.source with
      | some (.clips _ _) => some (.insertion w.order)
      | _ => none

/-- R63 to R65, R140: lane `ln` of record `r` and context `o` is now `ln'` with `o'`, and the fetch source of an OUTPUT lane has
been judged with the tables of `t` (`FetchSourceIs`). Where it has changed, the queue is flushed, its generation raised and the
cursor placed, and there is no loss-source run state; where not, all of it stands. R140 discards the run state when the loss
source stops being the fetch source; that there is none either where the loss source has just been SELECTED is the model's
choice (DESIGN CHOICE, log entry 41). -/
structure SourceJudged (t : State) (r : LaneRecord) (ln : Lane) (o : OnLane) (ln' : Lane) (o' : OnLane) : Prop where
  source : r.role = .output → FetchSourceIs t r o'
  moved : if r.role = .output ∧ o'.fetch.source ≠ o.fetch.source then
      o'.fetch.queue = [] ∧ ln'.queueGen = ln.queueGen + 1 ∧ o'.sel = { o.sel with lossRun := none } ∧
        o'.fetch.cursor = o'.fetch.source.bind (placeCursor t r o')
    else
      o'.fetch.queue = o.fetch.queue ∧ ln'.queueGen = ln.queueGen ∧ o'.fetch.cursor = o.fetch.cursor ∧
        o'.fetch.source = o.fetch.source ∧ o'.sel = o.sel

/-- R63 to R65: as `SourceJudged`, in a decision that has judged the source once and then served its slot, which may have taken
the head of a queue that stood. -/
structure SourceJudgedOnce (t : State) (r : LaneRecord) (ln : Lane) (o : OnLane) (ln' : Lane) (o' : OnLane) : Prop where
  source : r.role = .output → FetchSourceIs t r o'
  moved : if r.role = .output ∧ o'.fetch.source ≠ o.fetch.source then
      o'.fetch.queue = [] ∧ ln'.queueGen = ln.queueGen + 1 ∧ o'.fetch.cursor = o'.fetch.source.bind (placeCursor t r o')
    else ln'.queueGen = ln.queueGen ∧ o'.fetch.cursor = o.fetch.cursor ∧ o'.fetch.source = o.fetch.source

/-- R64, R73: from `s` to `t` the waiting prefetch read is withdrawn exactly where it has no line granted and its lane's queue, or
interject buffer, has been flushed, which its raised generation tells; else it waits on as it stood, and no other waits. -/
def Withdrawn (s t : State) : Prop :=
  t.fetchWait = s.fetchWait.bind fun w =>
    let flushed := if w.1.interject then (t.lane w.1.lane).interjectGen ≠ (s.lane w.1.lane).interjectGen
      else (t.lane w.1.lane).queueGen ≠ (s.lane w.1.lane).queueGen
    if w.2 = 0 ∧ flushed then none else some w

/-- R125: lane context `o` of lane `ln`, with record `r`, is now `o'` of lane `ln'`: its stack has become `st` and its effective
alert has been judged again with the alerts of `t`. The same effective alert leaves everything but the stack. Another one
restarts the entry that becomes effective, suspends and marks or resumes the active insertion as an OVERRIDE comes or goes
(R128, R129), flushes the interject buffer and begins its fetches at packet 0 of an INTERJECT alert's clip (R73), and has the
fetch source judged (`SourceJudged`, with the choice of log entry 41 where the loss source is selected). -/
structure StackJudged (t : State) (r : LaneRecord) (st : List StackEntry) (ln : Lane) (o : OnLane) (ln' : Lane) (o' : OnLane) :
    Prop where
  kept : ln'.record = ln.record ∧ ln'.counts = ln.counts ∧ o' = { o with
    stack := o'.stack, active := o'.active, fetch := o'.fetch, sel := { o.sel with lossRun := o'.sel.lossRun } }
  same : (effectiveEntry t o.stack).map StackEntry.id = (effectiveEntry t st).map StackEntry.id →
    o' = { o with stack := st } ∧ ln'.queueGen = ln.queueGen ∧ ln'.interjectGen = ln.interjectGen
  changed : (effectiveEntry t o.stack).map StackEntry.id ≠ (effectiveEntry t st).map StackEntry.id →
    o'.stack = (match effectiveEntry t st with
      | some e => st.map fun z => if z.id = e.id then restarted t z else z
      | none => st) ∧
    o'.active = o.active.map (fun x =>
      match overrideEffective t o.stack, overrideEffective t st with
      | false, true => { x with suspended := true, flags := { x.flags with interrupted := true } }
      | true, false => { x with suspended := false }
      | _, _ => x) ∧
    o'.fetch.interject = [] ∧ ln'.interjectGen = ln.interjectGen + 1 ∧
    o'.fetch.interjectCursor = (effectiveEntry t st).bind (fun e =>
      (t.alert e.id).body.bind fun b => if b.mode = .override then none else some { clip := b.clip, packet := 0, fresh := true }) ∧
    SourceJudged t r ln o ln' o'

/-- R121, R125, R135: from `s` to `t`, alert `a` of fields `b` has been ended with the cause: its entry is IDLE with the timer
stopped and its fields and counts kept; it is off the force list and out of every stack, and each lane that held it has its
effective alert judged again, every other lane standing as it was; its clip is released once; its ALERT_END record is handed
over; no other alert, no tracker, no order and nothing of the posting engine has changed. -/
structure AlertEnding (s t : State) (a : AlertId) (b : AlertBody) (cause : AlertCause) : Prop where
  entry : t.alert a = { s.alert a with inForce := false, timer := false, lastCause := some cause }
  others : ∀ c, c ≠ a → t.alert c = s.alert c
  forceList : t.forceList = s.forceList.filter fun c => c != a
  stackIds : ∀ l, (t.lane l).on.map (fun o => o.stack.map StackEntry.id) =
    (s.lane l).on.map fun o => (o.stack.map StackEntry.id).filter fun c => c != a
  judged : ∀ l r o, (s.lane l).record = some r → (s.lane l).on = some o → a ∈ o.stack.map StackEntry.id →
    ∃ o', (t.lane l).on = some o' ∧ (t.lane l).flags = (s.lane l).flags ∧
      StackJudged t r (o.stack.filter fun z => z.id != a) (s.lane l) o (t.lane l) o'
  elsewhere : ∀ l, (∀ o, (s.lane l).on = some o → a ∉ o.stack.map StackEntry.id) → t.lane l = s.lane l
  trackers : ∀ l, t.tracker l = s.tracker l
  clips : ∀ c, t.clip c = if c = b.clip then { s.clip c with locks := (s.clip c).locks - 1 } else s.clip c
  orders : t.orders = s.orders
  engine : SameEngine s t
  report : t.report = s.report.handOver
    { kind := .alertEnd
      lane := (s.alert a).laneCount
      flags := BitVec.ofNat 8 ((if b.mode = .override then 0 else 1) + (if cause = .expired then 2 else 0) +
        (if (s.clip b.clip).disturbed then 8 else 0) + (if (s.alert a).fetchFault then 16 else 0))
      order := a.val
      firstClip := b.clip.val
      event := b.zones.setWidth 32
      timeIn := 0
      timeOut := 0
      served := (s.alert a).served.toNat
      underrun := (s.alert a).underrun.toNat
      ms := s.stationMs }

/-! ## Situations -/

/-- The upstream line `a` is line `line` of slot `i` of the ring of the ON lane `l`, whose record is `r` and context `o`. -/
structure InRing (s : State) (a : Addr) (l : LaneId) (i line : Nat) (r : LaneRecord) (o : OnLane) : Prop where
  class_ : classify s (lineAddr a) = .ring l i line
  record : (s.lane l).record = some r
  on : (s.lane l).on = some o

/-- A whole write of the expected line 2 of slot `i`: the slot `x` is completed and ingested (R9, R10). -/
structure Completes (s : State) (a : Addr) (d : Line) (l : LaneId) (i : Nat) (r : LaneRecord) (o : OnLane) (x : SlotData) :
    Prop where
  ring : InRing s a l i 2 r o
  expected : o.track.ingest = .synchronised i 2
  slot : x = setSlotLine o.track.assembly 2 d

/-- Packet `p` is one the ingest parser examines for a cue, its scrambling control apart (R33): good header, the cue label of an
OUTPUT lane, which is not its clock label, the unit-start flag and a payload. -/
structure OnCueLabel (r : LaneRecord) (p : Packet) : Prop where
  role : r.role = .output
  marker : hasMarker p = true
  header : headerVerdict p = .good
  label : r.cueLabel = some (packetLabel p)
  clock : r.clockLabel ≠ packetLabel p
  unit : unitStart p = true
  payload : bearsPayload p = true

/-- The ingest of a slot that is no capture makes no record of the feed's (R107 to R109). -/
def FeedQuiet (o : OnLane) : Prop := o.feed.state = .live ∨ o.feed.captureSeen = false

/-- R80: order `i` is ARMED for lane `l`, its care mask lets the placement code match, and it is ready. -/
def Bindable (s : State) (l : LaneId) (code : BitVec 32) (i : OrderId) : Prop :=
  (s.order i).state = .armed ∧ ∃ b, (s.order i).body = some b ∧ b.lane = l ∧
    (code ^^^ b.matchValue) &&& b.careMask = 0 ∧ orderReady s b = true

/-- The content part of lane `l`'s oldest decision is the next data to return, for the upstream read at `a` (R16). -/
structure Deciding (s : State) (a : Addr) (l : LaneId) (rest : List MemRead) (r : LaneRecord) (o : OnLane) (dec : Decision)
    (decs : List Decision) : Prop where
  due : nextDue s.memReads = some (.up a (.claim l), rest)
  record : (s.lane l).record = some r
  on : (s.lane l).on = some o
  head : o.track.awaiting = dec :: decs

/-- The decided stamp of a decision whose line 0 returns as `d` with the error indication `err` (R16). -/
def slotStampOf (o : OnLane) (dec : Decision) (d : Line) (err : Bool) : Option Arrival :=
  if dec.fresh ∧ err = false then some (d.extractLsb' 0 32)
  else o.track.prevStamp.map fun p => p + BitVec.ofNat 32 o.track.estimate

/-- P_slot of that decision (R45, R46). -/
def slotTime (r : LaneRecord) (o : OnLane) (dec : Decision) (d : Line) (err : Bool) : Option Stamp :=
  presentation o.clock r.playDelay (slotStampOf o dec d err)

/-- C_est of the decided stamp of that decision (R44, R56). -/
def slotClock (o : OnLane) (dec : Decision) (d : Line) (err : Bool) : Option Nat :=
  clockEstimate o.clock (slotStampOf o dec d err)

/-- T or R `x` is reached at a decision of presentation time `p` (R47). -/
def Reached (p : Option Stamp) (x : Stamp) : Prop := ∃ q, p = some q ∧ atOrAfter q x = true

/-- R141, R151: lane `l`'s decision goes out as the generated filler packet: line 0 at the upstream port, with bytes 0..3 as the
returned line `d` holds them and its error indication, and all three lines replaced in the prepared copy. -/
def FillerOut (t : State) (l : LaneId) (a : Addr) (d : Line) (err : Bool) : Prop :=
  ∃ x, t.upPort = some { addr := a, data := x, err := err } ∧
    (t.lane l).on.map (fun o => o.track.copy) =
      some (some { line0 := some x, line1 := some (BitVec.allOnes 512), line2 := some (BitVec.allOnes 512) }) ∧
    (∀ j, j < 4 → getByte x j = getByte d j) ∧
    getByte x 4 = 0x47#8 ∧ getByte x 5 = 0x1F#8 ∧ getByte x 6 = 0xFF#8 ∧ getByte x 7 = 0x10#8 ∧
    ∀ j, 8 ≤ j → j < 64 → getByte x j = 0xFF#8

/-- R142, R143: a packet taken from the queue is mapped to the entry `en` at place `n` of the lane's label map: it was fetched
without fault, it has a start marker, a header that is not bad and a label other than the filler's, and `en` is the first entry
with the kind of that label in the list of the packet's clip, or in the label map of its SOURCE lane. R143 gives a packet on label
1FFFh without a start marker or with a bad header two outcomes; that the test of marker and header is made first, so that it
counts as unmapped (`QueuedOut`), is the model's choice (DEDUCED, log entry 25). Which errored packets have a bad header is another
(DEDUCED, log entry 38). -/
def MapsTo (s : State) (r : LaneRecord) (e : QueueEntry) (n : Nat) (en : LabelEntry) : Prop :=
  e.fault = false ∧ hasMarker e.packet = true ∧ headerVerdict e.packet ≠ .bad ∧ packetLabel e.packet ≠ fillerLabel ∧
    ∃ k, kindIn (originLabels s e.origin) (packetLabel e.packet) = some k ∧ r.labelMap[n]? = some en ∧ en.kind = k ∧
      ∀ m y, m < n → r.labelMap[m]? = some y → y.kind ≠ k

/-- R54, R56, R142, R144, R147, R185: packet `p` is packet `q` on label `lb` with count `count`, its stamps moved by `off`, none
moving nothing, and its clock reference replaced by `ref`, none replacing nothing; every other bit is as it was. (That a packet
with the error flag has no clock reference, `hasClockRef`, and so goes out with bytes 6 to 11 as they were, is the model's
choice: DEDUCED, log entry 26.) -/
structure Rewritten (q : Packet) (lb : Label) (count : BitVec 4) (off : Option Stamp) (ref : Option Nat) (p : Packet) : Prop where
  label : packetLabel p = lb ∧ (getByte p 1).extractLsb' 5 3 = (getByte q 1).extractLsb' 5 3
  count : packetCount p = count ∧ (getByte p 3).extractLsb' 4 4 = (getByte q 3).extractLsb' 4 4
  stamps : ∀ ks k, scanStamps q = .stamps ks → k ∈ ks →
    getStamp p k = getStamp q k + off.getD 0 ∧ (getByte p k).extractLsb' 4 4 = (getByte q k).extractLsb' 4 4 ∧
      ∀ j, j = 0 ∨ j = 2 ∨ j = 4 → (getByte p (k + j)).extractLsb' 0 1 = (getByte q (k + j)).extractLsb' 0 1
  clock : ∀ c, ref = some c → hasClockRef q = true →
    clockRefBase p = BitVec.ofNat 33 (c / 300) ∧ clockRefExt p = BitVec.ofNat 9 (c % 300) ∧
      (getByte p 10).extractLsb' 1 6 = 0x3F#6
  rest : ∀ j, j < 188 → j ≠ 1 → j ≠ 2 → j ≠ 3 →
    (∀ ks k, scanStamps q = .stamps ks → k ∈ ks → off.isSome = true → ¬ (k ≤ j ∧ j < k + 5)) →
    (ref.isSome = true → hasClockRef q = true → ¬ (6 ≤ j ∧ j ≤ 11)) → getByte p j = getByte q j

/-- R52, R141 to R144, R147, R151: lane `l`'s decision, its context `o` before, goes out as the packet `e` taken from its queue, in
a run of offset `off` with clock reference `ref`. Mapped to a map entry it goes out rewritten on that entry's label, whatever
its own count with the count after the entry's last one, none counting as 15, where it bears payload, which becomes the last
one, and with the last one where not; bytes 0..3 are as the returned line holds them and all three lines are replaced.
Mapped to none it goes out as the generated filler, and no entry changes. Either way the away mark is set. The unmapped counter
and flag, and the unparsed-stamp counter where stamps were to be moved, rise by their rules. R143 gives a packet on label 1FFFh
that has no start marker or a bad header both the outcome of that label and the outcome of that failing; `unmapped` and `counted`
take the second and count it as unmapped, the model's choice (DEDUCED, log entry 25). Which errored packets have a bad header is the
model's choice too (DEDUCED, log entry 38), and so is that an errored packet keeps its clock reference (`Rewritten`: DEDUCED, log
entry 26). -/
structure QueuedOut (s t : State) (l : LaneId) (r : LaneRecord) (o : OnLane) (e : QueueEntry) (off : Option Stamp)
    (ref : Option Nat) (a : Addr) (d : Line) (err : Bool) : Prop where
  away : (t.lane l).on.map (fun y => y.sel.away) = some true
  filler : (∀ n en, ¬ MapsTo s r e n en) → FillerOut t l a d err ∧
    (t.lane l).on.map (fun y => y.sel.continuity) = some o.sel.continuity ∧
    (t.lane l).count .unparsedStamp = (s.lane l).count .unparsedStamp
  mapped : ∀ n en, MapsTo s r e n en → ∃ count p x,
    (∀ c, o.sel.continuity[n]? = some c →
      count = (if bearsPayload e.packet then c.last.getD 15 + 1 else c.last.getD 15) ∧
      (t.lane l).on.map (fun y => y.sel.continuity) = some (o.sel.continuity.set n
        { c with last := if bearsPayload e.packet then some count else c.last })) ∧
    Rewritten e.packet en.label count off ref p ∧ getByte p 0 = 0x47#8 ∧ x = makeSlot (d.extractLsb' 0 32) p ∧
    t.upPort = some { addr := a, data := slotLine x 0, err := err } ∧
    (t.lane l).on.map (fun y => y.track.copy) =
      some (some { line0 := some (slotLine x 0), line1 := some (slotLine x 1), line2 := some (slotLine x 2) }) ∧
    (t.lane l).count .unparsedStamp = (if off.isSome = true ∧ scanStamps e.packet = .unparsed
      then ((s.lane l).raise .unparsedStamp).count .unparsedStamp else (s.lane l).count .unparsedStamp)
  unmapped : e.fault = false → (∀ n en, ¬ MapsTo s r e n en) →
    ¬ (hasMarker e.packet = true ∧ headerVerdict e.packet ≠ .bad ∧ packetLabel e.packet = fillerLabel) →
    (t.lane l).count .unmapped = ((s.lane l).raise .unmapped).count .unmapped ∧ (t.lane l).flag .unmapped = true
  counted : e.fault = true ∨ (∃ n en, MapsTo s r e n en) ∨
      (hasMarker e.packet = true ∧ headerVerdict e.packet ≠ .bad ∧ packetLabel e.packet = fillerLabel) →
    (t.lane l).count .unmapped = (s.lane l).count .unmapped ∧ (t.lane l).flag .unmapped = (s.lane l).flag .unmapped

/-- An order that has left ACTIVE (R86): EMPTY where the abort mark was set, else ARMED with uses left and SPENT without. -/
def leftActive (y : Order) : Order :=
  if y.abort then { state := .empty, body := none, remaining := 0, unlimited := false, abort := false }
  else if y.unlimited = true ∨ 0 < y.remaining then { y with state := .armed }
  else { y with state := .spent }

/-- The distinct clips that the order of index `i`, where there is one, has locked (R61, R81). -/
def heldClips (s : State) (i : Option OrderId) : List ClipId := ((i.bind fun k => (s.order k).body).map OrderBody.clips).getD []

/-- The first clip field of an insertion record (12.4): the first clip of the order's playlist, FFFFh for a LIVE order. -/
def firstClipOf (s : State) (i : OrderId) : Nat :=
  match (s.order i).body.map OrderBody.source with
  | some (.clips (c :: _) _) => c.val
  | _ => 0xFFFF

/-- The record of insertion `x` of lane `l`, ended with the kind and time out (R100), DISTURBED where a clip it entered is. -/
def endedRecord (s : State) (l : LaneId) (x : ActiveInsertion) (kind : RecordKind) (out : Stamp) : AsRun :=
  { kind := kind
    lane := l.val
    flags := ({ x.flags with disturbed := x.entered.any fun c => (s.clip c).disturbed } : Conditions).byte
    order := x.order.val
    firstClip := firstClipOf s x.order
    event := x.event
    timeIn := x.timeIn
    timeOut := out
    served := x.served
    underrun := x.underrun
    ms := s.stationMs }

/-- The record of the waiting cue `w` of lane `l`, whose R is reached on its own splice slot of time `p` (R83 step 3, R90, R100):
nothing served, INTERRUPTED under an OVERRIDE alert, FEED_LOST_DURING where the feed is not LIVE. -/
def emptyBreakRecord (s : State) (l : LaneId) (o : OnLane) (w : WaitingCue) (b : OrderBody) (p : Stamp) : AsRun :=
  { kind := (match b.source with
      | .live _ _ _ => .insertComplete
      | .clips _ _ => .insertTruncated)
    lane := l.val
    flags := BitVec.ofNat 8 ((if overrideEffective s o.stack then 1 else 0) + (if o.feed.state ≠ .live then 2 else 0))
    order := w.order.val
    firstClip := firstClipOf s w.order
    event := w.event
    timeIn := p
    timeOut := p
    served := 0
    underrun := 0
    ms := s.stationMs }

/-- The order of a break that ended on its own splice slot (R84, R86): one use spent unless unlimited, then ARMED or SPENT. -/
def spentOnce (y : Order) : Order :=
  let uses := if y.unlimited then y.remaining else y.remaining - 1
  { y with state := if y.unlimited = true ∨ 0 < uses then .armed else .spent, remaining := uses }

/-- Insertion `x` of lane `l`, whose order has fields `b`, has ended from `s` to `t` with the kind and time out (R86, R100): its
order has left ACTIVE, its clips are released once each, and its record is handed over. -/
structure InsertionEnded (s t : State) (l : LaneId) (x : ActiveInsertion) (b : OrderBody) (kind : RecordKind) (out : Stamp) :
    Prop where
  order : t.order x.order = leftActive (s.order x.order)
  locks : ∀ c, (t.clip c).locks = if c ∈ b.clips then (s.clip c).locks - 1 else (s.clip c).locks
  report : t.report = s.report.handOver (endedRecord s l x kind out)

/-- The kind with which insertion `x` ends on a slot of time `p` on which the waiting cue splices in (R83, R85, R90): by its abort
mark, by its own R, exhausted, or else by chaining. -/
structure EndsAs (s : State) (p : Stamp) (x : ActiveInsertion) (kind : RecordKind) : Prop where
  aborted : (s.order x.order).abort = true → kind = .insertAborted
  returned : (s.order x.order).abort = false → atOrAfter p x.ret = true →
    (x.cursor = none ∨ (∃ k, x.cursor = some (.pad k)) ∨ x.cursor = some .exhausted → kind = .insertComplete) ∧
      (x.cursor ≠ none → (∀ k, x.cursor ≠ some (.pad k)) → x.cursor ≠ some .exhausted → kind = .insertTruncated)
  short : (s.order x.order).abort = false → atOrAfter p x.ret = false → x.cursor = some .exhausted → kind = .insertShort
  chained : (s.order x.order).abort = false → atOrAfter p x.ret = false → x.cursor ≠ some .exhausted →
    ((∃ k, x.cursor = some (.pad k)) → kind = .insertComplete) ∧
      ((∀ k, x.cursor ≠ some (.pad k)) → kind = .insertTruncated)

/-- The fields `(offset, size, value)` stand in line `x`, counted from its byte `k`, least significant byte first, each value as
far as its size holds it (12.3). -/
def Shows (x : Line) (k : Nat) (fs : List (Nat × Nat × Nat)) : Prop :=
  ∀ f, f ∈ fs → field x (k + f.1) f.2.1 = f.2.2 % 2 ^ (8 * f.2.1)

end Sys2Proof.Machine
end

