-- ==== Sys2Proof/Certificates/Slice0/Obligations.lean ====
section
/-! DEFINITION. The statements for the provers, by chapter of the manual: the queue of commands and the clock, the
invariants, the pins, upstream writes, upstream reads, the postings, the part's own events and timers, and the functions of
packets and stream time. -/

open Sys2Proof Sys2Proof.Machine

/-! ## The queue and the clock -/

/-- A step takes the command at the front of the queue and carries it out with the queue's rest (log entry 2). -/
def Obligations.StepTakesFrontCommand : Prop :=
  ∀ (c : Instr) (rest : List Instr) (s : State), s.pending = c :: rest → step s = exec c { s with pending := rest }

/-- Table 5-2: counted from a release with time 0, after `n` ticks of the station reference station time is `n` modulo 2^48 and
station milliseconds the `n / 27,000` whole milliseconds modulo 2^32, and nothing else has changed; while the pin is held
nothing changes. That an empty queue is a tick is the model's choice (log entry 2). -/
def Obligations.StationTimeCounts : Prop :=
  (∀ (straps : BitVec 8) (n : Nat) (s : State),
    s.pin = .released straps → s.pending = [] → s.stationTime = 0 → s.msPhase = 0 → s.stationMs = 0 →
    tick^[n] s =
        { s with
          stationTime := BitVec.ofNat 48 n, msPhase := n % 27000, stationMs := BitVec.ofNat 32 (n / 27000) } ∧
      step (tick^[n] s) = .next (tick^[n + 1] s)) ∧
  ∀ s : State, s.pin = .held → s.pending = [] → step s = .next s

/-- No command changes the queue of commands behind it: the queue is the model's own field (log entry 2). -/
def Obligations.ExecKeepsPendingQueue : Prop :=
  ∀ (c : Instr) (s t : State), exec c s = .next t → t.pending = s.pending

/-! ## Invariants -/

/-- Every invariant below holds of the part right after reset. -/
def Obligations.ResetMeetsInvariants : Prop :=
  PostingInv State.reset ∧ ReportInv State.reset ∧ ForceInv State.reset ∧ RunInv State.reset ∧ RingInv State.reset ∧
    CueInv State.reset ∧ OrderInv State.reset ∧ PlacesInv State.reset

/-- R160, R161, R118, R37: every step keeps the posting queue without repeats and equal to the PENDING slots with the one
WORKING slot equal to the posting being carried out; the force list without repeats and equal to the set of alerts IN FORCE;
and each recent-cue list at 8 entries or fewer, no two with one event number and kind. -/
def Obligations.ListInvariants : Prop :=
  (∀ s t : State, PostingInv s → step s = .next t → PostingInv t) ∧
  (∀ s t : State, ForceInv s → step s = .next t → ForceInv t) ∧
  (∀ s t : State, CueInv s → step s = .next t → CueInv t)

/-- R174 to R181: every step keeps W and H places of the ring, the gap count and the write queue in range, the urgent position
inside the unread span, a free place for the write in flight, and the attention line equal to its causes. -/
def Obligations.ReportWriterInvariant : Prop :=
  ∀ s t : State, ReportInv s → step s = .next t → ReportInv t

/-- R9, R10, R13, R31, R32: every step keeps each ON lane's cursors on its ring, its fill and starved lead in 0..N and never
both above 0, its history at 33 stamps or fewer and its estimate below 2^27, and a SOURCE lane without a play cursor. -/
def Obligations.RingCursorInvariant : Prop :=
  ∀ s t : State, RingInv s → step s = .next t → RingInv t

/-- R82: every step keeps the orders ACTIVE and BOUND exactly those that some lane holds, on the lane each names. -/
def Obligations.OrderContextInvariant : Prop :=
  ∀ s t : State, OrderInv s → step s = .next t → OrderInv t

/-- R67, R73: every step keeps each queue with its fetches in flight within 8 places and each interject buffer within 2. R64:
no command but the resets, FETCH_ISSUE and ARBITER_GRANT touches the waiting prefetch read, except that a flush of its lane's
queue or interject buffer, told by the raised generation, withdraws it where none of its lines is granted. (Generations are
told apart by their 8-bit number, the model's choice: log entry 39.) -/
def Obligations.PrefetchPlacesInvariant : Prop :=
  (∀ s t : State, PlacesInv s → step s = .next t → PlacesInv t) ∧
  ∀ (c : Instr) (s t : State), exec c s = .next t → c ≠ .pinReset → (∀ x, c ≠ .partReset x) → c ≠ .fetchIssue →
    c ≠ .arbiterGrant → Withdrawn s t

/-! ## The pins (R153 to R155) -/

/-- R154, R168 with R20, R58, R78, R118, R182 and Table 9-1: pin reset leaves every table of the part empty, the clock at 0,
the attention line deasserted, and every upstream read served as the memory returns it. PART RESET empties every table, the
force list and the posting queue, unsets the ring with the attention line deasserted, and zeroes the run count and the scan
position; every PENDING slot is DONE with DROPPED, keeping kind, tag and doubled flag, its own slot is DONE with OK and every
other slot stands; the strap value, the station clock and the ports' traffic are kept. (That every outstanding upstream read
is served as the memory returns it, whatever had been prepared for it, and that the ungranted lines of a waiting prefetch read
are withdrawn even where its line 0 is granted, are deductions: log entries 16 and 18.) -/
def Obligations.ResetsEmptyThePart : Prop :=
  (∀ s : State, ∃ t, exec .pinReset s = .next t ∧
     t.pin = .held ∧ t.stationTime = 0 ∧ t.stationMs = 0 ∧ t.runCount = 0 ∧ t.scanPos = 0 ∧ t.fetchWait = none ∧
     (∀ l, t.lane l =
       { record := none, counts := Vector.replicate 21 0, flags := 0, queueGen := 0, interjectGen := 0, on := none }) ∧
     (∀ c, t.clip c = { body := none, locks := 0, disturbed := false, readFault := false }) ∧
     (∀ i, (t.order i).state = .empty ∧ (t.order i).body = none ∧ (t.order i).remaining = 0 ∧ (t.order i).abort = false) ∧
     (∀ a, (t.alert a).inForce = false ∧ (t.alert a).body = none ∧ (t.alert a).timer = false ∧ (t.alert a).served = 0 ∧
       (t.alert a).underrun = 0 ∧ (t.alert a).laneCount = 0 ∧ (t.alert a).fetchFault = false) ∧
     t.forceList = [] ∧
     (∀ k, t.slot k = { state := .idle, kind := 0, tag := 0, result := .ok, detail := 0, doubled := false }) ∧
     t.queue = [] ∧ t.working = none ∧
     t.report.setup = none ∧ t.report.w = 0 ∧ t.report.h = 0 ∧ t.report.gap = 0 ∧ t.report.queue = [] ∧
     t.report.flight = none ∧ t.report.urgentPos = none ∧ t.report.timer = .stopped ∧ t.report.badIndex = false ∧
     t.report.attention = false ∧
     (∀ a sv, .up a sv ∈ t.memReads → sv = .plain) ∧ (∀ a sv, .read a sv ∈ t.upOrder → sv = .plain) ∧
     t.upOrder.length = s.upOrder.length ∧ t.memReads.length = s.memReads.length ∧
     t.upWrites = s.upWrites ∧ t.memPort = s.memPort ∧ t.upPort = s.upPort) ∧
  (∀ (x : RecordData) (s : State) (k : PostSlotId) (rest : List MemRead), Due s k 0x0F#8 rest →
     ∃ t, exec (.partReset x) s = .next t ∧ t.pin = s.pin ∧ t.stationTime = s.stationTime ∧ t.stationMs = s.stationMs ∧
       (∀ j, t.slot j = if j = k then { s.slot j with state := .done, result := .ok, detail := 0 }
         else if (s.slot j).state = .pending then { s.slot j with state := .done, result := .dropped, detail := 0 }
         else s.slot j) ∧
       t.queue = [] ∧ t.working = none ∧ t.forceList = [] ∧ t.runCount = 0 ∧ t.scanPos = 0 ∧ t.fetchWait = none ∧
       (∀ l, t.lane l =
         { record := none, counts := Vector.replicate 21 0, flags := 0, queueGen := 0, interjectGen := 0, on := none }) ∧
       (∀ c, t.clip c = { body := none, locks := 0, disturbed := false, readFault := false }) ∧
       (∀ i, (t.order i).state = .empty) ∧ (∀ a, (t.alert a).inForce = false ∧ (t.alert a).body = none) ∧
       t.report.setup = none ∧ t.report.attention = false ∧ t.report.queue = [] ∧ t.report.flight = none ∧
       (∀ a sv, .up a sv ∈ t.memReads → sv = .plain) ∧ (∀ a sv, .read a sv ∈ t.upOrder → sv = .plain) ∧
       (∀ a d e go, .write a d e go ∈ s.upOrder ↔ .write a d e go ∈ t.upOrder) ∧ t.upWrites = s.upWrites ∧
       t.upPort = s.upPort ∧ t.memPort = s.memPort)

/-- R153, R155: the release of the held pin latches S, changes nothing else, and puts the control window at S x 256 MiB, wholly
within the address space; no command but PIN_RESET changes a latched S. -/
def Obligations.PinReleaseLatchesStraps : Prop :=
  (∀ (x : BitVec 8) (s : State), s.pin = .held →
    exec (.pinResetRelease x) s = .next { s with pin := .released x } ∧
      State.windowBase { s with pin := .released x } = some (x.toNat * 268435456) ∧
      x.toNat * 268435456 + 65535 < 2 ^ 36) ∧
  ∀ (c : Instr) (x : BitVec 8) (s t : State), s.pin = .released x → exec c s = .next t → c ≠ .pinReset →
    t.pin = .released x

/-! ## Upstream writes -/

/-- R5: the class of a line address in terms of addresses, once the pin is released: the control window; line `j` of slot `k` of
the one configured ring that holds the line, with the lane ON or OFF; the area of a locked clip; any other address. -/
def Obligations.AddressesAreClassified : Prop :=
  ∀ (straps : BitVec 8) (s : State) (a : Nat), s.pin = .released straps →
    let base := straps.toNat * 268435456
    (base ≤ a → a < base + 65536 → classify s a = .window (a - base)) ∧
    (¬ (base ≤ a ∧ a < base + 65536) →
      (∀ (l : LaneId) (r : LaneRecord) (k j : Nat), (s.lane l).record = some r → k < r.slots → j < 3 →
        a = r.base + 192 * k + 64 * j →
        (∀ m q, m ≠ l → (s.lane m).record = some q → ¬ (q.base ≤ a ∧ a < q.base + 192 * q.slots)) →
        classify s a = if (s.lane l).on.isSome then .ring l k j else .offRing) ∧
      ((∀ m q, (s.lane m).record = some q → ¬ (q.base ≤ a ∧ a < q.base + 192 * q.slots)) →
        ((∃ c b, 0 < (s.clip c).locks ∧ (s.clip c).body = some b ∧ b.address ≤ a ∧ a < b.address + 192 * b.length) →
          classify s a = .watched) ∧
        ((∀ c b, 0 < (s.clip c).locks → (s.clip c).body = some b → ¬ (b.address ≤ a ∧ a < b.address + 192 * b.length)) →
          classify s a = .other)))

/-- R6, R18, R156: every upstream write, under each of its five names, completes, joins the tail of the upstream order as
presented and changes neither port; it is marked as a go write only where it makes a posting slot PENDING; a write of an OFF
lane's ring, of unwatched memory, or of a window line where it enables neither a go word's byte 0 nor the read-index word's
line changes nothing else. (That the five names have one handling, by the address alone, is the model's: log entry 3.) -/
def Obligations.UpstreamWritesAreForwarded : Prop :=
  ∀ (a : Addr) (d : Line) (e : Enables) (ff : Bool) (s : State) (c : Instr),
    c ∈ [Instr.ringWrite a d e ff, .watchWindowWrite a d e, .goWrite a d e, .readIndexWrite a d e, .upstreamWrite a d e] →
    ∃ t go, exec c s = .next t ∧ t.upOrder = s.upOrder ++ [.write a d e go] ∧ SamePorts s t ∧ t.working = s.working ∧
      t.scanPos = s.scanPos ∧ t.forceList = s.forceList ∧
      (∀ k, go = some k → ∃ off, classify s (lineAddr a) = .window off ∧ goWriteSlot off e = some k ∧
        ((s.slot k).state = .idle ∨ (s.slot k).state = .done)) ∧
      ((classify s (lineAddr a) = .offRing ∨ classify s (lineAddr a) = .other ∨ classify s (lineAddr a) = .unclassified ∨
          ∃ off, classify s (lineAddr a) = .window off ∧ goWriteSlot off e = none ∧ off ≠ 0x1040) →
        t = { s with upOrder := s.upOrder ++ [.write a d e none] })

/-- R9, R10, R31, R32: in sync, a whole write of the expected line 0 or 1 is accepted whatever packet it holds: its data enters the
assembly buffer and the next line of the same slot is expected; nothing else changes. The accepted line 2 completes the slot:
its stamp joins the history of at most 33, the estimate is worked afresh, fill and starved lead move by the lane's role, line 0
of the next slot is expected, and an OUTPUT lane with no starved lead whose fill was already N counts and flags an overrun, and
no other lane state does; no other lane's tracker, no posting and no port changes. -/
def Obligations.AcceptedLinesAreIngested : Prop :=
  (∀ (a : Addr) (d : Line) (ff : Bool) (s : State) (l : LaneId) (i line : Nat) (r : LaneRecord) (o : OnLane),
     InRing s a l i line r o → o.track.ingest = .synchronised i line → line < 2 →
     exec (.ringWrite a d (BitVec.allOnes 64) ff) s =
       .next { s with
         upOrder := s.upOrder ++ [.write a d (BitVec.allOnes 64) none]
         lanes := s.lanes.set l { s.lane l with
           on := some { o with track := { o.track with
             assembly := setSlotLine o.track.assembly line d, ingest := .synchronised i (line + 1) } } } }) ∧
  (∀ (a : Addr) (d : Line) (ff : Bool) (s : State) (l : LaneId) (i : Nat) (r : LaneRecord) (o : OnLane),
     InRing s a l i 2 r o → o.track.ingest = .synchronised i 2 →
     let x := setSlotLine o.track.assembly 2 d
     let h := (if o.track.history.length < 33 then o.track.history else o.track.history.tail) ++ [slotStamp x]
     let passed := r.role = .output ∧ 0 < o.track.lead
     let overrun := r.role = .output ∧ o.track.lead = 0 ∧ r.slots ≤ o.track.fill
     ∃ t, exec (.ringWrite a d (BitVec.allOnes 64) ff) s = .next t ∧
       t.tracker l = some { o.track with
         assembly := x
         ingest := .synchronised ((i + 1) % r.slots) 0
         history := h
         estimate := if h.length < 33 then r.nominal else (h.getLast?.getD 0 - h.head?.getD 0).toNat / 32
         fill := if passed then o.track.fill else min r.slots (o.track.fill + 1)
         lead := if passed then o.track.lead - 1 else o.track.lead } ∧
       (t.lane l).count .overrun =
         (if overrun then ((s.lane l).raise .overrun).count .overrun else (s.lane l).count .overrun) ∧
       (t.lane l).flag .overrun = ((s.lane l).flag .overrun || decide overrun) ∧
       (∀ m, m ≠ l → t.tracker m = s.tracker m) ∧ (∀ m, (t.lane m).record = (s.lane m).record) ∧
       SamePorts s t ∧ SameEngine s t)

/-- R22 to R28, R30, R107 to R109, R116: a completed slot whose packet is a capture (start marker, good header, the lane's
clock label, a clock reference with an extension of 0..299) makes the clock model VALID, anchored at the reference and the
slot's own stamp, with the present station milliseconds as the last capture time, and sets the capture-seen mark; any other
slot refreshes the anchor with its stamp. A packet without marker, of a bad header or errored, a capture's reference with an
extension of 300 or more, and a capture with the discontinuity flag are each counted and flagged, and nothing else is. Every
completed slot restarts the loss timer; in LOST it begins RECOVERING with good count 1, in RECOVERING the good count rises,
holding at 255. With the good count at the recovery count and the mark set, whichever of the two events of the slot comes
first (log entry 10), the lane is LIVE and its outage record is closed, with a FEED_RESTORED record where one was open, and an
OUTPUT lane has its fetch source judged by Table 4-3 (R109, R63); otherwise the state and the fetch source stand. (The
judgement is stated for a recovery count the lane record can hold, 255 or less; its record and fetch source clauses leave out
slots on the cue label, whose cue may make a record and bind an order.) -/
def Obligations.IngestJudgesClockAndFeed : Prop :=
  ∀ (a : Addr) (d : Line) (ff : Bool) (s : State) (l : LaneId) (i : Nat) (r : LaneRecord) (o : OnLane) (x : SlotData),
    Completes s a d l i r o x →
    let p := slotPacket x
    let marker := hasMarker p = true
    let reference := marker ∧ headerVerdict p = .good ∧ packetLabel p = r.clockLabel ∧ hasClockRef p = true
    let capture := reference ∧ (clockRefExt p).toNat < 300
    let good := match o.feed.state with
      | .live => o.feed.good
      | .lost => 1
      | .recovering => min 255 (o.feed.good + 1)
    let seen := o.feed.captureSeen = true ∨ capture
    let proven := o.feed.state ≠ .live ∧ r.recovery ≤ good ∧ seen
    ∃ t o', exec (.ringWrite a d (BitVec.allOnes 64) ff) s = .next t ∧ (t.lane l).on = some o' ∧
      (capture → o'.clock =
        .valid { clock := (clockRefBase p).toNat * 300 + (clockRefExt p).toNat, stamp := slotStamp x } s.stationMs) ∧
      (¬ capture → o'.clock = o.clock.refresh (some (slotStamp x))) ∧
      (∀ (c : Counter) (f : Flag) (b : Prop), (c, f, b) ∈
          [(Counter.noMarker, Flag.noMarker, ¬ marker), (.badHeader, .badHeader, marker ∧ headerVerdict p = .bad),
           (.errored, .errored, marker ∧ headerVerdict p = .errored),
           (.badReference, .badReference, reference ∧ 300 ≤ (clockRefExt p).toNat),
           (.timebaseChange, .timebaseChanged, capture ∧ discontinuity p = true)] →
        (b → (t.lane l).count c = ((s.lane l).raise c).count c ∧ (t.lane l).flag f = true) ∧
        (¬ b → (t.lane l).count c = (s.lane l).count c ∧ (t.lane l).flag f = (s.lane l).flag f)) ∧
      o'.feed.lossTimer = some s.stationMs ∧ (o'.feed.captureSeen = true ↔ seen) ∧
      (r.recovery ≤ 255 →
        (¬ proven → o'.feed.good = good ∧ o'.feed.outage = o.feed.outage ∧
          o'.feed.state = (if o.feed.state = .live then .live else .recovering)) ∧
        (proven → o'.feed.state = .live ∧ o'.feed.outage = none) ∧
        ((r.role = .source ∨ r.cueLabel ≠ some (packetLabel p)) →
          let model := if ff = true ∧ o.feed.captureSeen = true then o.clock else o'.clock
          (¬ proven ∨ o.feed.outage = none → t.report = s.report) ∧
          ∀ y, proven → o.feed.outage = some y → t.report = s.report.handOver
            { kind := .feedRestored, lane := l.val, flags := 0, order := 0
              firstClip := (match r.lossSource with
                | .slate c => c.val
                | _ => 0xFFFF)
              event := 0, timeIn := y.start
              timeOut := (if r.role = .source then 0 else (presentation model r.playDelay o.track.prevStamp).getD 0)
              served := y.served.toNat, underrun := y.underrun.toNat, ms := s.stationMs }) ∧
        (r.role = .output → r.cueLabel ≠ some (packetLabel p) →
          (¬ proven → o'.fetch = o.fetch ∧ (t.lane l).queueGen = (s.lane l).queueGen) ∧
          (proven → SourceJudged t r (s.lane l) o (t.lane l) o')))

/-- R33 to R38, R101: the section of a cue packet in a completed slot. A scrambled packet, and one with pointer 0 whose
section is empty or does not begin with D5h, counts as not a cue; one that fails any other check of R34 counts and flags a
malformed cue and gives a CUE_REFUSED record with reason MALFORMED, whose event is read where the section reaches it; one that
passes is a parsed cue with the fields of R36, and a duplicate where the recent-cue list holds its event and kind. Neither a
refused packet nor a duplicate changes the list, the waiting cue, the active insertion or an order. (What the MALFORMED record
carries besides its event is log entry 28. The record clauses ask that this ingest gives no FEED_RESTORED.) -/
def Obligations.CueSectionsAreChecked : Prop :=
  ∀ (a : Addr) (d : Line) (ff : Bool) (s : State) (l : LaneId) (i : Nat) (r : LaneRecord) (o : OnLane) (x : SlotData),
    Completes s a d l i r o x → OnCueLabel r (slotPacket x) →
    let p := slotPacket x
    let sec := payloadStart p + 1
    let q := payloadLength p - 1
    let len := packetNumber p (sec + 2) 2
    let notCue := scrambling p ≠ 0 ∨ (payloadByte p 0 = 0#8 ∧ (q = 0 ∨ getByte p sec ≠ 0xD5#8))
    let passes := payloadByte p 0 = 0#8 ∧ 4 ≤ q ∧ 23 ≤ len ∧ len ≤ 179 ∧ 4 + len ≤ q ∧
      crcOver p sec len = BitVec.ofNat 32 (packetNumber p (sec + len) 4) ∧
      1 ≤ (getByte p (sec + 1)).toNat ∧ (getByte p (sec + 1)).toNat ≤ 4
    let listed : Cue → Prop := fun c => ∃ e, e ∈ o.cues ∧ e.event = c.event ∧ e.kind = c.kind
    ∃ t o', exec (.ringWrite a d (BitVec.allOnes 64) ff) s = .next t ∧ (t.lane l).on = some o' ∧
      (notCue ∨ ¬ passes ∨ (∃ c, scanCue p = .parsed c ∧ listed c) →
        o'.cues = o.cues ∧ o'.waiting = o.waiting ∧ o'.active = o.active ∧ t.orders = s.orders) ∧
      (notCue → (t.lane l).count .notACue = ((s.lane l).raise .notACue).count .notACue ∧
        (FeedQuiet o → t.report = s.report)) ∧
      (¬ notCue → ¬ passes →
        (t.lane l).count .malformedCue = ((s.lane l).raise .malformedCue).count .malformedCue ∧
        (t.lane l).flag .malformedCue = true ∧
        (FeedQuiet o → t.report = s.report.handOver
          { kind := .cueRefused, lane := l.val, flags := 1, order := 0, firstClip := 0xFFFF
            event := (if payloadByte p 0 = 0#8 ∧ 8 ≤ q then BitVec.ofNat 32 (packetNumber p (sec + 4) 4) else 0)
            timeIn := 0, timeOut := 0, served := 0, underrun := 0, ms := s.stationMs })) ∧
      (¬ notCue → passes → ∃ c, scanCue p = .parsed c ∧ c.kind.code = (getByte p (sec + 1)).toNat ∧
        c.event = BitVec.ofNat 32 (packetNumber p (sec + 4) 4) ∧
        c.placement = BitVec.ofNat 32 (packetNumber p (sec + 8) 4) ∧
        c.time = (if (getByte p (sec + 12)).getLsbD 7 then some (BitVec.ofNat 33 (packetNumber p (sec + 13) 5)) else none) ∧
        c.duration =
          (if (getByte p (sec + 12)).getLsbD 6 then some (BitVec.ofNat 33 (packetNumber p (sec + 18) 5)) else none) ∧
        (listed c → (t.lane l).count .duplicateCue = ((s.lane l).raise .duplicateCue).count .duplicateCue ∧
          (FeedQuiet o → t.report = s.report)))

/-- R37 to R39, R48, R49, R80, R92, R93, R101: a parsed cue that is no duplicate joins the recent-cue list, the oldest of 8
entries leaving, with its outcome. It is refused NO_CLOCK without a VALID clock model. A START or START_OPEN with a time given
is refused LATE where P_cue lies further behind that time than the late grace; else PENDING_FULL where the lane holds a
waiting cue; else NO_ORDER where no order can be bound. A RETURN of neither the active insertion's nor the waiting cue's event
is refused UNMATCHED. A CANCEL of the waiting cue's event is accepted, else CANCEL_LATE of the active insertion's event, else
UNMATCHED. A refused cue gives its CUE_REFUSED record and changes no insertion, order or clip; an accepted one gives none.
(The record clause asks that this ingest gives no FEED_RESTORED.) -/
def Obligations.CueOutcomesAreDecided : Prop :=
  ∀ (a : Addr) (d : Line) (ff : Bool) (s : State) (l : LaneId) (i : Nat) (r : LaneRecord) (o : OnLane) (x : SlotData) (c : Cue),
    Completes s a d l i r o x → OnCueLabel r (slotPacket x) → scrambling (slotPacket x) = 0 →
    scanCue (slotPacket x) = .parsed c → (∀ e, e ∈ o.cues → ¬ (e.event = c.event ∧ e.kind = c.kind)) →
    let pCue := presentation o.clock r.playDelay (some (slotStamp x))
    let late := ∃ u p, c.time = some u ∧ pCue = some p ∧ (p - u).toNat < 2 ^ 32 ∧ r.lateGrace < (p - u).toNat
    let ofWaiting := ∃ w, o.waiting = some w ∧ w.event = c.event
    let ofActive := ∃ y, o.active = some y ∧ y.event = c.event
    let bindable := ∃ j, Bindable s l c.placement j
    ∃ t o' why, exec (.ringWrite a d (BitVec.allOnes 64) ff) s = .next t ∧ (t.lane l).on = some o' ∧
      o'.cues = (if o.cues.length < 8 then o.cues else o.cues.tail) ++ [{ event := c.event, kind := c.kind, outcome := why }] ∧
      (o.clock.isValid = false → why = some .noClock) ∧
      (o.clock.isValid = true → c.kind = .start ∨ c.kind = .startOpen →
        (late → why = some .late) ∧ (¬ late → o.waiting.isSome = true → why = some .pendingFull) ∧
        (¬ late → o.waiting = none → ¬ bindable → why = some .noOrder) ∧
        (¬ late → o.waiting = none → bindable → why = none)) ∧
      (o.clock.isValid = true → c.kind = .ret →
        (ofActive ∨ ofWaiting → why = none) ∧ (¬ ofActive → ¬ ofWaiting → why = some .unmatched)) ∧
      (o.clock.isValid = true → c.kind = .cancel →
        (ofWaiting → why = none) ∧ (¬ ofWaiting → ofActive → why = some .cancelLate) ∧
        (¬ ofWaiting → ¬ ofActive → why = some .unmatched)) ∧
      (why.isSome = true →
        o'.active = o.active ∧ o'.waiting = o.waiting ∧ t.orders = s.orders ∧ t.clips = s.clips) ∧
      (FeedQuiet o → t.report = match why with
        | none => s.report
        | some y => s.report.handOver
          { kind := .cueRefused, lane := l.val, flags := BitVec.ofNat 8 y.code
            order := (if y = .cancelLate then (o.active.map fun z => z.order.val).getD 0 else 0)
            firstClip := 0xFFFF, event := c.event, timeIn := pCue.getD 0, timeOut := c.time.getD 0
            served := 0, underrun := 0, ms := s.stationMs })

/-- R48 to R51, R63, R80, R81, R92, R93: what an accepted cue does, on a lane with a VALID model. A START or START_OPEN binds
the lowest order that can be bound as the waiting cue, T its time or P_cue, R the lesser of its duration and the maximum
length after T, for a START_OPEN always the maximum length; the order is BOUND and its clips are locked once each. A RETURN
replaces R of the active insertion of its event, or else of the waiting cue of its event, by its time or P_cue, no further
than the maximum length after T. A CANCEL removes the waiting cue of its event: its order is ARMED with its uses unchanged and
its clips are released once each. No other order changes. After a binding and after a CANCEL the lane's fetch source is judged
by Table 4-3 (no run state where the loss source is selected: the model's choice, log entry 41); a RETURN leaves it. (The
fetch source clauses ask that this ingest does not make the feed LIVE.) -/
def Obligations.AcceptedCuesActOnTheBreak : Prop :=
  ∀ (a : Addr) (d : Line) (ff : Bool) (s : State) (l : LaneId) (i : Nat) (r : LaneRecord) (o : OnLane) (x : SlotData) (c : Cue)
    (p : Stamp),
    Completes s a d l i r o x → OnCueLabel r (slotPacket x) → scrambling (slotPacket x) = 0 →
    scanCue (slotPacket x) = .parsed c → (∀ e, e ∈ o.cues → ¬ (e.event = c.event ∧ e.kind = c.kind)) →
    o.clock.isValid = true → presentation o.clock r.playDelay (some (slotStamp x)) = some p →
    let q := c.time.getD p
    let limited : Stamp → OrderBody → Stamp := fun u b =>
      if (q - u).toNat < 2 ^ 32 ∧ b.maxLength < (q - u).toNat then u + BitVec.ofNat 33 b.maxLength else q
    ∃ t o', exec (.ringWrite a d (BitVec.allOnes 64) ff) s = .next t ∧ (t.lane l).on = some o' ∧
      (∀ j b, c.kind = .start ∨ c.kind = .startOpen →
        (∀ u, c.time = some u → ¬ ((p - u).toNat < 2 ^ 32 ∧ r.lateGrace < (p - u).toNat)) → o.waiting = none →
        Bindable s l c.placement j → (∀ k, k < j → ¬ Bindable s l c.placement k) → (s.order j).body = some b →
        let length := match c.kind, c.duration with
          | .start, some n => min n.toNat b.maxLength
          | _, _ => b.maxLength
        o'.waiting = some { order := j, event := c.event, kind := if c.kind = .start then .start else .startOpen
                            splice := q, ret := q + BitVec.ofNat 33 length } ∧
          o'.active = o.active ∧ t.order j = { s.order j with state := .bound } ∧ (∀ k, k ≠ j → t.order k = s.order k) ∧
          (∀ k, t.clip k = { s.clip k with
            locks := if k ∈ b.clips then (s.clip k).locks + 1 else (s.clip k).locks }) ∧
          (FeedQuiet o → SourceJudged t r (s.lane l) o (t.lane l) o')) ∧
      (∀ y b, c.kind = .ret → o.active = some y → y.event = c.event → (s.order y.order).body = some b →
        o'.active = some { y with ret := limited y.splice b } ∧ o'.waiting = o.waiting ∧ t.orders = s.orders ∧
          (FeedQuiet o → o'.fetch = o.fetch)) ∧
      (∀ w b, c.kind = .ret → (∀ y, o.active = some y → y.event ≠ c.event) → o.waiting = some w → w.event = c.event →
        (s.order w.order).body = some b →
        o'.waiting = some { w with ret := limited w.splice b } ∧ o'.active = o.active ∧ t.orders = s.orders ∧
          (FeedQuiet o → o'.fetch = o.fetch)) ∧
      ∀ w b, c.kind = .cancel → o.waiting = some w → w.event = c.event → (s.order w.order).body = some b →
        o'.waiting = none ∧ o'.active = o.active ∧ t.order w.order = { s.order w.order with state := .armed } ∧
          (∀ k, k ≠ w.order → t.order k = s.order k) ∧
          (∀ k, t.clip k = { s.clip k with
            locks := if k ∈ b.clips then (s.clip k).locks - 1 else (s.clip k).locks }) ∧
          (FeedQuiet o → SourceJudged t r (s.lane l) o (t.lane l) o')

/-- R74 to R76: the tap of lane `m` on a SOURCE lane of N slots. An ingest of the source raises its distance by 1, and at N - 8 or
more the tap slips: it is placed afresh at the least of lag + 1, the fill and N - 9 behind the source's expected slot, its
lane's queue is flushed, and the slip is counted and flagged. A source's loss of sync leaves it without a position, and its
resynchronisation places it with distance 0 at that slot with a flush and no slip. At the splice-in of a LIVE order the tap is
placed in the same way, or waits while its source is unsynchronised, and the queue begins empty. -/
def Obligations.TapsFollowTheirSource : Prop :=
  (∀ (a : Addr) (d : Line) (ff : Bool) (s : State) (l m : LaneId) (i : Nat) (r : LaneRecord) (o om : OnLane) (x : SlotData)
      (u : Tap), Completes s a d l i r o x → r.role = .source → m ≠ l → (s.lane m).on = some om →
    om.fetch.cursor = some (.tap u) → u.source = l →
    let next := (i + 1) % r.slots
    let behind := min (u.lag + 1) (min (min r.slots (o.track.fill + 1)) (r.slots - 9))
    ∃ t, exec (.ringWrite a d (BitVec.allOnes 64) ff) s = .next t ∧
      (u.pos = .waiting → t.lane m = s.lane m) ∧
      ∀ n b, u.pos = .placed n b → t.lane m =
        if r.slots - 8 ≤ b + 1 then
          { (s.lane m).note .slip .slip with
            queueGen := (s.lane m).queueGen + 1
            on := some { om with fetch := { om.fetch with
              queue := []
              cursor := some (.tap { u with pos := .placed ((next + r.slots - behind) % r.slots) behind, fresh := true }) } } }
        else
          { s.lane m with
            on := some { om with fetch := { om.fetch with cursor := some (.tap { u with pos := .placed n (b + 1) }) } } }) ∧
  (∀ (a : Addr) (d : Line) (e : Enables) (ff : Bool) (s : State) (l m : LaneId) (k line : Nat) (r : LaneRecord) (o om : OnLane)
      (u : Tap), InRing s a l k line r o → ¬ (o.track.ingest = .synchronised k line ∧ e = BitVec.allOnes 64) →
    r.role = .source → m ≠ l → (s.lane m).on = some om → om.fetch.cursor = some (.tap u) → u.source = l →
    let qualifies := line = 0 ∧ e = BitVec.allOnes 64 ∧ getByte d 4 = 0x47#8
    ∃ t, exec (.ringWrite a d e ff) s = .next t ∧ t.lane m =
      if qualifies then
        { s.lane m with
          queueGen := (s.lane m).queueGen + 1
          on := some { om with fetch := { om.fetch with
            queue := [], cursor := some (.tap { u with pos := .placed k 0, fresh := true }) } } }
      else if o.track.ingest ≠ .unsynchronised then
        { s.lane m with on := some { om with fetch := { om.fetch with cursor := some (.tap { u with pos := .waiting }) } } }
      else s.lane m) ∧
  ∀ (d : Line) (err : Bool) (s : State) (a : Addr) (l src : LaneId) (rest : List MemRead) (r rs : LaneRecord) (o os : OnLane)
    (dec : Decision) (decs : List Decision) (w : WaitingCue) (b : OrderBody) (mode : StampMode) (lag : Nat),
    Deciding s a l rest r o dec decs → r.role = .output → o.stack = [] → o.active = none → o.waiting = some w →
    (s.order w.order).body = some b → b.source = .live src mode lag → Reached (slotTime r o dec d err) w.splice →
    ¬ Reached (slotTime r o dec d err) w.ret → o.fetch.source ≠ some (.insertion w.order) → src ≠ l →
    (s.lane src).record = some rs → (s.lane src).on = some os →
    let behind := min (lag + 1) (min os.track.fill (rs.slots - 9))
    ∃ t o', exec (.slotContentPart d err) s = .next t ∧ (t.lane l).on = some o' ∧ o'.fetch.queue = [] ∧
      (t.lane l).queueGen = (s.lane l).queueGen + 1 ∧ o'.fetch.source = some (.insertion w.order) ∧
      o'.fetch.cursor = some (.tap
        { source := src, lag := lag, fresh := true
          pos := match os.track.ingest with
            | .synchronised i _ => .placed ((i + rs.slots - behind) % rs.slots) behind
            | .unsynchronised => .waiting })

/-- R11, R12: in sync, a write of another line or with a byte enable clear loses sync: lost sync is counted once and its flag
set. Whether or not sync was held, a whole write of a line 0 with a start marker then sets the cursor on its slot at line 1,
clears the history, returns the estimate to nominal and sets fill from the play cursor; any other write leaves the cursor
UNSYNCHRONISED, the fill and the lead as they stand, and, if sync was not held before, changes nothing at all. -/
def Obligations.UnexpectedWriteResynchronises : Prop :=
  ∀ (a : Addr) (d : Line) (e : Enables) (ff : Bool) (s : State) (l : LaneId) (k line : Nat) (r : LaneRecord) (o : OnLane),
    InRing s a l k line r o →
    let synced := o.track.ingest ≠ .unsynchronised
    let qualifies := line = 0 ∧ e = BitVec.allOnes 64 ∧ getByte d 4 = 0x47#8
    ¬ (o.track.ingest = .synchronised k line ∧ e = BitVec.allOnes 64) →
    ∃ t, exec (.ringWrite a d e ff) s = .next t ∧
      (t.lane l).counts = (if synced then ((s.lane l).raise .lostSync).counts else (s.lane l).counts) ∧
      (t.lane l).flags = (if synced then ((s.lane l).setFlag .lostSync).flags else (s.lane l).flags) ∧
      t.tracker l = some (if qualifies then
          { o.track with
            ingest := .synchronised k 1
            assembly := setSlotLine o.track.assembly 0 d
            history := []
            estimate := r.nominal
            fill := match o.track.play with
              | some p => (k + r.slots - p) % r.slots
              | none => 0
            lead := 0 }
        else { o.track with ingest := .unsynchronised }) ∧
      (∀ m, m ≠ l → t.tracker m = s.tracker m) ∧ SamePorts s t ∧ SameEngine s t ∧
      (¬ synced → ¬ qualifies → t = { s with upOrder := s.upOrder ++ [.write a d e none] })

/-- R62: a write with any byte enable set into a watch window sets the disturbed flag of every locked clip whose area holds the
line and of no other clip, and does nothing else beyond being forwarded; with no enable set it is only forwarded. -/
def Obligations.WatchedWriteDisturbsClips : Prop :=
  ∀ (a : Addr) (d : Line) (e : Enables) (s : State), classify s (lineAddr a) = .watched →
    ∃ t, exec (.watchWindowWrite a d e) s = .next t ∧
      t = { s with clips := t.clips, upOrder := s.upOrder ++ [.write a d e none] } ∧
      ∀ c, t.clip c =
        if e ≠ 0 ∧ 0 < (s.clip c).locks ∧
            ∃ b, (s.clip c).body = some b ∧ b.address ≤ lineAddr a ∧ lineAddr a < b.address + 192 * b.length
        then { s.clip c with disturbed := true } else s.clip c

/-- R158, R159: a write that enables byte 0 of the go word of slot `k` makes an IDLE or DONE slot PENDING with the kind of go
word byte 0 and the tag of bytes 2 and 3, a byte not enabled read as 0, result and detail 0 and the doubled flag clear, and
puts it at the tail of the queue; on a PENDING or WORKING slot it sets the doubled flag and nothing else. -/
def Obligations.GoWritePostsOrDoubles : Prop :=
  ∀ (a : Addr) (d : Line) (e : Enables) (s : State) (k : PostSlotId),
    classify s (lineAddr a) = .window (256 * k.val + 0xC0) → e.getLsbD 56 = true →
    exec (.goWrite a d e) s =
      .next (if (s.slot k).state = .idle ∨ (s.slot k).state = .done then
        { s with
          slots := s.slots.set k
            { state := .pending
              kind := getByte d 56
              tag := BitVec.ofNat 16
                ((if e.getLsbD 58 then (getByte d 58).toNat else 0) +
                  256 * (if e.getLsbD 59 then (getByte d 59).toNat else 0))
              result := .ok
              detail := 0
              doubled := false }
          queue := s.queue ++ [k]
          upOrder := s.upOrder ++ [.write a d e (some k)] }
      else
        { s with
          slots := s.slots.set k { s.slot k with doubled := true }
          upOrder := s.upOrder ++ [.write a d e none] })

/-- R178: a write of the read-index line. With all four index bytes enabled and the ring SET, a V below size and no further
than W is accepted: H becomes V, a released urgent position becomes none, the timer stops when nothing is left unread, and
the causes are judged; any other V, any V while UNSET, and a write that enables some but not all of the four bytes set the
bad-index flag; a write that enables none of them is only forwarded. -/
def Obligations.ReadIndexWriteMovesH : Prop :=
  ∀ (a : Addr) (d : Line) (e : Enables) (s : State), classify s (lineAddr a) = .window 0x1040 →
    ∃ t, exec (.readIndexWrite a d e) s = .next t ∧
      t = { s with report := t.report, upOrder := s.upOrder ++ [.write a d e none] } ∧
      let all := e.getLsbD 0 ∧ e.getLsbD 1 ∧ e.getLsbD 2 ∧ e.getLsbD 3
      let any := e.getLsbD 0 ∨ e.getLsbD 1 ∨ e.getLsbD 2 ∨ e.getLsbD 3
      let v := (d.extractLsb' 0 32).toNat
      (¬ any → t.report = s.report) ∧
      (any → ¬ all → t.report = { s.report with badIndex := true }) ∧
      (all → s.report.setup = none → t.report = { s.report with badIndex := true }) ∧
      ∀ g, all → s.report.setup = some g →
        (¬ (v < g.size ∧ ringDiff v s.report.h g.size ≤ s.report.unread) →
          t.report = { s.report with badIndex := true }) ∧
        (v < g.size ∧ ringDiff v s.report.h g.size ≤ s.report.unread →
          t.report.h = v ∧
          t.report.urgentPos = (match s.report.urgentPos with
            | some u => if ringDiff u s.report.h g.size < ringDiff v s.report.h g.size then none else some u
            | none => none) ∧
          t.report.timer = (if t.report.unread = 0 then .stopped else s.report.timer) ∧
          t.report.attention = t.report.anyCause ∧
          t.report = { s.report with
            h := v, urgentPos := t.report.urgentPos, timer := t.report.timer, attention := t.report.attention })

/-! ## Upstream reads and the two ports -/

/-- R6, R14, R15, R18: every upstream read, under each of its four names, completes and joins the tail of the upstream order.
A line of the last decided slot of an ON OUTPUT lane is served from its prepared copy and changes nothing else; line 1 or 2 of
another slot is a stray read, counted and flagged and served as the memory returns it; a read of a window line that holds
overlay bytes is overlaid; every other read outside the rings of ON OUTPUT lanes is served as the memory returns it and
changes nothing else. (That the four names have one handling, by the address alone, is the model's: log entry 3.) -/
def Obligations.UpstreamReadsWithoutDecision : Prop :=
  ∀ (a : Addr) (s : State) (c : Instr),
    c ∈ [Instr.slotClaim a, .slotLineRead a, .controlWindowRead a, .upstreamRead a] →
    (∃ t sv, exec c s = .next t ∧ t.upOrder = s.upOrder ++ [.read a sv] ∧ SamePorts s t ∧ SameEngine s t) ∧
    (∀ l i line r o, InRing s a l i line r o → r.role = .output → o.track.lastDecided = some i →
      exec c s = .next { s with upOrder := s.upOrder ++ [.read a (.copied l line)] }) ∧
    (∀ l i line r o, InRing s a l i line r o → r.role = .output → o.track.lastDecided ≠ some i → line ≠ 0 →
      exec c s = .next { s with
        lanes := s.lanes.set l ((s.lane l).note .strayRead .strayRead)
        upOrder := s.upOrder ++ [.read a .plain] }) ∧
    (∀ off, classify s (lineAddr a) = .window off →
      exec c s = .next { s with
        upOrder := s.upOrder ++ [.read a (if (overlayBytes off).isSome then .overlay off else .plain)] }) ∧
    ((classify s (lineAddr a) = .offRing ∨ classify s (lineAddr a) = .watched ∨ classify s (lineAddr a) = .other ∨
        classify s (lineAddr a) = .unclassified ∨ ∃ l i line r o, InRing s a l i line r o ∧ r.role = .source) →
      exec c s = .next { s with upOrder := s.upOrder ++ [.read a .plain] })

/-- R13: a line-0 read of a slot that is not the last decided one takes the cursor part. The expected slot keeps fill and lead;
any other slot sets fill to its distance from the ingest cursor, or 0 out of sync, and the lead to 0, and is counted and
flagged as a jump where the play cursor was synchronised. A fill above 0 makes the slot fresh and falls by 1, a fill of 0
makes it starved and raises the lead, which holds at N. -/
def Obligations.SlotClaimTakesTheCursorPart : Prop :=
  ∀ (a : Addr) (s : State) (l : LaneId) (i : Nat) (r : LaneRecord) (o : OnLane),
    InRing s a l i 0 r o → r.role = .output → o.track.lastDecided ≠ some i →
    let inTurn := o.track.play = some i
    let fill := if inTurn then o.track.fill else
      match o.track.ingest with
      | .synchronised n _ => (n + r.slots - i) % r.slots
      | .unsynchronised => 0
    let lead := if inTurn then o.track.lead else 0
    let ln := if o.track.play.isSome ∧ ¬ inTurn then (s.lane l).note .jump .jump else s.lane l
    exec (.slotClaim a) s = .next { s with
      upOrder := s.upOrder ++ [.read a (.claim l)]
      lanes := s.lanes.set l { ln with
        on := some { o with track := { o.track with
          fill := fill - 1
          lead := if fill = 0 then min r.slots (lead + 1) else lead
          play := some ((i + 1) % r.slots)
          lastDecided := some i
          awaiting := o.track.awaiting ++ [{ slot := i, fresh := decide (0 < fill) }] } } } }

/-- R6, R7, R161, R175: with the pin released, the head of the upstream order is granted while the run count is below 4 or
nothing of the part's waits, and the run count rises, holding at 4; a part transaction is granted when nothing else waits or
the run count is 4, and the run count becomes 0. An upstream write leaves on the memory port as it was presented, an upstream
read with its line address. Part transactions are chosen posting reads first, then the report write, then the prefetch read: a
record line of the WORKING slot at its place in the control window, from line 0 up, the report writer's line write, and a line
of the waiting fetch's slot, from line 0 up, the fetch waiting no more after its line 2. Nothing waiting, the grant is not due
and changes nothing, the model's choice (log entry 11). No step takes the run count above 4. -/
def Obligations.ArbiterGrantsByClass : Prop :=
  (∀ s t : State, RunInv s → step s = .next t → RunInv t) ∧
  ∀ (straps : BitVec 8) (s : State), s.pin = .released straps → s.runCount ≤ 4 →
    (∀ rest, waitingPart s = none ∨ s.runCount < 4 →
      (∀ a d e go, s.upOrder = .write a d e go :: rest → exec .arbiterGrant s = .next { s with
        upOrder := rest, upWrites := s.upWrites + 1, memPort := some (.write a d e), runCount := min 4 (s.runCount + 1) }) ∧
      ∀ a sv, s.upOrder = .read a sv :: rest → exec .arbiterGrant s = .next { s with
        upOrder := rest, memReads := s.memReads ++ [.up a sv], memPort := some (.read a)
        runCount := min 4 (s.runCount + 1) }) ∧
    (s.upOrder = [] ∨ s.runCount = 4 →
      (∀ w, waitingPart s = some (.posting w) → exec .arbiterGrant s = .next { s with
        working := some { w with granted := w.granted + 1 }, memReads := s.memReads ++ [.posting w.granted false]
        memPort := some (.read (BitVec.ofNat 36 (straps.toNat * 268435456 + 256 * w.slot.val + 64 * w.granted)))
        runCount := 0 }) ∧
      (∀ x, waitingPart s = some (.report x) → exec .arbiterGrant s = .next { s with
        report := { s.report with flight := some { x with granted := true } }
        memPort := some (.write x.addr x.data x.enables), runCount := 0 }) ∧
      ∀ f j, waitingPart s = some (.fetch f j) → exec .arbiterGrant s = .next { s with
        fetchWait := if j < 2 then some (f, j + 1) else none
        memReads := s.memReads ++ [.fetch f (decide (2 ≤ j))]
        memPort := some (.read (BitVec.ofNat 36 (f.addr + 64 * j))), runCount := 0 }) ∧
    (s.upOrder = [] → waitingPart s = none → exec .arbiterGrant s = .next s) ∧
    (∀ w, s.working = some w → w.granted < 4 → (∀ a d e, .write a d e (some w.slot) ∉ s.upOrder) →
      waitingPart s = some (.posting w)) ∧
    ((∀ w, s.working = some w → ¬ w.granted < 4 ∨ ∃ a d e, .write a d e (some w.slot) ∈ s.upOrder) →
      (∀ x, s.report.flight = some x → x.granted = false → waitingPart s = some (.report x)) ∧
      ((∀ x, s.report.flight = some x → x.granted = true) →
        waitingPart s = s.fetchWait.map fun w => .fetch w.1 w.2))

/-- R8, R14 to R16, R151: the completion of a forwarded write is taken and goes no further, with or without its error indication,
and changes nothing else. The data of a read served as the memory returns it leaves the upstream port unchanged; a read of
line `j` served from its lane's prepared copy sends that line of the copy where it is replaced, and the memory data where it
passes or the lane holds no copy. Either way the error indication of the read itself goes with the line and nothing else
changes, whichever of the three returns presents the data (one handling for three names: log entry 3). -/
def Obligations.PortsPassDataAndErrors : Prop :=
  (∀ (err : Bool) (s : State) (n : Nat), s.upWrites = n + 1 →
    exec (.writeCompletion err) s = .next { s with upWrites := n }) ∧
  ∀ (d : Line) (err : Bool) (s : State) (a : Addr) (rest : List MemRead) (c : Instr),
    c ∈ [Instr.upstreamReadReturn d err, .overlayReadReturn d err, .slotContentPart d err] →
    (nextDue s.memReads = some (.up a .plain, rest) →
      exec c s = .next { s with memReads := rest, upPort := some { addr := a, data := d, err := err } }) ∧
    ∀ l j, nextDue s.memReads = some (.up a (.copied l j), rest) →
      let copy := (s.lane l).on.bind fun o => o.track.copy
      let sent := copy.bind fun k => match j with
        | 0 => k.line0
        | 1 => k.line1
        | _ => k.line2
      (∀ y, sent = some y →
        exec c s = .next { s with memReads := rest, upPort := some { addr := a, data := y, err := err } }) ∧
      (sent = none →
        exec c s = .next { s with memReads := rest, upPort := some { addr := a, data := d, err := err } })

/-- R157, R164, R169 to R171, R179, Tables 12-5 to 12-7 and the entries of section 12.3: the return of an overlaid read
changes nothing but the port. Bytes outside the overlay keep the memory data and the error indication passes. The line of a go
word shows the slot's kind, state and doubled flag, tag, result, detail and place in the queue; the read-index line H, W and
the unread count while SET and zeros while UNSET; the summary line and the alert entries the part's clock, queues, lane marks,
ring and alerts; a lane's summary and detail entries its tracker, clock, feed, alerts, newest cue, flags, counters, waiting
cue, active insertion, outage record and map entries; an order's and a clip's entries their fields. Each field is the live
value, as far as its bytes hold it, and an absent one reads 0: of an OFF lane, of an unconfigured one but for counters and
flags, and of an EMPTY order, clip or alert. (An abandoned record write shows as in flight: the model's choice, log entry 37.
The none marks of an OFF lane are a deduction: log entry 29. An insertion count of 2^32 or more is left open: log entry 7.)
(DISTURBED of a running insertion shows as its record holds it, clear until that is produced: a deduction, log entry 33.) -/
def Obligations.OverlayShowsLiveValues : Prop :=
  ∀ (d : Line) (err : Bool) (s : State) (a : Addr) (off : Nat) (rest : List MemRead),
    nextDue s.memReads = some (.up a (.overlay off), rest) →
    ∃ x, exec (.overlayReadReturn d err) s =
        .next { s with memReads := rest, upPort := some { addr := a, data := x, err := err } } ∧
      (∀ k n, overlayBytes off = some (k, n) → ∀ j, j < 64 → ¬ (k ≤ j ∧ j < k + n) → getByte x j = getByte d j) ∧
      (∀ k : PostSlotId, off = 256 * k.val + 0xC0 → Shows x 56
        [(0, 1, (s.slot k).kind.toNat), (1, 1, (s.slot k).state.code + 128 * (s.slot k).doubled.toNat),
         (2, 2, (s.slot k).tag.toNat), (4, 1, (s.slot k).result.code), (5, 1, (s.slot k).detail),
         (6, 1, if (s.slot k).state = .pending then s.queue.idxOf k else 0), (7, 1, 0)]) ∧
      (off = 0x1040 → s.report.setup = none → Shows x 0 [(0, 8, 0)]) ∧
      (off = 0x1040 → s.report.setup.isSome = true →
        Shows x 0 [(0, 2, s.report.h), (2, 2, s.report.w), (4, 2, s.report.unread), (6, 1, 1), (7, 1, 0)]) ∧
      (off = 0x1000 →
        (∀ straps, s.pin = .released straps → Shows x 0 [(0, 1, straps.toNat)]) ∧
        (∀ l : LaneId, s.forceList.length ≤ 4 → s.queue.length ≤ 16 →
          (getByte x (34 + l.val / 8)).getLsbD (l.val % 8) = (s.lane l).on.isSome ∧
            (getByte x (42 + l.val / 8)).getLsbD (l.val % 8) = ((s.lane l).flags != 0)) ∧
        (∀ j (h : j < s.forceList.length), j < 4 → Shows x 14 [(j, 1, s.forceList[j].val)]) ∧
        (∀ j (h : j < s.queue.length), j < 16 → s.forceList.length ≤ 4 → Shows x 18 [(j, 1, s.queue[j].val)]) ∧
        (s.forceList.length ≤ 4 → s.queue.length ≤ 16 → Shows x 0
          [(1, 1, (s.working.map fun w => w.slot.val).getD 0xFF), (2, 6, s.stationTime.toNat), (8, 4, s.stationMs.toNat),
           (12, 1, s.queue.length), (13, 1, s.forceList.length),
           (50, 1, s.report.setup.isSome.toNat + 2 * s.report.flight.isSome.toNat + 4 * (match s.report.timer with
              | .stopped => 0
              | .running _ => 1
              | .expired => 2) + 16 * s.report.badIndex.toNat),
           (51, 1, s.report.thresholdCause.toNat + 2 * s.report.coalesceCause.toNat + 4 * s.report.urgentCause.toNat +
              128 * s.report.attention.toNat),
           (52, 2, s.report.w), (54, 2, s.report.h), (56, 2, s.report.unread), (58, 2, s.report.gap),
           (60, 1, s.report.queue.length)])) ∧
      (∀ (al : AlertId) (b : AlertBody), off = 0x1080 + 64 * (al.val / 2) → (s.alert al).body = some b →
        Shows x (32 * (al.val % 2))
          [(0, 1, (s.alert al).inForce.toNat + (if b.mode = .override then 0 else 2) + 4 * (s.alert al).fetchFault.toNat +
              16 * (match (s.alert al).lastCause with
                | none => 0
                | some .ended => 1
                | some .expired => 2)),
           (1, 1, (s.alert al).laneCount), (2, 2, b.zones.toNat), (4, 2, b.clip.val), (12, 4, b.duration),
           (16, 4, (s.alert al).start.toNat), (20, 4, (s.alert al).served.toNat), (24, 4, (s.alert al).underrun.toNat)] ∧
        ∀ lb n, b.mode = .interject lb n → Shows x (32 * (al.val % 2)) [(6, 2, lb.toNat), (8, 1, n)]) ∧
      (∀ al : AlertId, off = 0x1080 + 64 * (al.val / 2) → (s.alert al).body = none →
        Shows x (32 * (al.val % 2)) [(0, 32, 0)]) ∧
      (∀ (l : LaneId) (r : LaneRecord), off = 0x2000 + 64 * l.val → (s.lane l).record = some r → (s.lane l).on = none →
        Shows x 0 [(0, 1, 2 + (if r.role = .source then 4 else 0) + 16 * r.zone.val), (1, 32, 0), (33, 1, 0xFF), (34, 10, 0),
          (44, 4, (s.lane l).flags.toNat), (48, 16, 0)]) ∧
      (∀ l : LaneId, off = 0x2000 + 64 * l.val → (s.lane l).record = none →
        Shows x 0 [(0, 44, 0), (44, 4, (s.lane l).flags.toNat), (48, 16, 0)]) ∧
      (∀ (l : LaneId) (r : LaneRecord) (o : OnLane), off = 0x2000 + 64 * l.val → (s.lane l).record = some r →
        (s.lane l).on = some o → o.stack.length ≤ 4 → Shows x 0
          [(0, 1, 3 + (if r.role = .source then 4 else 0) + 16 * r.zone.val),
           (1, 1, (match o.track.ingest with
              | .synchronised _ e => 1 + 2 * e
              | .unsynchronised => 0) + 16 * o.track.play.isSome.toNat),
           (2, 2, match o.track.ingest with
              | .synchronised i _ => i
              | .unsynchronised => 0),
           (4, 2, o.track.play.getD 0), (6, 2, o.track.lastDecided.getD 0), (8, 4, o.track.fill), (12, 4, o.track.lead),
           (16, 4, o.track.estimate),
           (20, 1, match o.clock with
              | .unset => 0
              | .valid _ _ => 1
              | .stale _ _ => 2),
           (21, 1, (match o.feed.state with
              | .live => 1
              | .lost => 2
              | .recovering => 3) + 128 * o.feed.captureSeen.toNat),
           (22, 1, o.feed.good),
           (23, 1, (if o.active.isSome = true then 2 else if o.waiting.isSome = true then 1 else 0) +
              128 * ((o.active.map ActiveInsertion.suspended).getD false).toNat),
           (24, 4, match o.clock with
              | .unset => 0
              | .valid _ u => u.toNat
              | .stale _ u => u.toNat),
           (28, 1, o.stack.length),
           (33, 1, match effectiveEntry s o.stack with
              | some e => (o.stack.map StackEntry.id).idxOf e.id
              | none => 0xFF),
           (36, 1, (match o.sel.served with
              | none => 0
              | some .alert => 1
              | some .insertion => 2
              | some .loss => 3
              | some .network => 4
              | some .filler => 5) + 128 * o.sel.away.toNat),
           (37, 1, (o.cues.getLast?.map fun e => e.kind.code).getD 0),
           (38, 1, ((o.cues.getLast?.bind RecentCue.outcome).map CueRefusal.code).getD 0),
           (39, 1, 0), (40, 4, (o.cues.getLast?.map fun e => e.event.toNat).getD 0), (44, 4, (s.lane l).flags.toNat),
           (48, 16, 0)] ∧
        (∀ j (h : j < o.stack.length), Shows x 29 [(j, 1, o.stack[j].id.val)]) ∧
        ∀ e, effectiveEntry s o.stack = some e → isOverride s e.id = false →
          Shows x 34 [(0, 1, e.due.toNat), (1, 1, e.wait)]) ∧
      (∀ (l : LaneId) (c : Counter), off = 0x8000 + 256 * l.val + 64 * (c.place.val / 16) →
        Shows x (4 * (c.place.val % 16)) [(0, 4, ((s.lane l).count c).toNat)]) ∧
      (∀ (l : LaneId) (r : LaneRecord) (o : OnLane), (s.lane l).record = some r → (s.lane l).on = some o →
        (∀ w, off = 0x8000 + 256 * l.val + 64 → o.waiting = some w → Shows x 20
          [(0, 1, w.kind.code), (1, 1, w.order.val), (4, 4, w.event.toNat), (8, 5, w.splice.toNat), (13, 5, w.ret.toNat)]) ∧
        (∀ y, off = 0x8000 + 256 * l.val + 64 → o.active = some y → Shows x 40
          [(0, 1, y.kind.code), (1, 1, y.order.val), (2, 1, y.flags.byte.toNat),
           (3, 1, match y.cursor with
              | none => 0xFF
              | some (.playlist k _) => k
              | some (.pad _) => 6
              | some .exhausted => 7),
           (4, 4, y.event.toNat), (8, 5, y.splice.toNat), (13, 5, y.ret.toNat), (18, 5, y.timeIn.toNat)]) ∧
        (∀ y, off = 0x8000 + 256 * l.val + 128 → o.active = some y →
          Shows x 0 [(0, 4, match y.cursor with
              | some (.playlist _ k) => k
              | some (.pad k) => k
              | _ => 0)] ∧
          (y.served < 2 ^ 32 → Shows x 4 [(0, 4, y.served)]) ∧ (y.shadow < 2 ^ 32 → Shows x 8 [(0, 4, y.shadow)]) ∧
          (y.underrun < 2 ^ 32 → Shows x 12 [(0, 4, y.underrun)])) ∧
        (∀ y, off = 0x8000 + 256 * l.val + 128 → o.feed.outage = some y → Shows x 16
          [(0, 1, 1), (4, 5, y.start.toNat), (12, 4, y.served.toNat), (16, 4, y.underrun.toNat)]) ∧
        (off = 0x8000 + 256 * l.val + 64 → o.waiting = none → Shows x 20 [(0, 18, 0)]) ∧
        (off = 0x8000 + 256 * l.val + 64 → o.active = none → Shows x 40 [(0, 24, 0)]) ∧
        (off = 0x8000 + 256 * l.val + 128 → o.active = none → Shows x 0 [(0, 16, 0)]) ∧
        (off = 0x8000 + 256 * l.val + 128 → o.feed.outage = none → Shows x 16 [(0, 24, 0)]) ∧
        ∀ i c, off = 0x8000 + 256 * l.val + 128 → i < 8 → i < r.labelMap.length → o.sel.continuity[i]? = some c →
          Shows x (40 + 3 * i) [(0, 1, match c.last with
            | some n => n.toNat
            | none => 16), (1, 1, c.delta.toNat), (2, 1, c.pending.toNat)]) ∧
      (∀ l : LaneId, (s.lane l).on = none ∨ (s.lane l).record = none →
        (off = 0x8000 + 256 * l.val + 64 → Shows x 20 [(0, 44, 0)]) ∧
        (off = 0x8000 + 256 * l.val + 128 → Shows x 0 [(0, 40, 0)]) ∧
        (off = 0x8000 + 256 * l.val + 128 → (s.lane l).record = none → Shows x 40 [(0, 24, 0)]) ∧
        ∀ r i, off = 0x8000 + 256 * l.val + 128 → (s.lane l).record = some r → i < 8 →
          Shows x (40 + 3 * i) [(0, 1, if i < r.labelMap.length then 16 else 0), (1, 1, 0), (2, 1, 0)]) ∧
      (∀ l : LaneId, off = 0x8000 + 256 * l.val + 192 → (∀ r, (s.lane l).record = some r → r.labelMap.length ≤ 8) →
        Shows x 0 [(0, 64, 0)]) ∧
      (∀ (k : OrderId) (b : OrderBody), off = 0x3000 + 64 * (k.val / 4) → (s.order k).body = some b →
        Shows x (16 * (k.val % 4))
          [(0, 1, match (s.order k).state with
              | .empty => 0
              | .armed => 1
              | .bound => 2
              | .active => 3
              | .spent => 4),
           (1, 1, b.lane.val),
           (2, 1, (match b.source with
              | .live _ _ _ => 1
              | .clips _ _ => 0) + 2 * (s.order k).unlimited.toNat + 4 * (s.order k).abort.toNat),
           (3, 1, (s.order k).remaining)] ∧
        ∀ o, (s.lane b.lane).on = some o →
          (∀ w, (s.order k).state = .bound → o.waiting = some w → Shows x (16 * (k.val % 4)) [(4, 4, w.event.toNat)]) ∧
          ∀ y, (s.order k).state = .active → o.active = some y → Shows x (16 * (k.val % 4)) [(4, 4, y.event.toNat)]) ∧
      (∀ k : OrderId, off = 0x3000 + 64 * (k.val / 4) → (s.order k).body = none →
        Shows x (16 * (k.val % 4)) [(0, 16, 0)]) ∧
      ∀ c : ClipId,
        (off = 0x4000 + 64 * (c.val / 8) → Shows x (8 * (c.val % 8))
          [(0, 1, (s.clip c).body.isSome.toNat + 2 * (s.clip c).disturbed.toNat + 4 * (s.clip c).readFault.toNat),
           (2, 2, (s.clip c).locks), (4, 3, ((s.clip c).body.map fun b => b.length - 1).getD 0), (7, 1, 0)]) ∧
        (off = 0x5000 + 64 * (c.val / 16) →
          Shows x (4 * (c.val % 16)) [(0, 4, ((s.clip c).body.map fun b => b.address / 64).getD 0)])

/-- R16, R17, R46: the content part of the lane's oldest decision. The decided stamp is the stamp in the returned line 0 for a
fresh slot read without error, else the previous decided stamp plus the slot interval estimate, else none; it becomes the
previous decided stamp and refreshes the anchor; a line read with error is counted and flagged as a slot read fault; the
decision leaves the list; a new prepared copy is made and line 0 leaves from it with the error indication; no other part of
any tracker, no posting and no other read changes. -/
def Obligations.ContentPartFixesTheStamp : Prop :=
  ∀ (d : Line) (err : Bool) (s : State) (a : Addr) (l : LaneId) (rest : List MemRead) (r : LaneRecord) (o : OnLane)
    (dec : Decision) (decs : List Decision), Deciding s a l rest r o dec decs →
    let stamp := if dec.fresh ∧ err = false then some (d.extractLsb' 0 32)
      else o.track.prevStamp.map fun p => p + BitVec.ofNat 32 o.track.estimate
    ∃ t copy, exec (.slotContentPart d err) s = .next t ∧
      t.tracker l = some { o.track with
        awaiting := decs, prevStamp := (if stamp.isSome then stamp else o.track.prevStamp), copy := some copy } ∧
      (t.lane l).on.map OnLane.clock = some (o.clock.refresh stamp) ∧
      (t.lane l).count .readFault =
        (if err then ((s.lane l).raise .readFault).count .readFault else (s.lane l).count .readFault) ∧
      (t.lane l).flag .readFault = ((s.lane l).flag .readFault || err) ∧
      (∀ m, m ≠ l → t.tracker m = s.tracker m) ∧
      t.upPort = some { addr := a, data := copy.line0.getD d, err := err } ∧ t.memReads = rest ∧
      t.upOrder = s.upOrder ∧ t.upWrites = s.upWrites ∧ t.runCount = s.runCount ∧ t.memPort = s.memPort ∧
      SameEngine s t

/-- R138, R139, R141, R147 to R149, R151: a slot of an ON OUTPUT lane that stands under no alert and holds no insertion and no
waiting cue, its feed LIVE. A starved slot, and a slot read with error, goes out as the generated filler packet and touches no
continuity. A fresh slot goes out on its network label: on a lane that is away the away mark is cleared first and every entry
with a last count is marked pending. A packet with a start marker on the label of a map entry then goes out with lines 1 and 2
passed and its line 0 replaced, nothing of it changed but the count, which with the entry after it is that of Table 8-3; any
other packet goes out as the memory returned it, all three lines passed, and no entry changes. (The last count of a pending
entry that has none is left open: log entry 9.) -/
def Obligations.NetworkOrFillerIsServed : Prop :=
  ∀ (d : Line) (err : Bool) (s : State) (a : Addr) (l : LaneId) (rest : List MemRead) (r : LaneRecord) (o : OnLane)
    (dec : Decision) (decs : List Decision),
    Deciding s a l rest r o dec decs → o.stack = [] → o.active = none → o.waiting = none → o.feed.state = .live →
    let p := line0Packet d
    let marked : Continuity → Continuity := fun c =>
      if o.sel.away = true ∧ c.last.isSome = true then { c with pending := true } else c
    ∃ t o' x, exec (.slotContentPart d err) s = .next t ∧ (t.lane l).on = some o' ∧
      t.upPort = some { addr := a, data := x, err := err } ∧ (∀ j, j < 4 → getByte x j = getByte d j) ∧
      (dec.fresh = false ∨ err = true → FillerOut t l a d err ∧ o'.sel.served = some .filler ∧
        o'.sel.away = o.sel.away ∧ o'.sel.continuity = o.sel.continuity) ∧
      (dec.fresh = true → err = false → o'.sel.served = some .network ∧ o'.sel.away = false ∧
        (getByte d 4 ≠ 0x47#8 ∨ (∀ en, en ∈ r.labelMap → en.label ≠ packetLabel p) →
          x = d ∧ o'.track.copy = some { line0 := none, line1 := none, line2 := none } ∧
          o'.sel.continuity = o.sel.continuity.map marked) ∧
        ∀ n en c0, getByte d 4 = 0x47#8 → r.labelMap[n]? = some en → en.label = packetLabel p →
          (∀ m y, m < n → r.labelMap[m]? = some y → y.label ≠ packetLabel p) → o.sel.continuity[n]? = some c0 →
          let c := marked c0
          let last := c.last.getD (Config.openLastCount d n)
          let input := packetCount p
          let after : BitVec 4 × Continuity := match bearsPayload p, c.pending, c.last with
            | true, true, _ => (last + 1, { last := some (last + 1), delta := last + 1 - input, pending := false })
            | true, false, some _ => (input + c.delta, { c with last := some (input + c.delta) })
            | true, false, none => (input, { c with last := some input })
            | false, true, _ => (last, c)
            | false, false, _ => (input + c.delta, c)
          packetCount (line0Packet x) = after.1 ∧ (getByte x 7).extractLsb' 4 4 = (getByte d 7).extractLsb' 4 4 ∧
          (∀ j, j < 64 → j ≠ 7 → getByte x j = getByte d j) ∧
          o'.track.copy = some { line0 := some x, line1 := none, line2 := none } ∧
          o'.sel.continuity = (o.sel.continuity.map marked).set n after.2)

/-- R47, R63 to R65, R83, R84, R87: a decision of presentation time at or after T, and before R, of the waiting cue of a lane
with no active insertion and no alert: the cue becomes the active insertion with its order, event, kind, T and R, its time in
the slot's presentation time, not suspended, and this slot its first, served or underrun; FEED_LOST_DURING and CLOCK_STALE as
the feed and the model stand; the order becomes ACTIVE with one use fewer unless unlimited; the lane's fetch source is judged
by Table 4-3, the source of a primed break standing and any other giving way with a flush; no record is produced and no other
lane or order changes. -/
def Obligations.SpliceInStartsTheInsertion : Prop :=
  ∀ (d : Line) (err : Bool) (s : State) (a : Addr) (l : LaneId) (rest : List MemRead) (r : LaneRecord) (o : OnLane)
    (dec : Decision) (decs : List Decision) (w : WaitingCue) (b : OrderBody) (p : Stamp),
    Deciding s a l rest r o dec decs → o.stack = [] → o.active = none → o.waiting = some w →
    (s.order w.order).body = some b → (∀ pad, b.source ≠ .clips [] pad) → slotTime r o dec d err = some p →
    atOrAfter p w.splice = true → atOrAfter p w.ret = false →
    ∃ t x, exec (.slotContentPart d err) s = .next t ∧ (t.lane l).on.bind OnLane.active = some x ∧
      (t.lane l).on.bind OnLane.waiting = none ∧ x.order = w.order ∧ x.event = w.event ∧ x.kind = w.kind ∧
      x.splice = w.splice ∧ x.ret = w.ret ∧ x.timeIn = p ∧ x.suspended = false ∧ x.shadow = 0 ∧
      x.served + x.underrun = 1 ∧ x.flags.interrupted = false ∧
      x.flags.feedLostDuring = decide (o.feed.state ≠ .live) ∧ x.flags.clockStale = o.clock.isStale ∧
      t.order w.order = { s.order w.order with
        state := .active
        remaining := if (s.order w.order).unlimited then (s.order w.order).remaining
          else (s.order w.order).remaining - 1 } ∧
      (∀ j, j ≠ w.order → t.order j = s.order j) ∧ t.report = s.report ∧ (∀ m, m ≠ l → t.lane m = s.lane m) ∧
      ∃ o', (t.lane l).on = some o' ∧ SourceJudgedOnce t r (s.lane l) o (t.lane l) o'

/-- R52 to R56, R71, R72, R87, R88, R138, R142 to R144, R147: a decision of a lane with an active insertion that neither ends
nor is suspended, no waiting cue, no alert, and a packet in its queue: the head leaves the queue, the served count rises by 1,
FETCH_FAULT takes in its fault and CLOCK_STALE a STALE model or a slot without a time. The cursor of a CLIPS order moves past
it; at packet 0 of a clip its D is worked from this slot and the clip is entered. At a run start of a LIVE order D is worked
in REBASE mode from both presentation times, and none without both or in PASS mode. A mapped packet goes out on the label of
its entry with that entry's next count, its stamps moved by D and its clock reference restamped with this slot's clock
estimate, for a LIVE order where the run has a D; any other, a faulted one among them, goes out as the generated filler. No
order, no record and no other lane changes. (The model's choices: that a packet on 1FFFh without a marker or with a bad header
counts as unmapped, where R143 gives both outcomes, log entry 25; that an errored packet keeps its clock reference, log entry
26; which errored packets have a bad header, log entry 38; that a faulted run start gives D, log entry 40.) -/
def Obligations.InsertionServesTheQueue : Prop :=
  ∀ (d : Line) (err : Bool) (s : State) (a : Addr) (l : LaneId) (rest : List MemRead) (r : LaneRecord) (o : OnLane)
    (dec : Decision) (decs : List Decision) (x : ActiveInsertion) (e : QueueEntry) (es : List QueueEntry),
    Deciding s a l rest r o dec decs → o.stack = [] → o.active = some x → o.waiting = none → x.suspended = false →
    x.cursor ≠ some .exhausted → (s.order x.order).abort = false → ¬ Reached (slotTime r o dec d err) x.ret →
    o.fetch.queue = e :: es →
    let p := slotTime r o dec d err
    let estimate := slotClock o dec d err
    ∃ t y, exec (.slotContentPart d err) s = .next t ∧ (t.lane l).on.bind OnLane.active = some y ∧
      y.served = x.served + 1 ∧ y.shadow = x.shadow ∧ y.underrun = x.underrun ∧ y.order = x.order ∧ y.ret = x.ret ∧
      y.flags.fetchFault = (x.flags.fetchFault || e.fault) ∧
      y.flags.clockStale = (x.flags.clockStale || o.clock.isStale || p.isNone) ∧
      (∀ b pos, (s.order x.order).body = some b → x.cursor = some pos → (cursorClip b pos).isSome = true →
        y.cursor = some (stepCursor s b pos)) ∧
      (∀ b pos c k cb, (s.order x.order).body = some b → x.cursor = some pos → cursorClip b pos = some (c, k) →
        (s.clip c).body = some cb → y.offset = (if k = 0 then p.map fun u => u - cb.first else x.offset) ∧
          y.entered = if k = 0 ∧ c ∉ x.entered then x.entered ++ [c] else x.entered) ∧
      (∀ b m mode lag rm om n, (s.order x.order).body = some b → b.source = .live m mode lag → m ≠ l →
        (s.lane m).record = some rm → (s.lane m).on = some om → e.origin = .tap m n →
        y.offset = if e.runStart = false then x.offset else
          match mode, p, presentation om.clock rm.playDelay (some e.stamp) with
          | .rebase, some u, some v => some (u - v)
          | _, _, _ => none) ∧
      (t.lane l).on.map (fun o => o.fetch.queue) = some es ∧ t.orders = s.orders ∧ t.report = s.report ∧
      (∀ m, m ≠ l → t.lane m = s.lane m) ∧
      QueuedOut s t l r o e y.offset
        (match (s.order x.order).body.map OrderBody.source with
          | some (.live _ _ _) => if y.offset.isSome then estimate else none
          | _ => estimate) a d err

/-- R63 to R65, R83, R86, R90, R100, R138: the ending of an active insertion, in service or in shadow, with no waiting cue
whose T is reached. It ends on this decision as INSERT_ABORTED where its order carries the abort mark; else, R reached, as
INSERT_COMPLETE for a LIVE order, which has no cursor, and for a playlist fully served, and INSERT_TRUNCATED otherwise; else,
exhausted, as INSERT_SHORT. The time out is the slot's presentation time, or R without one. The order is disposed of, its
clips are released, the record is handed over, the lane's fetch source is judged by Table 4-3, a changed one with a flush and
its cursor placed, and the slot is served without the insertion; the waiting cue, the other orders and the other lanes stand.
-/
def Obligations.InsertionEndsByItsCause : Prop :=
  ∀ (d : Line) (err : Bool) (s : State) (a : Addr) (l : LaneId) (rest : List MemRead) (r : LaneRecord) (o : OnLane)
    (dec : Decision) (decs : List Decision) (x : ActiveInsertion) (b : OrderBody),
    Deciding s a l rest r o dec decs → o.active = some x → (s.order x.order).body = some b →
    let p := slotTime r o dec d err
    (∀ w, o.waiting = some w → ¬ Reached p w.splice) →
    let aborted := (s.order x.order).abort = true
    let served := (∃ k, x.cursor = some (.pad k)) ∨ x.cursor = some .exhausted
    aborted ∨ Reached p x.ret ∨ x.cursor = some .exhausted →
    ∃ t o' kind, exec (.slotContentPart d err) s = .next t ∧ (t.lane l).on = some o' ∧ o'.active = none ∧
      o'.waiting = o.waiting ∧ InsertionEnded s t l x b kind (p.getD x.ret) ∧
      (aborted → kind = .insertAborted) ∧
      (¬ aborted → Reached p x.ret →
        (x.cursor = none ∨ served → kind = .insertComplete) ∧ (x.cursor ≠ none → ¬ served → kind = .insertTruncated)) ∧
      (¬ aborted → ¬ Reached p x.ret → kind = .insertShort) ∧
      o'.sel.served = some (if overrideEffective s o.stack then .alert else if o.feed.state ≠ .live then .loss
        else if dec.fresh = true ∧ err = false then .network else .filler) ∧
      SourceJudgedOnce t r (s.lane l) o (t.lane l) o' ∧
      (∀ j, j ≠ x.order → t.order j = s.order j) ∧ ∀ m, m ≠ l → t.lane m = s.lane m

/-- R63, R83 to R86, R90, R100: a decision at or after T of the waiting cue. An active insertion ends on it: by its abort
mark, its own R or its exhaustion where one of these applies (R83 step 1), else by chaining, as INSERT_COMPLETE with its
playlist fully served and INSERT_TRUNCATED otherwise; its time out is the slot's presentation time, and the waiting cue
splices in, this slot its first. A cue whose R is reached on its own splice slot ends at once and serves nothing:
INSERT_COMPLETE for a LIVE order and INSERT_TRUNCATED for a CLIPS order, with one use spent, its clips released and a record
whose time in and time out are both this slot's; with an insertion before it, that insertion's ending and record come first.
In each case the fetch source is afterwards the first line of Table 4-3 that applies. -/
def Obligations.ChainingAndZeroLengthBreaks : Prop :=
  (∀ (d : Line) (err : Bool) (s : State) (a : Addr) (l : LaneId) (rest : List MemRead) (r : LaneRecord) (o : OnLane)
    (dec : Decision) (decs : List Decision) (x : ActiveInsertion) (w : WaitingCue) (b bw : OrderBody) (p : Stamp),
    Deciding s a l rest r o dec decs → o.active = some x → (s.order x.order).body = some b → o.waiting = some w →
    w.order ≠ x.order → (s.order w.order).body = some bw → (∀ pad, bw.source ≠ .clips [] pad) →
    slotTime r o dec d err = some p → atOrAfter p w.splice = true →
    (atOrAfter p w.ret = false →
      ∃ t y kind, exec (.slotContentPart d err) s = .next t ∧ (t.lane l).on.bind OnLane.active = some y ∧
        (t.lane l).on.bind OnLane.waiting = none ∧ y.order = w.order ∧ y.event = w.event ∧ y.splice = w.splice ∧
        y.ret = w.ret ∧ y.timeIn = p ∧ y.served + y.shadow + y.underrun = 1 ∧
        y.suspended = overrideEffective s o.stack ∧ y.flags.interrupted = overrideEffective s o.stack ∧
        (∀ o', (t.lane l).on = some o' → r.role = .output → FetchSourceIs t r o') ∧
        EndsAs s p x kind ∧ InsertionEnded s t l x b kind p ∧
        t.order w.order = { s.order w.order with
          state := .active
          remaining := if (s.order w.order).unlimited then (s.order w.order).remaining
            else (s.order w.order).remaining - 1 } ∧
        ∀ j, j ≠ x.order → j ≠ w.order → t.order j = s.order j) ∧
    (atOrAfter p w.ret = true → (s.order w.order).abort = false →
      ∃ t o' kind, exec (.slotContentPart d err) s = .next t ∧ (t.lane l).on = some o' ∧ o'.active = none ∧
        o'.waiting = none ∧ (r.role = .output → FetchSourceIs t r o') ∧ EndsAs s p x kind ∧
        t.order x.order = leftActive (s.order x.order) ∧
        t.order w.order = spentOnce (s.order w.order) ∧
        (∀ j, j ≠ x.order → j ≠ w.order → t.order j = s.order j) ∧
        (∀ c, (t.clip c).locks =
          (s.clip c).locks - (if c ∈ b.clips then 1 else 0) - (if c ∈ bw.clips then 1 else 0)) ∧
        t.report = (s.report.handOver (endedRecord s l x kind p)).handOver (emptyBreakRecord s l o w bw p))) ∧
  ∀ (d : Line) (err : Bool) (s : State) (a : Addr) (l : LaneId) (rest : List MemRead) (r : LaneRecord) (o : OnLane)
    (dec : Decision) (decs : List Decision) (w : WaitingCue) (b : OrderBody) (p : Stamp),
    Deciding s a l rest r o dec decs → o.active = none → o.waiting = some w → (s.order w.order).body = some b →
    (∀ pad, b.source ≠ .clips [] pad) → slotTime r o dec d err = some p → (s.order w.order).abort = false →
    atOrAfter p w.splice = true → atOrAfter p w.ret = true →
    ∃ t o', exec (.slotContentPart d err) s = .next t ∧ (t.lane l).on = some o' ∧ o'.active = none ∧ o'.waiting = none ∧
      (r.role = .output → FetchSourceIs t r o') ∧ t.order w.order = spentOnce (s.order w.order) ∧
      (∀ j, j ≠ w.order → t.order j = s.order j) ∧
      (∀ c, (t.clip c).locks = if c ∈ b.clips then (s.clip c).locks - 1 else (s.clip c).locks) ∧
      t.report = s.report.handOver (emptyBreakRecord s l o w b p)

/-- R71, R72, R87 to R89, R125, R127, R142 to R144, R147: the effective alert of a stack is its last OVERRIDE entry, or
without one its last entry. A decision of a lane whose effective alert is an OVERRIDE alert serves the alert whatever else the
lane holds: a packet taken from the queue moves the entry's cursor past it, back to packet 0 after the clip's last, has D
worked at packet 0 from this slot's presentation time, and counts as served, a fault setting the alert's fetch-fault mark; it
goes out mapped and rewritten with that D and this slot's clock estimate, or as the generated filler. An empty queue is an
underrun filler, counted in the alert and the lane, and the cursor stays. The away mark is set. A suspended insertion that
does not end passes the slot in shadow: its cursor moves on and only its shadow count rises. No order and no record changes.
(The model's choices: that a packet on 1FFFh without a marker or with a bad header counts as unmapped, where R143 gives both
outcomes, log entry 25; that an errored packet keeps its clock reference, log entry 26; which errored packets have a bad
header, log entry 38.) -/
def Obligations.OverrideServesTheAlert : Prop :=
  (∀ (s : State) (st : List StackEntry) (e : StackEntry), effectiveEntry s st = some e ↔
    (∃ before after, st = before ++ e :: after ∧ isOverride s e.id = true ∧ ∀ z, z ∈ after → isOverride s z.id = false) ∨
    ∃ before, st = before ++ [e] ∧ ∀ z, z ∈ st → isOverride s z.id = false) ∧
  ∀ (d : Line) (err : Bool) (s : State) (a : Addr) (l : LaneId) (rest : List MemRead) (r : LaneRecord) (o : OnLane)
    (dec : Decision) (decs : List Decision) (e : StackEntry) (b : AlertBody) (c : ClipBody),
    Deciding s a l rest r o dec decs → effectiveEntry s o.stack = some e → (s.alert e.id).body = some b →
    b.mode = .override → (s.clip b.clip).body = some c →
    let p := slotTime r o dec d err
    let runOffset := if e.cursor = 0 then p.map fun u => u - c.first else e.offset
    (∀ w, o.waiting = some w → ¬ Reached p w.splice) →
    (∀ x, o.active = some x → x.suspended = true ∧ (s.order x.order).abort = false ∧ ¬ Reached p x.ret ∧
      x.cursor ≠ some .exhausted) →
    ∃ t o', exec (.slotContentPart d err) s = .next t ∧ (t.lane l).on = some o' ∧ o'.sel.served = some .alert ∧
      o'.sel.away = true ∧
      t.orders = s.orders ∧ t.report = s.report ∧ (∀ m, m ≠ l → t.lane m = s.lane m) ∧
      (∀ z, z ≠ e.id → t.alert z = s.alert z) ∧
      (o.fetch.queue = [] → FillerOut t l a d err ∧ o'.fetch.queue = [] ∧ o'.stack = o.stack ∧
        o'.sel.continuity = o.sel.continuity ∧
        t.alert e.id = { s.alert e.id with underrun := raise32 (s.alert e.id).underrun } ∧
        (t.lane l).count .underrun = ((s.lane l).raise .underrun).count .underrun ∧ (t.lane l).flag .underrun = true) ∧
      (∀ q qs, o.fetch.queue = q :: qs →
        QueuedOut s t l r o q runOffset (slotClock o dec d err) a d err ∧ o'.fetch.queue = qs ∧
        o'.stack = o.stack.map (fun z => if z.id = e.id then
          { z with cursor := (if z.cursor + 1 < c.length then z.cursor + 1 else 0)
                   offset := (if z.cursor = 0 then p.map fun u => u - c.first else z.offset) } else z) ∧
        t.alert e.id = { s.alert e.id with
          served := raise32 (s.alert e.id).served, fetchFault := (s.alert e.id).fetchFault || q.fault } ∧
        (t.lane l).count .fetchFault =
          (if q.fault then ((s.lane l).raise .fetchFault).count .fetchFault else (s.lane l).count .fetchFault)) ∧
      (o.active = none → o'.active = none) ∧
      ∀ x, o.active = some x → ∃ y, o'.active = some y ∧ y.shadow = x.shadow + 1 ∧ y.served = x.served ∧
        y.underrun = x.underrun ∧ y.suspended = true ∧ y.ret = x.ret ∧
        y.flags.clockStale = (x.flags.clockStale || o.clock.isStale || p.isNone) ∧
        ∀ ob pos, (s.order x.order).body = some ob → x.cursor = some pos → (cursorClip ob pos).isSome = true →
          y.cursor = some (stepCursor s ob pos)

/-- R126, R130 to R134, R145, R148, R150: the interject step on a lane that serves its network, its effective alert an
INTERJECT alert of label `lb` and interval `n`. The countdown falls by 1, at 0 goes back to the interval and a packet falls
due with wait count 0, or stays due as it was; a clashing entry is not paced. A due packet with one in the buffer goes out in
place of a filler packet, or, waiting the lane's deadline, of a packet that carries no clock reference and is not on the cue
label, which counts as displaced, its map entry marked pending where it bore payload; otherwise its wait count rises, holding
at 255. The packet sent leaves the buffer for the label `lb` with the count after the last one where it bears payload and the
last one where not, its stamps moved by D and its clock reference restamped, all three lines replaced and bytes 0 to 3 as
returned; the alert's served count rises; the entry is not due, its cursor moves past the packet, and at packet 0 its D is
worked from this slot. (The model's choices: that the wait count of an entry not due is 0, log entry 24; that placement reads
the label bits of a packet without asking for a start marker, log entry 25; that an errored packet keeps its clock reference,
log entry 26; that a displaced packet's map entry is marked by label and payload alone, without the marker that R139 asks for,
log entry 27; D where packet 0 was never sent, log entry 36; which errored packets have a bad header, log entry 38.) -/
def Obligations.InterjectPacketsTakeTheirTurn : Prop :=
  ∀ (d : Line) (err : Bool) (s : State) (a : Addr) (l : LaneId) (rest : List MemRead) (r : LaneRecord) (o : OnLane)
    (dec : Decision) (decs : List Decision) (e : StackEntry) (b : AlertBody) (lb : Label) (n : Nat),
    Deciding s a l rest r o dec decs → o.active = none → o.waiting = none → o.feed.state = .live →
    effectiveEntry s o.stack = some e → (s.alert e.id).body = some b → b.mode = .interject lb n →
    let network := dec.fresh = true ∧ err = false
    let label := if network then packetLabel (line0Packet d) else fillerLabel
    let paced : StackEntry := if e.clash then e
      else if e.countdown ≤ 1 then { e with countdown := n, due := true, wait := if e.due then e.wait else 0 }
      else { e with countdown := e.countdown - 1 }
    let room := label = fillerLabel ∨
      (r.deadline ≤ paced.wait ∧ ¬ (network ∧ hasClockRef (line0Packet d) = true) ∧ r.cueLabel ≠ some label)
    let becomes : StackEntry → List StackEntry := fun y => o.stack.map fun z => if z.id = e.id then y else z
    ∃ t o', exec (.slotContentPart d err) s = .next t ∧ (t.lane l).on = some o' ∧ t.orders = s.orders ∧
      t.report = s.report ∧ (∀ m, m ≠ l → t.lane m = s.lane m) ∧ (∀ z, z ≠ e.id → t.alert z = s.alert z) ∧
      o'.sel.served = some (if network then .network else .filler) ∧
      o'.sel.away = (if network then false else o.sel.away) ∧
      (paced.due = false → o'.stack = becomes paced ∧ o'.fetch.interject = o.fetch.interject ∧ t.alerts = s.alerts) ∧
      (paced.due = true → o.fetch.interject = [] ∨ ¬ room →
        o'.stack = becomes { paced with wait := min 255 (paced.wait + 1) } ∧ o'.fetch.interject = o.fetch.interject ∧
          t.alerts = s.alerts) ∧
      ∀ q qs c k cb, paced.due = true → room → o.fetch.interject = q :: qs → q.origin = .clip c k →
        (s.clip c).body = some cb →
        let count := if bearsPayload q.packet then e.lastCount + 1 else e.lastCount
        let runOffset := if k = 0 then (slotTime r o dec d err).map fun u => u - cb.first else e.offset
        o'.stack = becomes { paced with
          due := false, wait := 0, lastCount := count
          cursor := if e.cursor + 1 < cb.length then e.cursor + 1 else 0
          offset := runOffset } ∧
        o'.fetch.interject = qs ∧ t.alert e.id = { s.alert e.id with served := raise32 (s.alert e.id).served } ∧
        (t.lane l).count .displaced =
          (if label = fillerLabel then (s.lane l).count .displaced else ((s.lane l).raise .displaced).count .displaced) ∧
        (∀ (m : Nat) (z : Continuity), o.sel.continuity[m]? = some z →
          let onEntry := label ≠ fillerLabel ∧ bearsPayload (line0Packet d) = true ∧
            (∃ en : LabelEntry, r.labelMap[m]? = some en ∧ en.label = label) ∧
            ∀ (i : Nat) (y : LabelEntry), i < m → r.labelMap[i]? = some y → y.label ≠ label
          let returns := network ∧ o.sel.away = true ∧ z.last.isSome = true
          (onEntry ∨ returns → o'.sel.continuity[m]? = some { z with pending := true }) ∧
          (¬ onEntry → ¬ returns → o'.sel.continuity[m]? = some z)) ∧
        ∃ p x, Rewritten q.packet lb count runOffset (slotClock o dec d err) p ∧ x = makeSlot (d.extractLsb' 0 32) p ∧
          t.upPort = some { addr := a, data := slotLine x 0, err := err } ∧
          o'.track.copy =
            some { line0 := some (slotLine x 0), line1 := some (slotLine x 1), line2 := some (slotLine x 2) }

/-- R52 to R56, R71, R72, R110, R111, R115, R140, R142 to R144, R147: a decision of a lane whose feed is not LIVE, under no
alert, with no active insertion and no waiting cue whose T is reached, serves its loss source, fresh or starved, and sets the
away mark. NONE is the generated filler, served and no underrun. A SLATE or BACKUP serves the head of the queue, or with an
empty queue an underrun filler, counted in the lane too. An open outage record counts the decision as served or as underrun. A
slate packet moves the slate cursor past it, back to packet 0 after the last, with D worked at packet 0; a backup packet that
is a run start has D worked in REBASE mode from both presentation times, and none without both or in PASS mode, and any other
keeps D. A mapped packet goes out with its entry's next count, moved by D and restamped, a backup's where the run has a D.
(The model's choices: that a packet on 1FFFh without a marker or with a bad header counts as unmapped, where R143 gives both
outcomes, log entry 25; that an errored packet keeps its clock reference, log entry 26; which errored packets have a bad
header, log entry 38; that a faulted run start gives D, log entry 40; that a run state of none counts as slate cursor 0
without D, log entry 41.) -/
def Obligations.LossSourceIsServed : Prop :=
  ∀ (d : Line) (err : Bool) (s : State) (a : Addr) (l : LaneId) (rest : List MemRead) (r : LaneRecord) (o : OnLane)
    (dec : Decision) (decs : List Decision),
    Deciding s a l rest r o dec decs → o.stack = [] → o.active = none → o.feed.state ≠ .live →
    let p := slotTime r o dec d err
    let estimate := slotClock o dec d err
    (∀ w, o.waiting = some w → ¬ Reached p w.splice) →
    ∃ t o', exec (.slotContentPart d err) s = .next t ∧ (t.lane l).on = some o' ∧ o'.sel.served = some .loss ∧
      o'.sel.away = true ∧
      t.orders = s.orders ∧ t.report = s.report ∧ (∀ m, m ≠ l → t.lane m = s.lane m) ∧
      (r.lossSource = .filler → FillerOut t l a d err ∧ o'.fetch.queue = o.fetch.queue ∧
        o'.sel.continuity = o.sel.continuity ∧
        o'.feed = { o.feed with outage := o.feed.outage.map fun y => { y with served := raise32 y.served } } ∧
        (t.lane l).count .underrun = (s.lane l).count .underrun) ∧
      (r.lossSource ≠ .filler → o.fetch.queue = [] → FillerOut t l a d err ∧ o'.sel.lossRun = o.sel.lossRun ∧
        o'.sel.continuity = o.sel.continuity ∧
        o'.feed = { o.feed with outage := o.feed.outage.map fun y => { y with underrun := raise32 y.underrun } } ∧
        (t.lane l).count .underrun = ((s.lane l).raise .underrun).count .underrun ∧ (t.lane l).flag .underrun = true) ∧
      ∀ e es, r.lossSource ≠ .filler → o.fetch.queue = e :: es →
        let runOffset := o'.sel.lossRun.bind LossRun.offset
        QueuedOut s t l r o e runOffset
          (match r.lossSource with
            | .backup _ _ _ => if runOffset.isSome then estimate else none
            | _ => estimate) a d err ∧
        o'.fetch.queue = es ∧
        o'.feed = { o.feed with outage := o.feed.outage.map fun y => { y with served := raise32 y.served } } ∧
        (t.lane l).count .underrun = (s.lane l).count .underrun ∧
        (t.lane l).count .fetchFault =
          (if e.fault then ((s.lane l).raise .fetchFault).count .fetchFault else (s.lane l).count .fetchFault) ∧
        let z := o.sel.lossRun.getD { cursor := 0, offset := none }
        (∀ c cb, r.lossSource = .slate c → (s.clip c).body = some cb →
          o'.sel.lossRun = some
            { cursor := if z.cursor + 1 < cb.length then z.cursor + 1 else 0
              offset := if z.cursor = 0 then p.map fun u => u - cb.first else z.offset }) ∧
        ∀ m mode lag rm om n, r.lossSource = .backup m mode lag → m ≠ l →
          (s.lane m).record = some rm → (s.lane m).on = some om → e.origin = .tap m n →
          o'.sel.lossRun = some { z with
            offset := if e.runStart = false then z.offset else
              match mode, p, presentation om.clock rm.playDelay (some e.stamp) with
              | .rebase, some u, some v => some (u - v)
              | _, _, _ => none }

/-! ## The postings -/

/-- R161: with no slot WORKING and the queue not empty, POSTING_TAKE takes the head: a known kind makes its slot WORKING, any
other completes at once as DONE with BAD_KIND and detail 0; nothing else changes. Otherwise the take is not due and nothing is
taken, the model's choice (log entry 11). -/
def Obligations.PostingTakeWorksTheHead : Prop :=
  (∀ (s : State) (k : PostSlotId) (rest : List PostSlotId), s.working = none → s.queue = k :: rest →
    let code := (s.slot k).kind.toNat
    let known := (1 ≤ code ∧ code ≤ 12) ∨ code = 15
    exec .postingTake s = .next (if known then
      { s with
        slots := s.slots.set k { s.slot k with state := .working }
        queue := rest
        working := some { slot := k, granted := 0 } }
    else
      { s with
        slots := s.slots.set k { s.slot k with state := .done, result := .badKind, detail := 0 }
        queue := rest })) ∧
  ∀ s : State, s.working.isSome = true ∨ s.queue = [] → exec .postingTake s = .next s

/-- R162: a posting of any kind, one of whose record lines returned with the error indication, is not carried out: its slot is
DONE with MEMORY_FAULT and the number of the lowest faulted line, and no state of any block changes; the next head of the
queue may then be taken, and a new go write of the slot makes it PENDING again. -/
def Obligations.MemoryFaultCompletesPosting : Prop :=
  ∀ (errs : BitVec 4) (n : Nat) (s : State) (k : PostSlotId) (rest : List MemRead) (line : Nat) (dead : Bool),
    s.working = some { slot := k, granted := 4 } → nextDue s.memReads = some (.posting line dead, rest) →
    n < 4 → errs.getLsbD n = true → (∀ m, m < n → errs.getLsbD m = false) →
    let t : State :=
      { s with
        memReads := rest
        working := none
        slots := s.slots.set k { s.slot k with state := .done, result := .memoryFault, detail := n } }
    exec (.postingMemoryFault errs) s = .next t ∧
      (∀ h q, s.queue = h :: q → exec .postingTake t = .next (takePosting h q t)) ∧
      ∀ (a : Addr) (d : Line) (e : Enables), classify s (lineAddr a) = .window (256 * k.val + 0xC0) →
        e.getLsbD 56 = true → ∃ u, exec (.goWrite a d e) t = .next u ∧ (u.slot k).state = .pending ∧ u.queue = s.queue ++ [k]

/-- R161, R163: every posting command of Table 9-4 whose posting is due completes its slot as DONE with one result and one detail
and leaves no slot WORKING; with any result but OK nothing of the part changes but that slot and the record data taken. -/
def Obligations.RefusedPostingChangesNothing : Prop :=
  ∀ (x : RecordData) (c : Instr) (code : BitVec 8) (s : State) (k : PostSlotId) (rest : List MemRead),
    (c, code) ∈ [(Instr.laneConfigure x, 0x01#8), (.laneEnable x, 0x02#8), (.laneDisable x, 0x03#8),
      (.clipDeclare x, 0x04#8), (.clipClear x, 0x05#8), (.orderLoad x, 0x06#8), (.orderCancel x, 0x07#8),
      (.schedule x, 0x08#8), (.alertStart x, 0x09#8), (.alertEnd x, 0x0A#8), (.reportSetup x, 0x0B#8),
      (.countersClear x, 0x0C#8), (.partReset x, 0x0F#8)] →
    Due s k code rest →
    ∃ t res detail, exec c s = .next t ∧ t.working = none ∧
      t.slot k = { s.slot k with state := .done, result := res, detail := detail } ∧
      (res ≠ .ok → t =
        { s with
          memReads := rest
          working := none
          slots := s.slots.set k { s.slot k with state := .done, result := res, detail := detail } })

/-- R1, R2, R59, R79, R172, R173, R186, Table 9-5: four postings that load an entry. Where their checks pass, in their order,
they complete OK and change nothing but their entry; the first check that fails gives the result and detail, and nothing
changes. LANE CONFIGURE: a lane above 63 BAD_FIELD 1, an ON lane BAD_STATE, the first field at fault BAD_FIELD, the first area
met OVERLAP; it replaces the lane record, clears the lane's counters and sticky flags and leaves the lane OFF. CLIP DECLARE:
an id above 511 BAD_FIELD 1, a locked clip LOCKED, then fields and areas but clips; it makes the entry READY with the record's
fields, both flags clear. ORDER LOAD: a BOUND or ACTIVE order IN_USE, then fields, then NOT_READY naming the playlist 9 or the
pad 10; it makes the order ARMED with the record's fields, its uses left and no abort mark. REPORT SETUP: fields, then areas
but the ring; it sets the ring up with W, H and the gap count 0, an empty queue, no urgent position, the timer stopped, the
bad-index flag clear and the attention line deasserted; a write still in flight is abandoned. The fields at fault are those
outside the ranges of Tables 1-1, 4-1 and 5-1 and R172, each at its place in Table 12-4, and the entry holds the fields read
there. (No list entry beyond its field's room is read: log entry 30. An urgent default mark of 0 is clear, of 1 set, and of
any other byte left open: log entry 8.) -/
def Obligations.LoadsSetTheirEntry : Prop :=
  (∀ (x : RecordData) (s : State) (k : PostSlotId) (rest : List MemRead), Due s k 0x01#8 rest →
     (63 < field x 0 1 → Refused s k rest .badField 1 (exec (.laneConfigure x) s)) ∧
     ∀ l : LaneId, field x 0 1 = l.val →
       let area := Meets s (some l) (field x 8 5) (192 * field x 16 4)
       ((s.lane l).on.isSome = true → Refused s k rest .badState 0 (exec (.laneConfigure x) s)) ∧
       (∀ i, (s.lane l).on = none → FirstAt (LaneFieldBad x) i →
         Refused s k rest .badField i (exec (.laneConfigure x) s)) ∧
       (∀ n, (s.lane l).on = none → (∀ m, ¬ LaneFieldBad x m) → FirstAt area n →
         Refused s k rest .overlap n (exec (.laneConfigure x) s)) ∧
       ((s.lane l).on = none → (∀ m, ¬ LaneFieldBad x m) → (∀ n, ¬ area n) →
         LaneRead x (laneRecordOf x) ∧ exec (.laneConfigure x) s = .next (finishPosting k .ok 0
           { s with
             memReads := rest
             lanes := s.lanes.set l { s.lane l with
               record := some (laneRecordOf x), counts := Vector.replicate 21 0, flags := 0 } }))) ∧
  (∀ (x : RecordData) (s : State) (k : PostSlotId) (rest : List MemRead), Due s k 0x04#8 rest →
     let area := Meets s none (field x 8 5) (192 * (field x 16 3 + 1))
     (511 < field x 0 2 → Refused s k rest .badField 1 (exec (.clipDeclare x) s)) ∧
     ∀ c : ClipId, field x 0 2 = c.val →
       (0 < (s.clip c).locks → Refused s k rest .locked 0 (exec (.clipDeclare x) s)) ∧
       (∀ i, (s.clip c).locks = 0 → FirstAt (ClipFieldBad x) i →
         Refused s k rest .badField i (exec (.clipDeclare x) s)) ∧
       (∀ n, (s.clip c).locks = 0 → (∀ m, ¬ ClipFieldBad x m) → n ≠ 4 → area n → (∀ m, m < n → ¬ area m) →
         Refused s k rest .overlap n (exec (.clipDeclare x) s)) ∧
       ((s.clip c).locks = 0 → (∀ m, ¬ ClipFieldBad x m) → (∀ n, n ≠ 4 → ¬ area n) →
         ClipRead x (clipBodyOf x) ∧ exec (.clipDeclare x) s = .next (finishPosting k .ok 0
           { s with
             memReads := rest
             clips := s.clips.set c
               { body := some (clipBodyOf x), locks := 0, disturbed := false, readFault := false } }))) ∧
  (∀ (x : RecordData) (s : State) (k : PostSlotId) (rest : List MemRead) (i : OrderId),
     Due s k 0x06#8 rest → field x 0 1 = i.val →
     let free := (s.order i).state ≠ .bound ∧ (s.order i).state ≠ .active
     let ready : ClipId → Prop := fun c => (s.clip c).body.isSome = true
     (¬ free → Refused s k rest .inUse 0 (exec (.orderLoad x) s)) ∧
     (∀ n, free → FirstAt (OrderFieldBad s x) n → Refused s k rest .badField n (exec (.orderLoad x) s)) ∧
     (∀ list pad, free → (∀ m, ¬ OrderFieldBad s x m) → (orderBodyOf x).source = .clips list pad →
       ((∃ c, c ∈ list ∧ ¬ ready c) → Refused s k rest .notReady 9 (exec (.orderLoad x) s)) ∧
       ((∀ c, c ∈ list → ready c) → (∃ c, pad = some c ∧ ¬ ready c) →
         Refused s k rest .notReady 10 (exec (.orderLoad x) s))) ∧
     (free → (∀ m, ¬ OrderFieldBad s x m) →
       (∀ list pad, (orderBodyOf x).source = .clips list pad → ∀ c, c ∈ list ∨ pad = some c → ready c) →
       OrderRead x (orderBodyOf x) ∧ exec (.orderLoad x) s = .next (finishPosting k .ok 0
         { s with
           memReads := rest
           orders := s.orders.set i
             { state := .armed, body := some (orderBodyOf x), remaining := field x 2 1, unlimited := field x 2 1 == 0
               abort := false } }))) ∧
  (∀ (x : RecordData) (s : State) (k : PostSlotId) (rest : List MemRead), Due s k 0x0B#8 rest →
     let area := Meets s none (field x 0 5) (32 * field x 8 4)
     (∀ i, FirstAt (ReportFieldBad x) i → Refused s k rest .badField i (exec (.reportSetup x) s)) ∧
     (∀ n, (∀ m, ¬ ReportFieldBad x m) → n ≠ 3 → area n → (∀ m, m < n → m ≠ 3 → ¬ area m) →
       Refused s k rest .overlap n (exec (.reportSetup x) s)) ∧
     ((∀ m, ¬ ReportFieldBad x m) → (∀ n, n ≠ 3 → ¬ area n) →
       RingRead x (ringSetupOf x) ∧ exec (.reportSetup x) s = .next (finishPosting k .ok 0
         { s with
           memReads := rest
           report :=
             { setup := some (ringSetupOf x), w := 0, h := 0, gap := 0, queue := []
               flight := s.report.flight.map fun y => { y with abandoned := true }
               orphans := s.report.orphans, urgentPos := none, timer := .stopped, badIndex := false
               attention := false } })))

/-- R3, R63, R65, R73, R74, R103, R113, R124 to R126, R152, R165: LANE ENABLE of a configured OFF lane whose loss source is ready makes
it ON with an empty tracker, no clock, the feed RECOVERING from now, no insertion, no loss-source run state (Table 8-5), and one
continuity record per map entry; record, counters and generations are kept (log entry 19). An OUTPUT lane stands under the alerts
in force whose zone set holds its zone, in force-list order, each counting one lane more, holding at 255, with the clash flag set
where an interject label of one is the lane's own; it locks its slate clip once; its fetch source is the clip of an effective
OVERRIDE alert, else its SLATE or BACKUP, from packet 0 or from the tap as placed; no other lane, no order and no as-run record
changes. A lane above 63 is refused BAD_FIELD 1, an unconfigured or ON lane BAD_STATE, a slate not READY NOT_READY 16 and a backup
that is no ON SOURCE lane NOT_READY 17. -/
def Obligations.LaneEnableStartsTheLane : Prop :=
  ∀ (x : RecordData) (s : State) (k : PostSlotId) (rest : List MemRead), Due s k 0x02#8 rest →
    (63 < field x 0 1 → Refused s k rest .badField 1 (exec (.laneEnable x) s)) ∧
    (∀ l : LaneId, field x 0 1 = l.val → (s.lane l).record = none ∨ (s.lane l).on.isSome = true →
      Refused s k rest .badState 0 (exec (.laneEnable x) s)) ∧
    ∀ (l : LaneId) (r : LaneRecord), field x 0 1 = l.val → (s.lane l).record = some r → (s.lane l).on = none →
      (∀ c, r.role = .output → r.lossSource = .slate c → (s.clip c).body = none →
        Refused s k rest .notReady 16 (exec (.laneEnable x) s)) ∧
      (∀ b m n, r.role = .output → r.lossSource = .backup b m n → s.isOnSource b = false →
        Refused s k rest .notReady 17 (exec (.laneEnable x) s)) ∧
      ((r.role = .output → ∀ c, r.lossSource = .slate c → (s.clip c).body.isSome = true) →
       (r.role = .output → ∀ b m n, r.lossSource = .backup b m n → s.isOnSource b = true) →
       let joins : AlertId → AlertBody → Prop := fun a b =>
         r.role = .output ∧ a ∈ s.forceList ∧ (s.alert a).body = some b ∧ b.zones.getLsbD r.zone = true
       let clash : AlertBody → Prop := fun b => ∃ lb n, b.mode = .interject lb n ∧
         (r.clockLabel = lb ∨ r.cueLabel = some lb ∨ ∃ en, en ∈ r.labelMap ∧ en.label = lb)
       ∃ t o, exec (.laneEnable x) s = .next t ∧ t.slot k = { s.slot k with state := .done, result := .ok, detail := 0 } ∧
         (t.lane l).on = some o ∧
         o.track =
           { ingest := .unsynchronised, assembly := 0, history := [], estimate := r.nominal, fill := 0, lead := 0
             play := none, lastDecided := none, prevStamp := none, copy := none, awaiting := [] } ∧
         o.clock = .unset ∧ o.cues = [] ∧ o.active = none ∧ o.waiting = none ∧
         o.feed = { state := .recovering, lossTimer := some s.stationMs, good := 0, captureSeen := false, outage := none } ∧
         o.fetch.queue = [] ∧ o.fetch.interject = [] ∧ o.sel.served = none ∧ o.sel.away = false ∧
         o.sel.lossRun = none ∧ o.sel.continuity = r.labelMap.map (fun _ => { last := none, delta := 0, pending := false }) ∧
         o.stack.map StackEntry.id = (if r.role = .source then [] else
           s.forceList.filter fun a => (s.alert a).body.any fun b => b.zones.getLsbD r.zone) ∧
         (∀ z, z ∈ o.stack → ∃ b, joins z.id b ∧ z.cursor = 0 ∧ z.offset = none ∧ z.lastCount = 15 ∧ z.due = false ∧
           z.wait = 0 ∧ (z.clash = true ↔ clash b) ∧ z.countdown = match b.mode with
             | .interject _ n => n
             | .override => 0) ∧
         (s.forceList.Nodup → ∀ a, ((∃ b, joins a b) →
             t.alert a = { s.alert a with laneCount := min 255 ((s.alert a).laneCount + 1) }) ∧
           ((∀ b, ¬ joins a b) → t.alert a = s.alert a)) ∧
         ((∃ a b, joins a b ∧ clash b) → (t.lane l).flags = ((s.lane l).setFlag .clash).flags) ∧
         ((∀ a b, joins a b → ¬ clash b) → (t.lane l).flags = (s.lane l).flags) ∧
         o.fetch.interjectCursor = (effectiveEntry s o.stack).bind (fun e => (s.alert e.id).body.bind fun b =>
           if b.mode = .override then none else some { clip := b.clip, packet := 0, fresh := true }) ∧
         (∀ e b, effectiveEntry s o.stack = some e → (s.alert e.id).body = some b → b.mode = .override →
           o.fetch.source = some (.alert e.id) ∧ o.fetch.cursor = some (.loop b.clip 0 true)) ∧
         (overrideEffective s o.stack = false →
           (r.role = .source ∨ r.lossSource = .filler → o.fetch.source = none ∧ o.fetch.cursor = none) ∧
           (∀ c, r.role = .output → r.lossSource = .slate c →
             o.fetch.source = some .loss ∧ o.fetch.cursor = some (.loop c 0 true)) ∧
           ∀ b m n rb ob, r.role = .output → r.lossSource = .backup b m n → (s.lane b).record = some rb →
             (s.lane b).on = some ob → o.fetch.source = some .loss ∧
             let behind := min (n + 1) (min ob.track.fill (rb.slots - 9))
             o.fetch.cursor = some (.tap
               { source := b, lag := n, fresh := true
                 pos := match ob.track.ingest with
                   | .synchronised i _ => .placed ((i + rb.slots - behind) % rb.slots) behind
                   | .unsynchronised => .waiting })) ∧
         (t.lane l).record = some r ∧ (t.lane l).counts = (s.lane l).counts ∧
         (t.lane l).queueGen = (s.lane l).queueGen ∧ (t.lane l).interjectGen = (s.lane l).interjectGen ∧
         (∀ m, m ≠ l → t.lane m = s.lane m) ∧ t.orders = s.orders ∧ t.report = s.report ∧ t.forceList = s.forceList ∧
         (∀ c, t.clip c = if r.role = .output ∧ r.lossSource = .slate c
           then { s.clip c with locks := (s.clip c).locks + 1 } else s.clip c) ∧
         SamePorts { s with memReads := rest } t ∧ t.upOrder = s.upOrder ∧ t.queue = s.queue)

/-- R4, R86, R97, R114, R166: LANE DISABLE of an ON lane that is no named source makes it OFF, keeps its record, counters and sticky
flags, raises both its generations by 1, whatever the endings inside it change (log entry 35), and serves its outstanding reads as
the memory returns them. The active insertion, where there is one, gives its INSERT_ABORTED record, its time out P of the previous
decided stamp or its R, and its order leaves ACTIVE; the order of the waiting cue is ARMED with its uses unchanged; the clips of
both orders and the slate clip are released once each; there is no other record; no other order, no other lane, no alert and no
waiting posting changes. A lane above 63 is refused BAD_FIELD 1, an OFF lane BAD_STATE, and a SOURCE lane that an ON OUTPUT lane
names as its backup or a BOUND or ACTIVE LIVE order as its source IN_USE. -/
def Obligations.LaneDisableStopsTheLane : Prop :=
  ∀ (x : RecordData) (s : State) (k : PostSlotId) (rest : List MemRead), Due s k 0x03#8 rest →
    (63 < field x 0 1 → Refused s k rest .badField 1 (exec (.laneDisable x) s)) ∧
    ∀ l : LaneId, field x 0 1 = l.val →
      let named := (∃ m rm om mode lag, (s.lane m).record = some rm ∧ (s.lane m).on = some om ∧ rm.role = .output ∧
          rm.lossSource = .backup l mode lag) ∨
        ∃ i b mode lag, ((s.order i).state = .bound ∨ (s.order i).state = .active) ∧ (s.order i).body = some b ∧
          b.source = .live l mode lag
      ((s.lane l).on = none → Refused s k rest .badState 0 (exec (.laneDisable x) s)) ∧
      ∀ (r : LaneRecord) (o : OnLane), (s.lane l).record = some r → (s.lane l).on = some o →
        (r.role = .source → named → Refused s k rest .inUse 0 (exec (.laneDisable x) s)) ∧
        (r.role = .output ∨ ¬ named →
          ∃ t, exec (.laneDisable x) s = .next t ∧ t.slot k = { s.slot k with state := .done, result := .ok, detail := 0 } ∧
            (t.lane l).on = none ∧ (t.lane l).record = some r ∧ (t.lane l).counts = (s.lane l).counts ∧
            (t.lane l).flags = (s.lane l).flags ∧ (t.lane l).queueGen = (s.lane l).queueGen + 1 ∧
            (t.lane l).interjectGen = (s.lane l).interjectGen + 1 ∧
            t.upOrder = plainUps (Serve.ofLane l) s.upOrder ∧ t.memReads = plainReads (Serve.ofLane l) rest ∧
            (∀ m, m ≠ l → t.lane m = s.lane m) ∧ t.alerts = s.alerts ∧ t.forceList = s.forceList ∧ t.queue = s.queue ∧
            (o.active = none → t.report = s.report) ∧
            (∀ a, o.active = some a → t.report = s.report.handOver
              (endedRecord s l a .insertAborted ((presentation o.clock r.playDelay o.track.prevStamp).getD a.ret))) ∧
            (o.active = none → o.waiting = none → t.orders = s.orders) ∧
            ((∀ a w, o.active = some a → o.waiting = some w → a.order ≠ w.order) →
              (∀ a, o.active = some a → t.order a.order = leftActive (s.order a.order)) ∧
              (∀ w, o.waiting = some w → t.order w.order = { s.order w.order with state := .armed }) ∧
              (∀ j, (∀ a, o.active = some a → a.order ≠ j) → (∀ w, o.waiting = some w → w.order ≠ j) →
                t.order j = s.order j) ∧
              ∀ c, t.clip c = { s.clip c with
                locks := (s.clip c).locks - (if c ∈ heldClips s (o.active.map ActiveInsertion.order) then 1 else 0) -
                  (if c ∈ heldClips s (o.waiting.map WaitingCue.order) then 1 else 0) -
                  (if r.role = .output ∧ r.lossSource = .slate c then 1 else 0) }))

/-- R60: CLIP CLEAR of a READY unlocked clip makes it EMPTY with its flags clear and completes OK, and nothing else changes; an
id above 511 is refused BAD_FIELD, an EMPTY entry BAD_STATE, a locked READY entry LOCKED, each leaving every block as it
was; after the clear no write meets the clip's area as a watch window, no overlap check counts it, and an order that names
the clip keeps its state and is not ready. -/
def Obligations.ClipClearEmptiesTheEntry : Prop :=
  ∀ (x : RecordData) (s : State) (k : PostSlotId) (rest : List MemRead), Due s k 0x05#8 rest →
    (511 < field x 0 2 →
      exec (.clipClear x) s = .next (finishPosting k .badField 1 { s with memReads := rest })) ∧
    ∀ c : ClipId, field x 0 2 = c.val →
      ((s.clip c).body = none →
        exec (.clipClear x) s = .next (finishPosting k .badState 0 { s with memReads := rest })) ∧
      ((s.clip c).body.isSome = true → 0 < (s.clip c).locks →
        exec (.clipClear x) s = .next (finishPosting k .locked 0 { s with memReads := rest })) ∧
      ((s.clip c).body.isSome = true → (s.clip c).locks = 0 →
        let t := finishPosting k .ok 0
          { s with
            memReads := rest
            clips := s.clips.set c { body := none, locks := 0, disturbed := false, readFault := false } }
        exec (.clipClear x) s = .next t ∧ (∀ a, (t.clip c).watches a = false) ∧
          (∀ a n, meetsClip t a n = true →
            ∃ m b, m ≠ c ∧ (s.clip m).body = some b ∧ rangesMeet a n b.address (192 * b.length) = true) ∧
          t.orders = s.orders ∧
          ∀ (i : OrderId) (b : OrderBody), (s.order i).body = some b → c ∈ b.clips → orderReady t b = false)

/-- R63, R94, Table 5-7: ORDER CANCEL empties an ARMED or SPENT order and marks an ACTIVE order that carries no abort mark,
changing nothing else; an EMPTY order and an ACTIVE one already marked are refused BAD_STATE, and nothing changes; a BOUND
order is emptied and, where its lane holds it as its waiting cue, that cue is gone and its clips are released once each, with
the lane's fetch source judged by Table 4-3 (no run state where the loss source is selected: the model's choice, log entry
41); no as-run record is produced. -/
def Obligations.OrderCancelActsByState : Prop :=
  ∀ (x : RecordData) (s : State) (k : PostSlotId) (rest : List MemRead) (i : OrderId),
    Due s k 0x07#8 rest → field x 0 1 = i.val →
    let empty : Order := { state := .empty, body := none, remaining := 0, unlimited := false, abort := false }
    ((s.order i).state = .empty ∨ ((s.order i).state = .active ∧ (s.order i).abort = true) →
      Refused s k rest .badState 0 (exec (.orderCancel x) s)) ∧
    ((s.order i).state = .armed ∨ (s.order i).state = .spent →
      exec (.orderCancel x) s =
        .next (finishPosting k .ok 0 { s with memReads := rest, orders := s.orders.set i empty })) ∧
    ((s.order i).state = .active → (s.order i).abort = false →
      exec (.orderCancel x) s = .next (finishPosting k .ok 0
        { s with memReads := rest, orders := s.orders.set i { s.order i with abort := true } })) ∧
    (∀ b o w, (s.order i).state = .bound → (s.order i).body = some b → (s.lane b.lane).on = some o →
      o.waiting = some w → w.order = i →
      ∃ t o', exec (.orderCancel x) s = .next t ∧
        t.slot k = { s.slot k with state := .done, result := .ok, detail := 0 } ∧ t.order i = empty ∧
        (∀ j, j ≠ i → t.order j = s.order j) ∧ (t.lane b.lane).on = some o' ∧ o'.waiting = none ∧
        o'.active = o.active ∧ o'.track = o.track ∧ (∀ m, m ≠ b.lane → t.lane m = s.lane m) ∧
        (∀ c, t.clip c = { s.clip c with
          locks := if c ∈ b.clips then (s.clip c).locks - 1 else (s.clip c).locks }) ∧
        (∀ r, (s.lane b.lane).record = some r → (∀ y, o.active = some y → y.order ≠ i) →
          SourceJudged t r (s.lane b.lane) o (t.lane b.lane) o') ∧
        t.report = s.report ∧ t.alerts = s.alerts)

/-- R50, R63, R95, R96, R186: a SCHEDULE. The first field at fault is refused BAD_FIELD; then BAD_STATE unless the lane is an
ON OUTPUT lane with a VALID clock model and no waiting cue, and for an immediate one a previous decided stamp; then IN_USE
unless the order is ARMED and names that lane; then NOT_READY 2 where the order is not ready; a refusal changes nothing. With
every check passed it binds the order as a SCHEDULED waiting cue: T is the posting's splice time, or P of the previous decided
stamp when immediate, and R lies the lesser of the duration and the maximum length after it, or the maximum length; the order
is BOUND, its clips are locked once each, the lane's fetch source is judged by Table 4-3 (no run state where the loss source
is selected: the model's choice, log entry 41), and no as-run record is produced. -/
def Obligations.ScheduleBindsTheOrder : Prop :=
  ∀ (x : RecordData) (s : State) (k : PostSlotId) (rest : List MemRead), Due s k 0x08#8 rest →
    (∀ n, FirstAt (ScheduleFieldBad x) n → Refused s k rest .badField n (exec (.schedule x) s)) ∧
    ∀ (l : LaneId) (i : OrderId), (∀ n, ¬ ScheduleFieldBad x n) → field x 0 1 = l.val → field x 1 1 = i.val →
      let takes := ∃ r o, (s.lane l).record = some r ∧ (s.lane l).on = some o ∧ r.role = .output ∧
        o.clock.isValid = true ∧ o.waiting = none ∧ (field x 2 1 = 1 → o.track.prevStamp.isSome = true)
      (¬ takes → Refused s k rest .badState 0 (exec (.schedule x) s)) ∧
      (takes → ¬ ((s.order i).state = .armed ∧ ∃ b, (s.order i).body = some b ∧ b.lane = l) →
        Refused s k rest .inUse 0 (exec (.schedule x) s)) ∧
      (∀ b, takes → (s.order i).state = .armed → (s.order i).body = some b → b.lane = l → orderReady s b = false →
        Refused s k rest .notReady 2 (exec (.schedule x) s)) ∧
      ∀ (r : LaneRecord) (o : OnLane) (b : OrderBody) (t : Stamp),
        (s.lane l).record = some r → (s.lane l).on = some o → r.role = .output → o.clock.isValid = true → o.waiting = none →
        (s.order i).state = .armed → (s.order i).body = some b → b.lane = l → orderReady s b = true →
        (if field x 2 1 = 1 then presentation o.clock r.playDelay o.track.prevStamp
          else some (BitVec.ofNat 33 (field x 8 5))) = some t →
        let len := if field x 3 1 = 1 then min (field x 16 5) b.maxLength else b.maxLength
        ∃ u o', exec (.schedule x) s = .next u ∧ u.slot k = { s.slot k with state := .done, result := .ok, detail := 0 } ∧
          (u.lane l).on = some o' ∧
          o'.waiting = some { order := i, event := BitVec.ofNat 32 (field x 4 4), kind := .scheduled, splice := t
                              ret := t + BitVec.ofNat 33 len } ∧
          o'.active = o.active ∧ o'.track = o.track ∧ o'.clock = o.clock ∧ o'.cues = o.cues ∧
          u.order i = { s.order i with state := .bound } ∧ (∀ j, j ≠ i → u.order j = s.order j) ∧
          (∀ m, m ≠ l → u.lane m = s.lane m) ∧
          (∀ c, u.clip c = { s.clip c with
            locks := if c ∈ b.clips then (s.clip c).locks + 1 else (s.clip c).locks }) ∧
          SourceJudged u r (s.lane l) o (u.lane l) o' ∧ u.report = s.report ∧ u.alerts = s.alerts

/-- R119, R186, R120, R124 to R126, R128, R135: an ALERT START. An id above 3 is refused BAD_FIELD 1, an alert IN FORCE
IN_USE, the first field outside the ranges of Table 7-1 BAD_FIELD, a clip that is not READY NOT_READY 4; a refusal changes
nothing. Of an IDLE alert whose checks pass it puts the alert in force from now with counts 0 and its duration timer running
where the duration is not 0, at the end of the force list, with one lock on its clip. Every ON OUTPUT lane of its zones, and
no other lane, takes a new entry last on its stack, with cursor 0, no D, last count 15 and the interval as countdown, marked
and flagged as clashing where the lane carries the interject label, and has its effective alert judged again; the lane count
says how many, and the ALERT_START record is handed over. (A lane whose loss source is SELECTED by the judgement has no
loss-source run state: the model's choice, log entry 41.) -/
def Obligations.AlertStartPutsInForce : Prop :=
  ∀ (x : RecordData) (s : State) (k : PostSlotId) (rest : List MemRead), Due s k 0x09#8 rest →
    (3 < field x 0 1 → Refused s k rest .badField 1 (exec (.alertStart x) s)) ∧
    ∀ a : AlertId, field x 0 1 = a.val →
      ((s.alert a).inForce = true → Refused s k rest .inUse 0 (exec (.alertStart x) s)) ∧
      (∀ i, (s.alert a).inForce = false → FirstAt (AlertFieldBad x) i →
        Refused s k rest .badField i (exec (.alertStart x) s)) ∧
      ((s.alert a).inForce = false → (∀ m, ¬ AlertFieldBad x m) → s.clipReady (alertBodyOf x).clip = false →
        Refused s k rest .notReady 4 (exec (.alertStart x) s)) ∧
      ((s.alert a).inForce = false → (∀ m, ¬ AlertFieldBad x m) → s.clipReady (alertBodyOf x).clip = true →
        let b := alertBodyOf x
        let covered : LaneId → Prop := fun l =>
          ∃ r o, (s.lane l).record = some r ∧ (s.lane l).on = some o ∧ r.role = .output ∧ b.zones.getLsbD r.zone = true
        let clash : LaneRecord → Prop := fun r => ∃ lb n, b.mode = .interject lb n ∧
          (r.clockLabel = lb ∨ r.cueLabel = some lb ∨ ∃ en, en ∈ r.labelMap ∧ en.label = lb)
        AlertRead x b ∧ ∃ t n, exec (.alertStart x) s = .next t ∧
          t.slot k = { s.slot k with state := .done, result := .ok, detail := 0 } ∧
          t.alert a = { inForce := true, body := some b, start := s.stationMs, timer := decide (0 < b.duration), served := 0
                        underrun := 0, laneCount := n, fetchFault := false, lastCause := none } ∧
          (∃ ls : List LaneId, ls.Nodup ∧ (∀ l, l ∈ ls ↔ covered l) ∧ n = ls.length) ∧
          (∀ c, c ≠ a → t.alert c = s.alert c) ∧ t.forceList = s.forceList ++ [a] ∧
          (∀ c, t.clip c = if c = b.clip then { s.clip c with locks := (s.clip c).locks + 1 } else s.clip c) ∧
          (∀ l r o, covered l → (s.lane l).record = some r → (s.lane l).on = some o → ∃ o' z, (t.lane l).on = some o' ∧
            z.id = a ∧ z.cursor = 0 ∧ z.offset = none ∧ z.lastCount = 15 ∧ z.due = false ∧ z.wait = 0 ∧
            z.countdown = (match b.mode with
              | .interject _ i => i
              | .override => 0) ∧
            (z.clash = true ↔ clash r) ∧ (z.clash = false → (t.lane l).flags = (s.lane l).flags) ∧
            (z.clash = true → (t.lane l).flags = ((s.lane l).setFlag .clash).flags) ∧
            StackJudged t r (o.stack ++ [z]) (s.lane l) o (t.lane l) o') ∧
          (∀ l, ¬ covered l → t.lane l = s.lane l) ∧ (∀ l, t.tracker l = s.tracker l) ∧
          t.orders = s.orders ∧ t.report = s.report.handOver (alertStartRecord a b n s.stationMs))

/-- R121, R122, R125, R135: an id above 3 is refused BAD_FIELD; an IDLE alert BAD_STATE, changing nothing; an alert IN FORCE is
ended with cause ENDED and result OK, by the ending of R121, the effective alert of each lane that held it judged again. (Where
the end of an OVERRIDE SELECTS the loss source, that there is no loss-source run state is the model's choice, log entry 41: R140
discards it only when the loss source stops being the fetch source.) -/
def Obligations.AlertEndEndsTheAlert : Prop :=
  ∀ (x : RecordData) (s : State) (k : PostSlotId) (rest : List MemRead), Due s k 0x0A#8 rest →
    (3 < field x 0 1 →
      exec (.alertEnd x) s = .next (finishPosting k .badField 1 { s with memReads := rest })) ∧
    ∀ a : AlertId, field x 0 1 = a.val →
      ((s.alert a).inForce = false →
        exec (.alertEnd x) s = .next (finishPosting k .badState 0 { s with memReads := rest })) ∧
      (∀ b, (s.alert a).inForce = true → (s.alert a).body = some b →
        ∃ t, exec (.alertEnd x) s = .next (finishPosting k .ok 0 t) ∧ SamePorts { s with memReads := rest } t ∧
          AlertEnding s t a b .ended)

/-- R167: COUNTERS CLEAR completes OK and clears every counter and every sticky flag of exactly the lanes its lane set marks, and
the read-fault flag of every clip where its clip mark is set; nothing else changes. (A clip mark byte of 0 or 1: what
another byte means is left open, log entry 8.) -/
def Obligations.CountersClearClearsMarkedLanes : Prop :=
  ∀ (x : RecordData) (s : State) (k : PostSlotId) (rest : List MemRead),
    Due s k 0x0C#8 rest → field x 8 1 ≤ 1 →
    ∃ t, exec (.countersClear x) s = .next (finishPosting k .ok 0 t) ∧
      t = { s with memReads := rest, lanes := t.lanes, clips := t.clips } ∧
      (∀ l : LaneId, t.lane l = if (field x 0 8).testBit l.val
        then { s.lane l with counts := Vector.replicate 21 0, flags := 0 } else s.lane l) ∧
      ∀ c, t.clip c = if field x 8 1 = 1 then { s.clip c with readFault := false } else s.clip c

/-! ## The part's own events and timers -/

/-- R64, R67, R68, R70, R73, R75: with no prefetch read waiting, the scan looks from the scan position upward, wrapping from
63 to 0, and issues one fetch for the first lane that has one to make: of two kinds, the one the lane did not issue last, a
prefetch first. The fetch waits from its line 0 with the lane's present generation and the scan position passes the lane. With
a read waiting, or with no fetch to make, nothing changes. An ON OUTPUT lane has a prefetch to make exactly when it has a
fetch source, its queue and its fetches in flight number fewer than 8, no fetch of an older generation or from before a reset
is outstanding, and its cursor has a next packet; an interject fetch in the same way, with fewer than 2 and an interject
cursor on a READY clip. A looping clip's next packet is at its cursor, which wraps; an insertion's is at its place of the
playlist or pad, and after a clip's last packet comes packet 0 of the next playlist clip, after the last one that of the pad,
which wraps, or with no pad exhaustion (Table 4-5); a tap's is at its position while the distance is above 0, and the tap
moves on; a tap with no position or distance 0, and an exhausted insertion, has none. (An older generation is told by its
8-bit number alone, the model's choice: log entry 39; that FETCH_ISSUE with nothing to issue changes nothing is another: log
entry 11.) -/
def Obligations.FetchScanIssuesTheNext : Prop :=
  (∀ s : State, s.fetchWait.isSome = true ∨ (∀ l, prefetchToMake s l = none ∧ interjectToMake s l = none) →
    exec .fetchIssue s = .next s) ∧
  (∀ (s : State) (n : Nat) (l : LaneId), s.fetchWait = none → n < 64 → l = s.scanPos + Fin.ofNat 64 n →
    (∀ m, m < n →
      prefetchToMake s (s.scanPos + Fin.ofNat 64 m) = none ∧ interjectToMake s (s.scanPos + Fin.ofNat 64 m) = none) →
    (∀ f o, prefetchToMake s l = some f → (s.lane l).on = some o →
      (interjectToMake s l = none ∨ o.fetch.lastWasInterject ≠ some false) →
      exec .fetchIssue s = .next { s with
        scanPos := l + 1
        fetchWait := some ({ lane := l, interject := false, gen := (s.lane l).queueGen, origin := f.1, addr := f.2.1
                             runStart := f.2.2.1, dead := false }, 0)
        lanes := s.lanes.set l { s.lane l with
          on := some { o with fetch := { o.fetch with cursor := some f.2.2.2, lastWasInterject := some false } } } }) ∧
    (∀ f o, interjectToMake s l = some f → (s.lane l).on = some o →
      (prefetchToMake s l = none ∨ o.fetch.lastWasInterject = some false) →
      exec .fetchIssue s = .next { s with
        scanPos := l + 1
        fetchWait := some ({ lane := l, interject := true, gen := (s.lane l).interjectGen, origin := f.1, addr := f.2.1
                             runStart := f.2.2.1, dead := false }, 0)
        lanes := s.lanes.set l { s.lane l with
          on := some { o with fetch := { o.fetch with
            interjectCursor := some f.2.2.2, lastWasInterject := some true } } } })) ∧
  ∀ (s : State) (l : LaneId),
    let flying : Bool → Nat := fun i => (s.fetches.filter fun f =>
      decide (f.lane = l ∧ f.interject = i ∧ f.dead = false ∧
        f.gen = if i then (s.lane l).interjectGen else (s.lane l).queueGen)).length
    let outdated : Bool → Prop := fun i => ∃ f, f ∈ s.fetches ∧ (f.dead = true ∨
      (f.lane = l ∧ f.interject = i ∧ f.gen ≠ if i then (s.lane l).interjectGen else (s.lane l).queueGen))
    ((s.lane l).on = none → prefetchToMake s l = none ∧ interjectToMake s l = none) ∧
    ∀ r o, (s.lane l).record = some r → (s.lane l).on = some o →
      (r.role = .source → prefetchToMake s l = none ∧ interjectToMake s l = none) ∧
      (r.role = .output →
        (∀ f, prefetchToMake s l = some f ↔ o.fetch.source.isSome = true ∧ o.fetch.queue.length + flying false < 8 ∧
          ¬ outdated false ∧ ∃ c, o.fetch.cursor = some c ∧ nextFetch s c = some f) ∧
        ∀ f, interjectToMake s l = some f ↔ o.fetch.interject.length + flying true < 2 ∧ ¬ outdated true ∧
          ∃ c b, o.fetch.interjectCursor = some c ∧ (s.clip c.clip).body = some b ∧
            f = (.clip c.clip c.packet, b.address + 192 * c.packet, c.fresh || c.packet == 0,
              { clip := c.clip, packet := if c.packet + 1 < b.length then c.packet + 1 else 0, fresh := false })) ∧
      (∀ c k b fresh, (s.clip c).body = some b → nextFetch s (.loop c k fresh) =
        some (.clip c k, b.address + 192 * k, fresh || k == 0,
          .loop c (if k + 1 < b.length then k + 1 else 0) false)) ∧
      (∀ i b list pad n c k cb fresh, (s.order i).body = some b → b.source = .clips list pad → list[n]? = some c →
        (s.clip c).body = some cb → nextFetch s (.insertion i (.playlist n k) fresh) =
          some (.clip c k, cb.address + 192 * k, fresh || k == 0,
            .insertion i (if k + 1 < cb.length then .playlist n (k + 1)
              else if n + 1 < list.length then .playlist (n + 1) 0
              else if pad.isSome then .pad 0 else .exhausted) false)) ∧
      (∀ i b list c k cb fresh, (s.order i).body = some b → b.source = .clips list (some c) → (s.clip c).body = some cb →
        nextFetch s (.insertion i (.pad k) fresh) =
          some (.clip c k, cb.address + 192 * k, fresh || k == 0,
            .insertion i (if k + 1 < cb.length then .pad (k + 1) else .pad 0) false)) ∧
      (∀ i fresh, nextFetch s (.insertion i .exhausted fresh) = none) ∧
      ∀ u ru, (s.lane u.source).record = some ru → nextFetch s (.tap u) =
        match u.pos with
        | .placed n (d + 1) => some (.tap u.source n, ru.base + 192 * n, u.fresh,
          .tap { u with pos := .placed ((n + 1) % ru.slots) d, fresh := false })
        | _ => none

/-- R64, R69, R73, R134: a fetch whose third line returns joins the tail of its lane's queue, or interject buffer, with the
returned packet and stamp and its fault field; an OFF lane's, one of an older generation or one from before a reset is
discarded; a faulted interject fetch does not join: the clip's read-fault flag and the alert's fetch-fault mark are set, the
lane counts and flags a fetch fault, and the cursor of the lane's effective entry moves past the packet, back to packet 0
after the clip's last. The data is taken in every case. (That it moves one packet on from where it stands, as past a packet
sent, is a deduction: log entry 24. An older generation is told by its 8-bit number alone, the model's choice: log entry 39.)
-/
def Obligations.FetchCompleteJoinsTheQueue : Prop :=
  ∀ (d : SlotData) (errs : BitVec 3) (s : State) (f : FetchTag) (last : Bool) (rest : List MemRead),
    nextDue s.memReads = some (.fetch f last, rest) →
    let entry : QueueEntry := { packet := d.extractLsb' 32 1504, stamp := d.extractLsb' 0 32, origin := f.origin
                                runStart := f.runStart, fault := errs != 0 }
    ((s.lane f.lane).on = none ∨ f.dead = true ∨
        f.gen ≠ (if f.interject then (s.lane f.lane).interjectGen else (s.lane f.lane).queueGen) →
      exec (.fetchComplete d errs) s = .next { s with memReads := rest }) ∧
    ∀ o, (s.lane f.lane).on = some o → f.dead = false →
      (f.interject = false → f.gen = (s.lane f.lane).queueGen →
        exec (.fetchComplete d errs) s = .next { s with
          memReads := rest
          lanes := s.lanes.set f.lane { s.lane f.lane with
            on := some { o with fetch := { o.fetch with queue := o.fetch.queue ++ [entry] } } } }) ∧
      (f.interject = true → f.gen = (s.lane f.lane).interjectGen → errs = 0 →
        exec (.fetchComplete d errs) s = .next { s with
          memReads := rest
          lanes := s.lanes.set f.lane { s.lane f.lane with
            on := some { o with fetch := { o.fetch with interject := o.fetch.interject ++ [entry] } } } }) ∧
      (f.interject = true → f.gen = (s.lane f.lane).interjectGen → errs ≠ 0 → ∀ c n, f.origin = .clip c n →
        ∃ t, exec (.fetchComplete d errs) s = .next t ∧ t.memReads = rest ∧
          (t.lane f.lane).counts = ((s.lane f.lane).raise .fetchFault).counts ∧
          (t.lane f.lane).flag .fetchFault = true ∧
          (t.lane f.lane).on.map (fun o => o.fetch.interject) = some o.fetch.interject ∧
          (∀ m, t.clip m = if m = c then { s.clip m with readFault := true } else s.clip m) ∧
          (effectiveEntry s o.stack = none → t.alerts = s.alerts ∧ (t.lane f.lane).on = some o) ∧
          ∀ e b, effectiveEntry s o.stack = some e → (s.clip c).body = some b →
            t.alert e.id = { s.alert e.id with fetchFault := true } ∧ (∀ z, z ≠ e.id → t.alert z = s.alert z) ∧
            (t.lane f.lane).on = some { o with stack := o.stack.map fun z =>
              if z.id = e.id then { z with cursor := if e.cursor + 1 < b.length then e.cursor + 1 else 0 } else z })

/-- R175: with the ring SET and no record write in flight, the head record leaves the queue. In a full ring it is counted in
the gap, held at 65,535. Otherwise it becomes the one write in flight, to the half of the line that holds place W, even places
low, with that half's 32 enables, the 32 bytes of Table 12-8 and the gap count, which becomes 0; W does not move. The bytes of
the line whose enables are clear are 0, the model's choice (log entry 42), and a served count of 2^32 or more is left open
(log entry 7). R173, R176, R182: a record write granted and completed without error moves W to the next place, sets the urgent
position for an urgent kind, starts the coalesce timer where nothing was unread, and judges the causes; a completion for an
abandoned write, or for one granted before a reset, moves nothing. (That completions return in the order the writes were
granted is a deduction: log entry 14.) With the ring UNSET, an empty queue or a write in flight no issue is due: that the
command for it then changes nothing is the model's choice (log entry 11), as is one head for each command (log entry 34). -/
def Obligations.RecordWritesFillTheRing : Prop :=
  ((∀ (s : State) (g : RingSetup) (x : AsRun) (q : List AsRun), s.report.setup = some g → s.report.queue = x :: q →
     s.report.flight = none →
     let half := 32 * (s.report.w % 2)
     ((s.report.w + g.size - s.report.h) % g.size = g.size - 1 →
       exec .recordWriteIssue s = .next { s with
         report := { s.report with queue := q, gap := min 65535 (s.report.gap + 1) } }) ∧
     ((s.report.w + g.size - s.report.h) % g.size ≠ g.size - 1 →
       ∃ line, exec .recordWriteIssue s = .next { s with
           report := { s.report with
             queue := q
             gap := 0
             flight := some
               { kind := x.kind
                 gap := s.report.gap
                 addr := BitVec.ofNat 36 (g.base + 64 * (s.report.w / 2))
                 data := line
                 enables := if s.report.w % 2 = 0 then 0x00000000FFFFFFFF#64 else 0xFFFFFFFF00000000#64
                 granted := false
                 abandoned := false } } } ∧
         Shows line half
           [(0, 1, match x.kind with
              | .insertComplete => 1
              | .insertShort => 2
              | .insertTruncated => 3
              | .insertAborted => 4
              | .cueRefused => 5
              | .feedLost => 6
              | .feedRestored => 7
              | .alertStart => 8
              | .alertEnd => 9),
            (1, 1, x.lane), (2, 1, x.flags.toNat), (3, 1, x.order), (4, 2, x.firstClip), (6, 4, x.event.toNat),
            (10, 5, x.timeIn.toNat), (15, 5, x.timeOut.toNat), (24, 2, min 65535 x.underrun), (26, 2, s.report.gap),
            (28, 4, x.ms.toNat)] ∧
         (x.served < 2 ^ 32 → Shows line half [(20, 4, x.served)]) ∧
         ∀ j, j < 64 → ¬ (half ≤ j ∧ j < half + 32) → getByte line j = 0)) ∧
   ∀ s : State, s.report.setup = none ∨ s.report.queue = [] ∨ s.report.flight.isSome = true →
     exec .recordWriteIssue s = .next s) ∧
  ((∀ (s : State) (g : RingSetup) (x : RecordWrite), s.report.orphans = 0 → s.report.setup = some g →
     s.report.flight = some x → x.granted = true → x.abandoned = false →
     ∃ t, exec (.recordWriteComplete false) s = .next t ∧ t = { s with report := t.report } ∧
       t.report = { s.report with
         flight := none
         w := (s.report.w + 1) % g.size
         urgentPos := if g.urgent.getLsbD (x.kind.code - 1) then some s.report.w else s.report.urgentPos
         timer := if s.report.unread = 0 then .running s.stationMs else s.report.timer
         attention := t.report.attention } ∧
       t.report.attention = t.report.anyCause) ∧
   (∀ (err : Bool) (s : State) (g : RingSetup) (x : RecordWrite), s.report.orphans = 0 → s.report.setup = some g →
     s.report.flight = some x → x.granted = true → x.abandoned = true →
     exec (.recordWriteComplete err) s = .next { s with report := { s.report with flight := none } }) ∧
   ∀ (err : Bool) (s : State) (n : Nat), s.report.orphans = n + 1 →
     exec (.recordWriteComplete err) s = .next { s with report := { s.report with orphans := n } })

/-- R177: a record write that completes with the error indication leaves W where it is and adds the gap value it carried and 1 to
the gap count, held at 65,535, and changes nothing else; the next record taken goes to the same place and carries that
count, unless the ring is full. -/
def Obligations.FailedRecordWriteKeepsGaps : Prop :=
  ∀ (s : State) (g : RingSetup) (x : RecordWrite), s.report.orphans = 0 → s.report.setup = some g →
    s.report.flight = some x → x.granted = true → x.abandoned = false →
    let t : State := { s with report := { s.report with flight := none, gap := min 65535 (s.report.gap + x.gap + 1) } }
    exec (.recordWriteComplete true) s = .next t ∧
      ∀ y q, s.report.queue = y :: q → s.report.unread ≠ g.size - 1 →
        ∃ u z, exec .recordWriteIssue t = .next u ∧ u.report.flight = some z ∧ z.kind = y.kind ∧
          z.gap = min 65535 (s.report.gap + x.gap + 1) ∧ z.addr = BitVec.ofNat 36 (g.base + 64 * (s.report.w / 2)) ∧
          u.report.w = s.report.w ∧ u.report.gap = 0

/-- R29, R180, R181: a VALID model whose last capture lies more than the stale limit back becomes STALE with its anchor and
capture time kept, and is counted and flagged. The coalesce timer, RUNNING for more than the coalesce time, becomes EXPIRED
and the causes are judged: with records unread the attention line is asserted. In every other case the expiry is not due and
nothing changes, the model's choice (log entry 11). -/
def Obligations.StaleAndCoalesceTimersExpire : Prop :=
  ((∀ (s : State) (l : LaneId) (r : LaneRecord) (o : OnLane) (an : Anchor) (cap : Millis), (s.lane l).record = some r →
     (s.lane l).on = some o → o.clock = .valid an cap → r.staleLimit < (s.stationMs - cap).toNat →
     exec (.staleTimerExpiry l) s = .next { s with
       lanes := s.lanes.set l { (s.lane l).note .stale .stale with on := some { o with clock := .stale an cap } } }) ∧
   ∀ (s : State) (l : LaneId),
     (∀ r o an cap, (s.lane l).record = some r → (s.lane l).on = some o → o.clock = .valid an cap →
       (s.stationMs - cap).toNat ≤ r.staleLimit) →
     exec (.staleTimerExpiry l) s = .next s) ∧
  ((∀ (s : State) (g : RingSetup) (start : Millis), s.report.setup = some g → s.report.timer = .running start →
     g.coalesce < (s.stationMs - start).toNat → 0 < s.report.unread →
     exec .coalesceTimerExpiry s =
       .next { s with report := { s.report with timer := .expired, attention := true } }) ∧
   ∀ s : State, (∀ g start, s.report.setup = some g → s.report.timer = .running start →
       (s.stationMs - start).toNat ≤ g.coalesce) →
     exec .coalesceTimerExpiry s = .next s)

/-- R63, R104 to R106, R112, R116: the loss timer of a LIVE lane, run past its loss limit, takes the feed to LOST: timer
stopped, good count 0, capture-seen mark clear, an outage record open from P of the previous decided stamp, or 0 without one
or on a SOURCE lane, with counts 0; the FEED_LOST record is handed over, an active insertion has FEED_LOST_DURING, and the
fetch source is judged by Table 4-3 (no run state where the loss source is selected: the model's choice, log entry 41); no
tracker, no other lane and no order changes. That of a RECOVERING lane takes the feed to LOST too, counted and flagged as a
flap; an outage record stays as it is, no record is produced, the fetch source is not judged, and nothing else changes. On an
OFF or LOST lane, without a timer or within the limit the expiry is not due: that the command for it then changes nothing is
the model's choice (log entry 11). -/
def Obligations.LossTimerTakesTheFeedToLost : Prop :=
  (∀ (s : State) (l : LaneId) (r : LaneRecord) (o : OnLane) (start : Millis), (s.lane l).record = some r →
    (s.lane l).on = some o → o.feed.lossTimer = some start → r.lossLimit < (s.stationMs - start).toNat →
    let time := if r.role = .source then 0 else (presentation o.clock r.playDelay o.track.prevStamp).getD 0
    (o.feed.state = .live →
      ∃ t o', exec (.lossTimerExpiry l) s = .next t ∧ (t.lane l).on = some o' ∧
        o'.feed = { state := .lost, lossTimer := none, good := 0, captureSeen := false
                    outage := some { start := time, served := 0, underrun := 0 } } ∧
        o'.active = o.active.map (fun a => { a with flags := { a.flags with feedLostDuring := true } }) ∧
        o'.track = o.track ∧ o'.waiting = o.waiting ∧ o'.stack = o.stack ∧
        SourceJudged t r (s.lane l) o (t.lane l) o' ∧ o'.fetch.interject = o.fetch.interject ∧
        t.lane l = { s.lane l with on := some o', queueGen := (t.lane l).queueGen } ∧
        (∀ m, m ≠ l → t.lane m = s.lane m) ∧ t.orders = s.orders ∧ t.clips = s.clips ∧
        t.report = s.report.handOver
          { kind := .feedLost, lane := l.val, flags := 0, order := (o.active.map fun a => a.order.val).getD 0
            firstClip := (match r.lossSource with
              | .slate c => c.val
              | _ => 0xFFFF)
            event := (o.active.map fun a => a.event).getD 0, timeIn := time, timeOut := 0, served := 0, underrun := 0
            ms := s.stationMs }) ∧
    (o.feed.state = .recovering →
      exec (.lossTimerExpiry l) s = .next { s with
        lanes := s.lanes.set l { (s.lane l).note .flap .flap with
          on := some { o with
            feed := { state := .lost, lossTimer := none, good := 0, captureSeen := false, outage := o.feed.outage } } } })) ∧
  ∀ (s : State) (l : LaneId),
    (∀ r o start, (s.lane l).record = some r → (s.lane l).on = some o → o.feed.lossTimer = some start →
      o.feed.state = .lost ∨ (s.stationMs - start).toNat ≤ r.lossLimit) →
    exec (.lossTimerExpiry l) s = .next s

/-- R121, R123, R135: the duration timer of an alert, run past its duration, ends the alert by R121 with cause EXPIRED. Without
a timer running past the duration the expiry is not due and nothing changes, the model's choice (log entry 11). (Where the
expiry of an OVERRIDE SELECTS the loss source, that there is no loss-source run state is the model's choice, log entry 41: R140
discards it only when the loss source stops being the fetch source.) -/
def Obligations.AlertDurationEndsTheAlert : Prop :=
  (∀ (s : State) (a : AlertId) (b : AlertBody), (s.alert a).body = some b → (s.alert a).timer = true →
    b.duration < (s.stationMs - (s.alert a).start).toNat →
    ∃ t, exec (.alertDurationExpiry a) s = .next t ∧ AlertEnding s t a b .expired) ∧
  ∀ (s : State) (a : AlertId),
    (∀ b, (s.alert a).body = some b → (s.alert a).timer = true →
      (s.stationMs - (s.alert a).start).toNat ≤ b.duration) →
    exec (.alertDurationExpiry a) s = .next s

/-! ## Packets and stream time -/

/-- R28, R44, R46: a refresh moves the anchor along the model without changing it: a stamp's estimate from the refreshed anchor
is its estimate from the old one, wherever the stamp lies within the signed range of both anchors on the same side of the
wrap. -/
def Obligations.RefreshKeepsTheRelation : Prop :=
  ∀ (an : Anchor) (cap : Millis) (a b : Arrival), an.clock < clockModulus →
    arrivalDiff a an.stamp + arrivalDiff b a = arrivalDiff b an.stamp →
    (∃ an', ClockModel.refresh (.valid an cap) (some a) = .valid an' cap ∧ an'.stamp = a ∧ an'.clock < clockModulus ∧
      estimateFrom an' b = estimateFrom an b) ∧
    ∃ an', ClockModel.refresh (.stale an cap) (some a) = .stale an' cap ∧ an'.stamp = a ∧ an'.clock < clockModulus ∧
      estimateFrom an' b = estimateFrom an b

/-- R35: the check over section bytes 0..L-1 equals the four check bytes, most significant first, exactly when the check over
bytes 0..L+3 is 0. -/
def Obligations.SectionCheckResidueIsZero : Prop :=
  ∀ (p : Packet) (at_ n : Nat),
    crcOver p at_ n = BitVec.ofNat 32 (packetNumber p (at_ + n) 4) ↔ crcOver p at_ (n + 4) = 0#32

/-- R54, R56, R185: a stamp rewrite writes the 33 value bits and nothing else: the stamp reads back, the marker bit of the
first, third and fifth byte and the top four bits of the first are kept, and so is every other byte. A label rewrite keeps bits
7..5 of byte 1 and every byte but 1 and 2, a count rewrite bits 7..4 of byte 3 and every other byte, and each reads back. A
clock-reference rewrite reads back base and extension, writes bits 6..1 of byte 10 as ones and keeps every byte outside 6..11. -/
def Obligations.RewritesChangeTheirBitsOnly : Prop :=
  (∀ (p : Packet) (k : Nat) (t : Stamp), k + 5 ≤ 188 →
    getStamp (setStamp p k t) k = t ∧
      (getByte (setStamp p k t) k).extractLsb' 4 4 = (getByte p k).extractLsb' 4 4 ∧
      (∀ j, j = 0 ∨ j = 2 ∨ j = 4 →
        (getByte (setStamp p k t) (k + j)).extractLsb' 0 1 = (getByte p (k + j)).extractLsb' 0 1) ∧
      ∀ j, j < k ∨ k + 5 ≤ j → getByte (setStamp p k t) j = getByte p j) ∧
  (∀ (p : Packet) (lb : Label), packetLabel (setLabel p lb) = lb ∧
    (getByte (setLabel p lb) 1).extractLsb' 5 3 = (getByte p 1).extractLsb' 5 3 ∧
    ∀ j, j ≠ 1 → j ≠ 2 → getByte (setLabel p lb) j = getByte p j) ∧
  (∀ (p : Packet) (c : BitVec 4), packetCount (setCount p c) = c ∧
    (getByte (setCount p c) 3).extractLsb' 4 4 = (getByte p 3).extractLsb' 4 4 ∧
    ∀ j, j ≠ 3 → getByte (setCount p c) j = getByte p j) ∧
  ∀ (p : Packet) (base : Stamp) (ext : BitVec 9),
    clockRefBase (setClockRef p base ext) = base ∧ clockRefExt (setClockRef p base ext) = ext ∧
      (getByte (setClockRef p base ext) 10).extractLsb' 1 6 = 0x3F#6 ∧
      ∀ j, j < 6 ∨ 11 < j → getByte (setClockRef p base ext) j = getByte p j

/-- R147, R149, R150: the counts that go out on a map entry run on unbroken. A substituted packet with payload carries the last
count and 1, the first one 0; the first network packet with payload after a return to the network carries the last count and
1, whatever count it came with, and each following network packet whose own count is one higher carries one more. -/
def Obligations.ContinuityRunsUnbroken : Prop :=
  ∀ (c : Continuity) (n e : BitVec 4), c.last = some n →
    (Continuity.substituted true c).1 = n + 1 ∧ (Continuity.substituted true c).2.last = some (n + 1) ∧
    (Continuity.substituted true { c with last := none }).1 = 0 ∧
    ∀ (inputs : List (BitVec 4)) (first : BitVec 4),
      (∀ i (h : i < inputs.length), inputs[i] = first + BitVec.ofNat 4 i) →
      c.pending = true →
      let run := inputs.foldl
        (fun (acc : List (BitVec 4) × Continuity) x =>
          (acc.1 ++ [(Continuity.network e true x acc.2).1], (Continuity.network e true x acc.2).2)) ([], c)
      ∀ i (h : i < run.1.length), run.1[i] = n + 1 + BitVec.ofNat 4 i
end

