-- ==== Sys2Proof/Laws/Fields.lean ====
section
/-! SUPPORT. The check lists of the postings hold exactly the fields at fault that the tables of the manual give, lowest first. -/

namespace Sys2Proof.Machine

/-- No field is at fault exactly when a check list marks none. -/
theorem firstBad_eq_none (cs : List (Nat × Bool)) : firstBad cs = none ↔ ∀ n, (n, true) ∉ cs := by
  induction cs with
  | nil => simp [firstBad]
  | cons c cs ih =>
    obtain ⟨i, bad⟩ := c
    cases bad
    · simp [firstBad, ih]
    · simp only [firstBad, if_true, reduceCtorEq, false_iff, not_forall]
      exact ⟨i, by simp⟩

/-- The first field at fault of a check list of rising indices is the lowest one it marks. -/
theorem firstBad_eq_some (cs : List (Nat × Bool)) (rising : cs.Pairwise fun a b => a.1 < b.1) (i : Nat) :
    firstBad cs = some i ↔ FirstAt (fun n => (n, true) ∈ cs) i := by
  unfold FirstAt
  induction cs with
  | nil => simp [firstBad]
  | cons c cs ih =>
    obtain ⟨j, bad⟩ := c
    obtain ⟨low, rest⟩ := List.pairwise_cons.1 rising
    cases bad
    · simpa [firstBad] using ih rest
    · simp only [firstBad, if_true, Option.some.injEq, List.mem_cons, Prod.mk.injEq, and_true]
      constructor
      · rintro rfl
        exact ⟨.inl rfl, fun m less at_ => at_.elim (by omega) fun h => absurd (low _ h) (by simp; omega)⟩
      · rintro ⟨rfl | h, least⟩
        · rfl
        · exact absurd (.inl rfl) (least j (low _ h))

/-- The lists of a check list that marks the fields with a property: none has it, or the lowest that has it is the first marked. -/
theorem firstBad_of_iff {cs : List (Nat × Bool)} {bad : Nat → Prop} (same : ∀ n, bad n ↔ (n, true) ∈ cs)
    (rising : cs.Pairwise fun a b => a.1 < b.1) :
    (firstBad cs = none ↔ ∀ n, ¬ bad n) ∧ ∀ i, firstBad cs = some i ↔ FirstAt bad i := by
  have : bad = fun n => (n, true) ∈ cs := funext fun n => propext (same n)
  subst this
  exact ⟨firstBad_eq_none cs, firstBad_eq_some cs rising⟩

/-- The values of a function on the numbers below `n` repeat exactly where two of them are equal. -/
theorem nodup_map_range (g : Nat → Nat) (n : Nat) :
    ((List.range n).map g).Nodup ↔ ∀ j k, j < k → k < n → g j ≠ g k := by
  rw [List.Nodup, List.pairwise_map, List.pairwise_iff_getElem]
  simp only [List.length_range, List.getElem_range]
  exact ⟨fun h j k less inside => h j k (by omega) inside less, fun h j k _ inside less => h j k less inside⟩

/-- The kind codes that name no kind are 0 and those above 8. -/
theorem streamKindOf_isNone (n : Nat) : streamKindOf n = none ↔ n = 0 ∨ 8 < n := by
  rcases Nat.lt_or_ge 8 n with above | inside
  · have : streamKindOf n = none := by
      unfold streamKindOf
      split <;> first | rfl | omega
    simp [this, above]
  · interval_cases n <;> simp [streamKindOf]

/-- The entries of a list field, one by one. -/
theorem mem_listEntries (x : RecordData) (off count : Nat) (e : Nat × Nat) :
    e ∈ listEntries x off count ↔
      ∃ k, k < count ∧ k < 8 ∧ (field x (off + 4 * k) 1, field x (off + 4 * k + 2) 2) = e := by
  simp [listEntries, and_assoc]

/-- The list check marks the lists at fault of R1 and R59. -/
theorem badList_iff (x : RecordData) (off count : Nat) : badList (listEntries x off count) = true ↔ ListBad x off count := by
  have kinds : ((listEntries x off count).map Prod.fst).Nodup ↔
      ∀ j k, j < k → k < min count 8 → field x (off + 4 * j) 1 ≠ field x (off + 4 * k) 1 := by
    rw [listEntries, List.map_map]
    exact nodup_map_range _ _
  have labels : ((listEntries x off count).map Prod.snd).Nodup ↔
      ∀ j k, j < k → k < min count 8 → field x (off + 4 * j + 2) 2 ≠ field x (off + 4 * k + 2) 2 := by
    rw [listEntries, List.map_map]
    exact nodup_map_range _ _
  simp only [badList, Bool.or_eq_true, List.any_eq_true, Bool.not_eq_true', decide_eq_false_iff_not, kinds, labels,
    mem_listEntries, Option.isNone_iff_eq_none, streamKindOf_isNone, decide_eq_true_eq, ListBad]
  push Not
  constructor
  · rintro ((⟨_, ⟨k, h1, h2, rfl⟩, bad⟩ | ⟨j, k, less, inside, twice⟩) | ⟨j, k, less, inside, twice⟩)
    · exact .inl ⟨k, h1, h2, by simpa [maxLabel, or_assoc] using bad⟩
    · exact .inr ⟨j, k, less, by omega, by omega, .inl twice⟩
    · exact .inr ⟨j, k, less, by omega, by omega, .inr twice⟩
  · rintro (⟨k, h1, h2, bad⟩ | ⟨j, k, less, h1, h2, twice | twice⟩)
    · exact .inl (.inl ⟨_, ⟨k, h1, h2, rfl⟩, by simpa [maxLabel, or_assoc] using bad⟩)
    · exact .inl (.inr ⟨j, k, less, by omega, twice⟩)
    · exact .inr ⟨j, k, less, by omega, twice⟩

/-- A lane is configured with a role exactly where the model's test says so. -/
theorem configuredAs_iff (s : State) (n : Nat) (role : Role) : configuredAs s n role = true ↔ Configured s n role := by
  unfold configuredAs Configured
  split
  · rename_i h
    constructor
    · intro is_
      cases record : (s.lane ⟨n, h⟩).record with
      | none => simp [record] at is_
      | some r => exact ⟨⟨n, h⟩, r, rfl, record, by simpa [record] using is_⟩
    · rintro ⟨l, r, rfl, record, rfl⟩
      simp [record]
  · rename_i h
    simp only [Bool.false_eq_true, false_iff, not_exists, not_and]
    rintro l r rfl
    exact absurd l.isLt h

/-- The check list of LANE CONFIGURE marks the fields at fault of R1. -/
theorem laneChecks_mem (x : RecordData) (n : Nat) : LaneFieldBad x n ↔ (n, true) ∈ laneChecks x := by
  unfold LaneFieldBad
  split <;> simp_all [laneChecks, laneLossChecks, laneMapEntries, badList_iff, mem_listEntries, or_assoc]
  all_goals simp [maxLabel]

/-- The check list of CLIP DECLARE marks the fields at fault of R59. -/
theorem clipChecks_mem (x : RecordData) (n : Nat) : ClipFieldBad x n ↔ (n, true) ∈ clipChecks x := by
  unfold ClipFieldBad
  split <;> simp_all [clipChecks, clipListEntries, badList_iff]

/-- The check list of ORDER LOAD marks the fields at fault of R79. -/
theorem orderChecks_mem (s : State) (x : RecordData) (n : Nat) : OrderFieldBad s x n ↔ (n, true) ∈ orderChecks s x := by
  have not_ : ∀ m role, configuredAs s m role = false ↔ ¬ Configured s m role := fun m role => by
    simp [← configuredAs_iff]
  unfold OrderFieldBad
  split <;> simp_all [orderChecks, playlistIds, and_assoc]

/-- The check list of SCHEDULE marks the fields at fault of R95. -/
theorem scheduleChecks_mem (x : RecordData) (n : Nat) : ScheduleFieldBad x n ↔ (n, true) ∈ scheduleChecks x := by
  unfold ScheduleFieldBad
  split <;> simp_all [scheduleChecks]

/-- The check list of ALERT START marks the fields at fault of R119. -/
theorem alertChecks_mem (x : RecordData) (n : Nat) : AlertFieldBad x n ↔ (n, true) ∈ alertChecks x := by
  unfold AlertFieldBad
  split <;> simp_all [alertChecks]
  simp [maxLabel]

/-- The check list of REPORT SETUP marks the fields at fault of R172. -/
theorem reportChecks_mem (x : RecordData) (n : Nat) : ReportFieldBad x n ↔ (n, true) ∈ reportChecks x := by
  unfold ReportFieldBad
  split <;> simp_all [reportChecks, or_assoc]
  omega

theorem laneChecks_iff (x : RecordData) : (firstBad (laneChecks x) = none ↔ ∀ n, ¬ LaneFieldBad x n) ∧
    ∀ i, firstBad (laneChecks x) = some i ↔ FirstAt (LaneFieldBad x) i :=
  firstBad_of_iff (laneChecks_mem x) (by simp [laneChecks, laneLossChecks])

theorem clipChecks_iff (x : RecordData) : (firstBad (clipChecks x) = none ↔ ∀ n, ¬ ClipFieldBad x n) ∧
    ∀ i, firstBad (clipChecks x) = some i ↔ FirstAt (ClipFieldBad x) i :=
  firstBad_of_iff (clipChecks_mem x) (by simp [clipChecks])

theorem orderChecks_iff (s : State) (x : RecordData) : (firstBad (orderChecks s x) = none ↔ ∀ n, ¬ OrderFieldBad s x n) ∧
    ∀ i, firstBad (orderChecks s x) = some i ↔ FirstAt (OrderFieldBad s x) i :=
  firstBad_of_iff (orderChecks_mem s x) (by simp [orderChecks])

theorem scheduleChecks_iff (x : RecordData) : (firstBad (scheduleChecks x) = none ↔ ∀ n, ¬ ScheduleFieldBad x n) ∧
    ∀ i, firstBad (scheduleChecks x) = some i ↔ FirstAt (ScheduleFieldBad x) i :=
  firstBad_of_iff (scheduleChecks_mem x) (by simp [scheduleChecks])

theorem alertChecks_iff (x : RecordData) : (firstBad (alertChecks x) = none ↔ ∀ n, ¬ AlertFieldBad x n) ∧
    ∀ i, firstBad (alertChecks x) = some i ↔ FirstAt (AlertFieldBad x) i :=
  firstBad_of_iff (alertChecks_mem x) (by simp [alertChecks])

theorem reportChecks_iff (x : RecordData) : (firstBad (reportChecks x) = none ↔ ∀ n, ¬ ReportFieldBad x n) ∧
    ∀ i, firstBad (reportChecks x) = some i ↔ FirstAt (ReportFieldBad x) i :=
  firstBad_of_iff (reportChecks_mem x) (by simp [reportChecks])

/-! ## The loaded entries -/

/-- A field read from `n` bytes is below 2^(8 n). -/
theorem field_lt (x : RecordData) (off n : Nat) : field x off n < 2 ^ (8 * n) :=
  (x.extractLsb' (8 * off) (8 * n)).isLt

/-- A list of entries all of which name a kind gives one label entry for each, in order. -/
theorem labelEntries_getElem? (es : List (Nat × Nat)) (named : ∀ e, e ∈ es → (streamKindOf e.1).isSome = true) :
    (labelEntries es).length = es.length ∧ ∀ (k : Nat) (y : LabelEntry), (labelEntries es)[k]? = some y →
      ∃ e : Nat × Nat, es[k]? = some e ∧
      streamKindOf e.1 = some y.kind ∧ y.label = BitVec.ofNat 13 e.2 := by
  induction es with
  | nil => simp [labelEntries]
  | cons e es ih =>
    obtain ⟨kind, is_⟩ := Option.isSome_iff_exists.1 (named e (by simp))
    obtain ⟨length, entries⟩ := ih fun z at_ => named z (by simp [at_])
    have cons_ : labelEntries (e :: es) = { kind := kind, label := BitVec.ofNat 13 e.2 } :: labelEntries es := by
      simp [labelEntries, is_]
    refine ⟨by simp [cons_, length], fun k y at_ => ?_⟩
    cases k with
    | zero =>
      have : y = { kind := kind, label := BitVec.ofNat 13 e.2 } := by simpa [cons_, eq_comm] using at_
      exact ⟨e, by simp, by simp [this, is_], by simp [this]⟩
    | succ k =>
      obtain ⟨z, h⟩ := entries k y (by simpa [cons_] using at_)
      exact ⟨z, by simpa using h⟩

/-- A list that is not at fault, of a count within its room, is read entry for entry. -/
theorem listRead_of (x : RecordData) (off count : Nat) (room : count ≤ 8) (good : ¬ ListBad x off count) :
    ListRead x off count (labelEntries (listEntries x off count)) := by
  have fine : ∀ k, k < count → field x (off + 4 * k) 1 ≠ 0 ∧ field x (off + 4 * k) 1 ≤ 8 ∧
      field x (off + 4 * k + 2) 2 ≤ 0x1FFE := fun k h => by
    by_contra bad
    exact good (.inl ⟨k, h, by omega, by omega⟩)
  have named : ∀ e, e ∈ listEntries x off count → (streamKindOf e.1).isSome = true := fun e at_ => by
    obtain ⟨k, h, -, rfl⟩ := (mem_listEntries x off count e).1 at_
    have := fine k h
    simpa [Option.isSome_iff_ne_none, streamKindOf_isNone] using ⟨this.1, this.2.1⟩
  obtain ⟨length, entries⟩ := labelEntries_getElem? _ named
  refine ⟨by rw [length]; simp [listEntries, room], fun k y at_ => ?_⟩
  obtain ⟨e, is_, kind, label⟩ := entries k y at_
  have inside : k < count := by
    have := (List.getElem?_eq_some_iff.1 is_).1
    simp [listEntries] at this
    omega
  have : e = (field x (off + 4 * k) 1, field x (off + 4 * k + 2) 2) := by
    have : k < 8 := by omega
    simpa [listEntries, inside, this, eq_comm] using is_
  have := fine k inside
  subst e
  exact ⟨kind, by rw [label, BitVec.toNat_ofNat]; exact Nat.mod_eq_of_lt (by simp only; omega)⟩

/-- A LANE CONFIGURE record without a field at fault gives the lane record of its fields. -/
theorem laneRead_of (x : RecordData) (good : ∀ n, ¬ LaneFieldBad x n) : LaneRead x (laneRecordOf x) := by
  have zone := good 3; have clock := good 6; have cue := good 7; have kind := good 15; have slate := good 16
  have backup := good 17; have mode := good 18; have count := good 20; have entries := good 21
  simp only [LaneFieldBad] at zone clock cue kind slate backup mode count entries
  have cueLow : field x 0x16 2 ≠ 0xFFFF → field x 0x16 2 ≤ 0x1FFE := fun h => by
    by_contra high
    exact cue ⟨h, .inl (by omega)⟩
  refine ⟨rfl, ⟨rfl, rfl, ?_⟩, ⟨?_, ?_⟩, listRead_of x _ _ (by omega) entries, ⟨rfl, rfl, rfl, rfl, rfl, rfl, rfl⟩, ?_, ?_, ?_⟩
  · simp [laneRecordOf]; omega
  · simp [laneRecordOf]; omega
  · by_cases h : field x 0x16 2 = 0xFFFF
    · simp [laneRecordOf, h]
    · have := cueLow h
      simp [laneRecordOf, h]; omega
  · intro h; simp [laneRecordOf, laneLossSource, h]
  · intro h
    exact ⟨_, by simp [laneRecordOf, laneLossSource, h]; rfl, by simp; omega⟩
  · intro h
    refine ⟨_, _, by simp [laneRecordOf, laneLossSource, h]; exact ⟨rfl, rfl⟩, by simp; omega, ?_⟩
    simp [stampModeOf]

/-- A CLIP DECLARE record without a field at fault gives the clip of its fields. -/
theorem clipRead_of (x : RecordData) (good : ∀ n, ¬ ClipFieldBad x n) : ClipRead x (clipBodyOf x) := by
  have first := good 4; have count := good 5; have entries := good 6
  simp only [ClipFieldBad] at first count entries
  refine ⟨⟨rfl, rfl⟩, ?_, listRead_of x _ _ (by omega) entries⟩
  simp [clipBodyOf]; omega

/-- An ORDER LOAD record without a field at fault gives the order of its fields. -/
theorem orderRead_of (s : State) (x : RecordData) (good : ∀ n, ¬ OrderFieldBad s x n) : OrderRead x (orderBodyOf x) := by
  have lane := good 2; have count := good 8; have ids := good 9; have pad := good 10; have source := good 11
  simp only [OrderFieldBad, not_not] at lane count ids pad source
  have four : ∀ off, field x off 4 < 2 ^ 32 := fun off => field_lt x off 4
  have m := four 0x04; have c := four 0x08
  refine ⟨?_, ⟨?_, ?_⟩, ⟨rfl, rfl⟩, fun h => ?_, fun h => ?_⟩
  · obtain ⟨l, r, is_, -⟩ := lane
    simp [orderBodyOf, is_]
  · simp [orderBodyOf]; omega
  · simp [orderBodyOf]; omega
  · refine ⟨_, _, by simp [orderBodyOf, h]; exact ⟨rfl, rfl⟩, ?_, ?_⟩
    · have room : min (field x 0x10 1) 6 = field x 0x10 1 := by omega
      rw [playlistIds, room, List.map_map, List.map_map]
      refine List.map_congr_left fun k at_ => ?_
      have inside := List.mem_range.1 at_
      have low : field x (0x12 + 2 * k) 2 ≤ 511 := by
        by_contra high
        exact ids ⟨h, k, inside, by omega, by omega⟩
      simp; omega
    · by_cases absent : field x 0x20 2 = 0xFFFF
      · simp [absent]
      · have low : field x 0x20 2 ≤ 511 := by
          by_contra high
          exact pad ⟨h, absent, by omega⟩
        simp [absent]; omega
  · refine ⟨_, _, by simp [orderBodyOf, h]; exact ⟨rfl, rfl⟩, ?_, by simp [stampModeOf]⟩
    have : Configured s (field x 0x22 1) .source := by
      by_contra not_
      exact source ⟨h, not_⟩
    obtain ⟨l, r, is_, -⟩ := this
    simp [is_]

/-- An ALERT START record without a field at fault gives the alert of its fields. -/
theorem alertRead_of (x : RecordData) (good : ∀ n, ¬ AlertFieldBad x n) : AlertRead x (alertBodyOf x) := by
  have clip := good 4; have label := good 5
  simp only [AlertFieldBad] at clip label
  have zones := field_lt x 0x02 2
  refine ⟨?_, ?_, rfl, fun h => by simp [alertBodyOf, h], fun h => ⟨_, by simp [alertBodyOf, h]; rfl, ?_⟩⟩
  · simp [alertBodyOf]; omega
  · simp [alertBodyOf]; omega
  · simp; omega

/-- A REPORT SETUP record gives the ring of its fields. -/
theorem ringRead_of (x : RecordData) : RingRead x (ringSetupOf x) := by
  refine ⟨⟨rfl, rfl⟩, ⟨rfl, rfl⟩, fun h k low high => ?_, fun h k low high => ?_⟩
  · have : (ringSetupOf x).urgent = defaultUrgent := by simp [ringSetupOf, h, markSet]
    rw [this]
    interval_cases k <;> decide
  · simp [ringSetupOf, h, markSet, BitVec.getLsbD_ofNat]
    omega

end Sys2Proof.Machine
end

