-- ==== Sys2Proof/Laws/State.lean ====
section
/-! SUPPORT. The fields of State under each of its updates: one lemma for each field an update leaves alone, and what the
table accessors read after the update of an entry. -/

namespace Sys2Proof.Machine

/-! ## State.setLane -/

@[simp] theorem State.setLane_pending (s : State) (l : LaneId) (x : Lane) :
    (s.setLane l x).pending = s.pending := rfl
@[simp] theorem State.setLane_pin (s : State) (l : LaneId) (x : Lane) :
    (s.setLane l x).pin = s.pin := rfl
@[simp] theorem State.setLane_stationTime (s : State) (l : LaneId) (x : Lane) :
    (s.setLane l x).stationTime = s.stationTime := rfl
@[simp] theorem State.setLane_msPhase (s : State) (l : LaneId) (x : Lane) :
    (s.setLane l x).msPhase = s.msPhase := rfl
@[simp] theorem State.setLane_stationMs (s : State) (l : LaneId) (x : Lane) :
    (s.setLane l x).stationMs = s.stationMs := rfl
@[simp] theorem State.setLane_upOrder (s : State) (l : LaneId) (x : Lane) :
    (s.setLane l x).upOrder = s.upOrder := rfl
@[simp] theorem State.setLane_memReads (s : State) (l : LaneId) (x : Lane) :
    (s.setLane l x).memReads = s.memReads := rfl
@[simp] theorem State.setLane_upWrites (s : State) (l : LaneId) (x : Lane) :
    (s.setLane l x).upWrites = s.upWrites := rfl
@[simp] theorem State.setLane_runCount (s : State) (l : LaneId) (x : Lane) :
    (s.setLane l x).runCount = s.runCount := rfl
@[simp] theorem State.setLane_memPort (s : State) (l : LaneId) (x : Lane) :
    (s.setLane l x).memPort = s.memPort := rfl
@[simp] theorem State.setLane_upPort (s : State) (l : LaneId) (x : Lane) :
    (s.setLane l x).upPort = s.upPort := rfl
@[simp] theorem State.setLane_clips (s : State) (l : LaneId) (x : Lane) :
    (s.setLane l x).clips = s.clips := rfl
@[simp] theorem State.setLane_scanPos (s : State) (l : LaneId) (x : Lane) :
    (s.setLane l x).scanPos = s.scanPos := rfl
@[simp] theorem State.setLane_fetchWait (s : State) (l : LaneId) (x : Lane) :
    (s.setLane l x).fetchWait = s.fetchWait := rfl
@[simp] theorem State.setLane_orders (s : State) (l : LaneId) (x : Lane) :
    (s.setLane l x).orders = s.orders := rfl
@[simp] theorem State.setLane_alerts (s : State) (l : LaneId) (x : Lane) :
    (s.setLane l x).alerts = s.alerts := rfl
@[simp] theorem State.setLane_forceList (s : State) (l : LaneId) (x : Lane) :
    (s.setLane l x).forceList = s.forceList := rfl
@[simp] theorem State.setLane_slots (s : State) (l : LaneId) (x : Lane) :
    (s.setLane l x).slots = s.slots := rfl
@[simp] theorem State.setLane_queue (s : State) (l : LaneId) (x : Lane) :
    (s.setLane l x).queue = s.queue := rfl
@[simp] theorem State.setLane_working (s : State) (l : LaneId) (x : Lane) :
    (s.setLane l x).working = s.working := rfl
@[simp] theorem State.setLane_report (s : State) (l : LaneId) (x : Lane) :
    (s.setLane l x).report = s.report := rfl
@[simp] theorem State.setLane_clip (s : State) (l : LaneId) (x : Lane) (k : ClipId) :
    (s.setLane l x).clip k = s.clip k := rfl
@[simp] theorem State.setLane_order (s : State) (l : LaneId) (x : Lane) (k : OrderId) :
    (s.setLane l x).order k = s.order k := rfl
@[simp] theorem State.setLane_alert (s : State) (l : LaneId) (x : Lane) (k : AlertId) :
    (s.setLane l x).alert k = s.alert k := rfl
@[simp] theorem State.setLane_slot (s : State) (l : LaneId) (x : Lane) (k : PostSlotId) :
    (s.setLane l x).slot k = s.slot k := rfl
@[simp] theorem State.setLane_clipReady (s : State) (l : LaneId) (x : Lane) (k : ClipId) :
    (s.setLane l x).clipReady k = s.clipReady k := rfl
@[simp] theorem State.setLane_windowBase (s : State) (l : LaneId) (x : Lane)  :
    (s.setLane l x).windowBase = s.windowBase := rfl

/-! ## State.modLane -/

@[simp] theorem State.modLane_pending (s : State) (l : LaneId) (f : Lane → Lane) :
    (s.modLane l f).pending = s.pending := rfl
@[simp] theorem State.modLane_pin (s : State) (l : LaneId) (f : Lane → Lane) :
    (s.modLane l f).pin = s.pin := rfl
@[simp] theorem State.modLane_stationTime (s : State) (l : LaneId) (f : Lane → Lane) :
    (s.modLane l f).stationTime = s.stationTime := rfl
@[simp] theorem State.modLane_msPhase (s : State) (l : LaneId) (f : Lane → Lane) :
    (s.modLane l f).msPhase = s.msPhase := rfl
@[simp] theorem State.modLane_stationMs (s : State) (l : LaneId) (f : Lane → Lane) :
    (s.modLane l f).stationMs = s.stationMs := rfl
@[simp] theorem State.modLane_upOrder (s : State) (l : LaneId) (f : Lane → Lane) :
    (s.modLane l f).upOrder = s.upOrder := rfl
@[simp] theorem State.modLane_memReads (s : State) (l : LaneId) (f : Lane → Lane) :
    (s.modLane l f).memReads = s.memReads := rfl
@[simp] theorem State.modLane_upWrites (s : State) (l : LaneId) (f : Lane → Lane) :
    (s.modLane l f).upWrites = s.upWrites := rfl
@[simp] theorem State.modLane_runCount (s : State) (l : LaneId) (f : Lane → Lane) :
    (s.modLane l f).runCount = s.runCount := rfl
@[simp] theorem State.modLane_memPort (s : State) (l : LaneId) (f : Lane → Lane) :
    (s.modLane l f).memPort = s.memPort := rfl
@[simp] theorem State.modLane_upPort (s : State) (l : LaneId) (f : Lane → Lane) :
    (s.modLane l f).upPort = s.upPort := rfl
@[simp] theorem State.modLane_clips (s : State) (l : LaneId) (f : Lane → Lane) :
    (s.modLane l f).clips = s.clips := rfl
@[simp] theorem State.modLane_scanPos (s : State) (l : LaneId) (f : Lane → Lane) :
    (s.modLane l f).scanPos = s.scanPos := rfl
@[simp] theorem State.modLane_fetchWait (s : State) (l : LaneId) (f : Lane → Lane) :
    (s.modLane l f).fetchWait = s.fetchWait := rfl
@[simp] theorem State.modLane_orders (s : State) (l : LaneId) (f : Lane → Lane) :
    (s.modLane l f).orders = s.orders := rfl
@[simp] theorem State.modLane_alerts (s : State) (l : LaneId) (f : Lane → Lane) :
    (s.modLane l f).alerts = s.alerts := rfl
@[simp] theorem State.modLane_forceList (s : State) (l : LaneId) (f : Lane → Lane) :
    (s.modLane l f).forceList = s.forceList := rfl
@[simp] theorem State.modLane_slots (s : State) (l : LaneId) (f : Lane → Lane) :
    (s.modLane l f).slots = s.slots := rfl
@[simp] theorem State.modLane_queue (s : State) (l : LaneId) (f : Lane → Lane) :
    (s.modLane l f).queue = s.queue := rfl
@[simp] theorem State.modLane_working (s : State) (l : LaneId) (f : Lane → Lane) :
    (s.modLane l f).working = s.working := rfl
@[simp] theorem State.modLane_report (s : State) (l : LaneId) (f : Lane → Lane) :
    (s.modLane l f).report = s.report := rfl
@[simp] theorem State.modLane_clip (s : State) (l : LaneId) (f : Lane → Lane) (k : ClipId) :
    (s.modLane l f).clip k = s.clip k := rfl
@[simp] theorem State.modLane_order (s : State) (l : LaneId) (f : Lane → Lane) (k : OrderId) :
    (s.modLane l f).order k = s.order k := rfl
@[simp] theorem State.modLane_alert (s : State) (l : LaneId) (f : Lane → Lane) (k : AlertId) :
    (s.modLane l f).alert k = s.alert k := rfl
@[simp] theorem State.modLane_slot (s : State) (l : LaneId) (f : Lane → Lane) (k : PostSlotId) :
    (s.modLane l f).slot k = s.slot k := rfl
@[simp] theorem State.modLane_clipReady (s : State) (l : LaneId) (f : Lane → Lane) (k : ClipId) :
    (s.modLane l f).clipReady k = s.clipReady k := rfl
@[simp] theorem State.modLane_windowBase (s : State) (l : LaneId) (f : Lane → Lane)  :
    (s.modLane l f).windowBase = s.windowBase := rfl

/-! ## State.modOn -/

@[simp] theorem State.modOn_pending (s : State) (l : LaneId) (f : OnLane → OnLane) :
    (s.modOn l f).pending = s.pending := rfl
@[simp] theorem State.modOn_pin (s : State) (l : LaneId) (f : OnLane → OnLane) :
    (s.modOn l f).pin = s.pin := rfl
@[simp] theorem State.modOn_stationTime (s : State) (l : LaneId) (f : OnLane → OnLane) :
    (s.modOn l f).stationTime = s.stationTime := rfl
@[simp] theorem State.modOn_msPhase (s : State) (l : LaneId) (f : OnLane → OnLane) :
    (s.modOn l f).msPhase = s.msPhase := rfl
@[simp] theorem State.modOn_stationMs (s : State) (l : LaneId) (f : OnLane → OnLane) :
    (s.modOn l f).stationMs = s.stationMs := rfl
@[simp] theorem State.modOn_upOrder (s : State) (l : LaneId) (f : OnLane → OnLane) :
    (s.modOn l f).upOrder = s.upOrder := rfl
@[simp] theorem State.modOn_memReads (s : State) (l : LaneId) (f : OnLane → OnLane) :
    (s.modOn l f).memReads = s.memReads := rfl
@[simp] theorem State.modOn_upWrites (s : State) (l : LaneId) (f : OnLane → OnLane) :
    (s.modOn l f).upWrites = s.upWrites := rfl
@[simp] theorem State.modOn_runCount (s : State) (l : LaneId) (f : OnLane → OnLane) :
    (s.modOn l f).runCount = s.runCount := rfl
@[simp] theorem State.modOn_memPort (s : State) (l : LaneId) (f : OnLane → OnLane) :
    (s.modOn l f).memPort = s.memPort := rfl
@[simp] theorem State.modOn_upPort (s : State) (l : LaneId) (f : OnLane → OnLane) :
    (s.modOn l f).upPort = s.upPort := rfl
@[simp] theorem State.modOn_clips (s : State) (l : LaneId) (f : OnLane → OnLane) :
    (s.modOn l f).clips = s.clips := rfl
@[simp] theorem State.modOn_scanPos (s : State) (l : LaneId) (f : OnLane → OnLane) :
    (s.modOn l f).scanPos = s.scanPos := rfl
@[simp] theorem State.modOn_fetchWait (s : State) (l : LaneId) (f : OnLane → OnLane) :
    (s.modOn l f).fetchWait = s.fetchWait := rfl
@[simp] theorem State.modOn_orders (s : State) (l : LaneId) (f : OnLane → OnLane) :
    (s.modOn l f).orders = s.orders := rfl
@[simp] theorem State.modOn_alerts (s : State) (l : LaneId) (f : OnLane → OnLane) :
    (s.modOn l f).alerts = s.alerts := rfl
@[simp] theorem State.modOn_forceList (s : State) (l : LaneId) (f : OnLane → OnLane) :
    (s.modOn l f).forceList = s.forceList := rfl
@[simp] theorem State.modOn_slots (s : State) (l : LaneId) (f : OnLane → OnLane) :
    (s.modOn l f).slots = s.slots := rfl
@[simp] theorem State.modOn_queue (s : State) (l : LaneId) (f : OnLane → OnLane) :
    (s.modOn l f).queue = s.queue := rfl
@[simp] theorem State.modOn_working (s : State) (l : LaneId) (f : OnLane → OnLane) :
    (s.modOn l f).working = s.working := rfl
@[simp] theorem State.modOn_report (s : State) (l : LaneId) (f : OnLane → OnLane) :
    (s.modOn l f).report = s.report := rfl
@[simp] theorem State.modOn_clip (s : State) (l : LaneId) (f : OnLane → OnLane) (k : ClipId) :
    (s.modOn l f).clip k = s.clip k := rfl
@[simp] theorem State.modOn_order (s : State) (l : LaneId) (f : OnLane → OnLane) (k : OrderId) :
    (s.modOn l f).order k = s.order k := rfl
@[simp] theorem State.modOn_alert (s : State) (l : LaneId) (f : OnLane → OnLane) (k : AlertId) :
    (s.modOn l f).alert k = s.alert k := rfl
@[simp] theorem State.modOn_slot (s : State) (l : LaneId) (f : OnLane → OnLane) (k : PostSlotId) :
    (s.modOn l f).slot k = s.slot k := rfl
@[simp] theorem State.modOn_clipReady (s : State) (l : LaneId) (f : OnLane → OnLane) (k : ClipId) :
    (s.modOn l f).clipReady k = s.clipReady k := rfl
@[simp] theorem State.modOn_windowBase (s : State) (l : LaneId) (f : OnLane → OnLane)  :
    (s.modOn l f).windowBase = s.windowBase := rfl

/-! ## State.note -/

@[simp] theorem State.note_pending (s : State) (l : LaneId) (c : Counter) (f : Flag) :
    (s.note l c f).pending = s.pending := rfl
@[simp] theorem State.note_pin (s : State) (l : LaneId) (c : Counter) (f : Flag) :
    (s.note l c f).pin = s.pin := rfl
@[simp] theorem State.note_stationTime (s : State) (l : LaneId) (c : Counter) (f : Flag) :
    (s.note l c f).stationTime = s.stationTime := rfl
@[simp] theorem State.note_msPhase (s : State) (l : LaneId) (c : Counter) (f : Flag) :
    (s.note l c f).msPhase = s.msPhase := rfl
@[simp] theorem State.note_stationMs (s : State) (l : LaneId) (c : Counter) (f : Flag) :
    (s.note l c f).stationMs = s.stationMs := rfl
@[simp] theorem State.note_upOrder (s : State) (l : LaneId) (c : Counter) (f : Flag) :
    (s.note l c f).upOrder = s.upOrder := rfl
@[simp] theorem State.note_memReads (s : State) (l : LaneId) (c : Counter) (f : Flag) :
    (s.note l c f).memReads = s.memReads := rfl
@[simp] theorem State.note_upWrites (s : State) (l : LaneId) (c : Counter) (f : Flag) :
    (s.note l c f).upWrites = s.upWrites := rfl
@[simp] theorem State.note_runCount (s : State) (l : LaneId) (c : Counter) (f : Flag) :
    (s.note l c f).runCount = s.runCount := rfl
@[simp] theorem State.note_memPort (s : State) (l : LaneId) (c : Counter) (f : Flag) :
    (s.note l c f).memPort = s.memPort := rfl
@[simp] theorem State.note_upPort (s : State) (l : LaneId) (c : Counter) (f : Flag) :
    (s.note l c f).upPort = s.upPort := rfl
@[simp] theorem State.note_clips (s : State) (l : LaneId) (c : Counter) (f : Flag) :
    (s.note l c f).clips = s.clips := rfl
@[simp] theorem State.note_scanPos (s : State) (l : LaneId) (c : Counter) (f : Flag) :
    (s.note l c f).scanPos = s.scanPos := rfl
@[simp] theorem State.note_fetchWait (s : State) (l : LaneId) (c : Counter) (f : Flag) :
    (s.note l c f).fetchWait = s.fetchWait := rfl
@[simp] theorem State.note_orders (s : State) (l : LaneId) (c : Counter) (f : Flag) :
    (s.note l c f).orders = s.orders := rfl
@[simp] theorem State.note_alerts (s : State) (l : LaneId) (c : Counter) (f : Flag) :
    (s.note l c f).alerts = s.alerts := rfl
@[simp] theorem State.note_forceList (s : State) (l : LaneId) (c : Counter) (f : Flag) :
    (s.note l c f).forceList = s.forceList := rfl
@[simp] theorem State.note_slots (s : State) (l : LaneId) (c : Counter) (f : Flag) :
    (s.note l c f).slots = s.slots := rfl
@[simp] theorem State.note_queue (s : State) (l : LaneId) (c : Counter) (f : Flag) :
    (s.note l c f).queue = s.queue := rfl
@[simp] theorem State.note_working (s : State) (l : LaneId) (c : Counter) (f : Flag) :
    (s.note l c f).working = s.working := rfl
@[simp] theorem State.note_report (s : State) (l : LaneId) (c : Counter) (f : Flag) :
    (s.note l c f).report = s.report := rfl
@[simp] theorem State.note_clip (s : State) (l : LaneId) (c : Counter) (f : Flag) (k : ClipId) :
    (s.note l c f).clip k = s.clip k := rfl
@[simp] theorem State.note_order (s : State) (l : LaneId) (c : Counter) (f : Flag) (k : OrderId) :
    (s.note l c f).order k = s.order k := rfl
@[simp] theorem State.note_alert (s : State) (l : LaneId) (c : Counter) (f : Flag) (k : AlertId) :
    (s.note l c f).alert k = s.alert k := rfl
@[simp] theorem State.note_slot (s : State) (l : LaneId) (c : Counter) (f : Flag) (k : PostSlotId) :
    (s.note l c f).slot k = s.slot k := rfl
@[simp] theorem State.note_clipReady (s : State) (l : LaneId) (c : Counter) (f : Flag) (k : ClipId) :
    (s.note l c f).clipReady k = s.clipReady k := rfl
@[simp] theorem State.note_windowBase (s : State) (l : LaneId) (c : Counter) (f : Flag)  :
    (s.note l c f).windowBase = s.windowBase := rfl

/-! ## State.raise -/

@[simp] theorem State.raise_pending (s : State) (l : LaneId) (c : Counter) :
    (s.raise l c).pending = s.pending := rfl
@[simp] theorem State.raise_pin (s : State) (l : LaneId) (c : Counter) :
    (s.raise l c).pin = s.pin := rfl
@[simp] theorem State.raise_stationTime (s : State) (l : LaneId) (c : Counter) :
    (s.raise l c).stationTime = s.stationTime := rfl
@[simp] theorem State.raise_msPhase (s : State) (l : LaneId) (c : Counter) :
    (s.raise l c).msPhase = s.msPhase := rfl
@[simp] theorem State.raise_stationMs (s : State) (l : LaneId) (c : Counter) :
    (s.raise l c).stationMs = s.stationMs := rfl
@[simp] theorem State.raise_upOrder (s : State) (l : LaneId) (c : Counter) :
    (s.raise l c).upOrder = s.upOrder := rfl
@[simp] theorem State.raise_memReads (s : State) (l : LaneId) (c : Counter) :
    (s.raise l c).memReads = s.memReads := rfl
@[simp] theorem State.raise_upWrites (s : State) (l : LaneId) (c : Counter) :
    (s.raise l c).upWrites = s.upWrites := rfl
@[simp] theorem State.raise_runCount (s : State) (l : LaneId) (c : Counter) :
    (s.raise l c).runCount = s.runCount := rfl
@[simp] theorem State.raise_memPort (s : State) (l : LaneId) (c : Counter) :
    (s.raise l c).memPort = s.memPort := rfl
@[simp] theorem State.raise_upPort (s : State) (l : LaneId) (c : Counter) :
    (s.raise l c).upPort = s.upPort := rfl
@[simp] theorem State.raise_clips (s : State) (l : LaneId) (c : Counter) :
    (s.raise l c).clips = s.clips := rfl
@[simp] theorem State.raise_scanPos (s : State) (l : LaneId) (c : Counter) :
    (s.raise l c).scanPos = s.scanPos := rfl
@[simp] theorem State.raise_fetchWait (s : State) (l : LaneId) (c : Counter) :
    (s.raise l c).fetchWait = s.fetchWait := rfl
@[simp] theorem State.raise_orders (s : State) (l : LaneId) (c : Counter) :
    (s.raise l c).orders = s.orders := rfl
@[simp] theorem State.raise_alerts (s : State) (l : LaneId) (c : Counter) :
    (s.raise l c).alerts = s.alerts := rfl
@[simp] theorem State.raise_forceList (s : State) (l : LaneId) (c : Counter) :
    (s.raise l c).forceList = s.forceList := rfl
@[simp] theorem State.raise_slots (s : State) (l : LaneId) (c : Counter) :
    (s.raise l c).slots = s.slots := rfl
@[simp] theorem State.raise_queue (s : State) (l : LaneId) (c : Counter) :
    (s.raise l c).queue = s.queue := rfl
@[simp] theorem State.raise_working (s : State) (l : LaneId) (c : Counter) :
    (s.raise l c).working = s.working := rfl
@[simp] theorem State.raise_report (s : State) (l : LaneId) (c : Counter) :
    (s.raise l c).report = s.report := rfl
@[simp] theorem State.raise_clip (s : State) (l : LaneId) (c : Counter) (k : ClipId) :
    (s.raise l c).clip k = s.clip k := rfl
@[simp] theorem State.raise_order (s : State) (l : LaneId) (c : Counter) (k : OrderId) :
    (s.raise l c).order k = s.order k := rfl
@[simp] theorem State.raise_alert (s : State) (l : LaneId) (c : Counter) (k : AlertId) :
    (s.raise l c).alert k = s.alert k := rfl
@[simp] theorem State.raise_slot (s : State) (l : LaneId) (c : Counter) (k : PostSlotId) :
    (s.raise l c).slot k = s.slot k := rfl
@[simp] theorem State.raise_clipReady (s : State) (l : LaneId) (c : Counter) (k : ClipId) :
    (s.raise l c).clipReady k = s.clipReady k := rfl
@[simp] theorem State.raise_windowBase (s : State) (l : LaneId) (c : Counter)  :
    (s.raise l c).windowBase = s.windowBase := rfl

/-! ## State.modClip -/

@[simp] theorem State.modClip_pending (s : State) (c : ClipId) (f : Clip → Clip) :
    (s.modClip c f).pending = s.pending := rfl
@[simp] theorem State.modClip_pin (s : State) (c : ClipId) (f : Clip → Clip) :
    (s.modClip c f).pin = s.pin := rfl
@[simp] theorem State.modClip_stationTime (s : State) (c : ClipId) (f : Clip → Clip) :
    (s.modClip c f).stationTime = s.stationTime := rfl
@[simp] theorem State.modClip_msPhase (s : State) (c : ClipId) (f : Clip → Clip) :
    (s.modClip c f).msPhase = s.msPhase := rfl
@[simp] theorem State.modClip_stationMs (s : State) (c : ClipId) (f : Clip → Clip) :
    (s.modClip c f).stationMs = s.stationMs := rfl
@[simp] theorem State.modClip_upOrder (s : State) (c : ClipId) (f : Clip → Clip) :
    (s.modClip c f).upOrder = s.upOrder := rfl
@[simp] theorem State.modClip_memReads (s : State) (c : ClipId) (f : Clip → Clip) :
    (s.modClip c f).memReads = s.memReads := rfl
@[simp] theorem State.modClip_upWrites (s : State) (c : ClipId) (f : Clip → Clip) :
    (s.modClip c f).upWrites = s.upWrites := rfl
@[simp] theorem State.modClip_runCount (s : State) (c : ClipId) (f : Clip → Clip) :
    (s.modClip c f).runCount = s.runCount := rfl
@[simp] theorem State.modClip_memPort (s : State) (c : ClipId) (f : Clip → Clip) :
    (s.modClip c f).memPort = s.memPort := rfl
@[simp] theorem State.modClip_upPort (s : State) (c : ClipId) (f : Clip → Clip) :
    (s.modClip c f).upPort = s.upPort := rfl
@[simp] theorem State.modClip_lanes (s : State) (c : ClipId) (f : Clip → Clip) :
    (s.modClip c f).lanes = s.lanes := rfl
@[simp] theorem State.modClip_scanPos (s : State) (c : ClipId) (f : Clip → Clip) :
    (s.modClip c f).scanPos = s.scanPos := rfl
@[simp] theorem State.modClip_fetchWait (s : State) (c : ClipId) (f : Clip → Clip) :
    (s.modClip c f).fetchWait = s.fetchWait := rfl
@[simp] theorem State.modClip_orders (s : State) (c : ClipId) (f : Clip → Clip) :
    (s.modClip c f).orders = s.orders := rfl
@[simp] theorem State.modClip_alerts (s : State) (c : ClipId) (f : Clip → Clip) :
    (s.modClip c f).alerts = s.alerts := rfl
@[simp] theorem State.modClip_forceList (s : State) (c : ClipId) (f : Clip → Clip) :
    (s.modClip c f).forceList = s.forceList := rfl
@[simp] theorem State.modClip_slots (s : State) (c : ClipId) (f : Clip → Clip) :
    (s.modClip c f).slots = s.slots := rfl
@[simp] theorem State.modClip_queue (s : State) (c : ClipId) (f : Clip → Clip) :
    (s.modClip c f).queue = s.queue := rfl
@[simp] theorem State.modClip_working (s : State) (c : ClipId) (f : Clip → Clip) :
    (s.modClip c f).working = s.working := rfl
@[simp] theorem State.modClip_report (s : State) (c : ClipId) (f : Clip → Clip) :
    (s.modClip c f).report = s.report := rfl
@[simp] theorem State.modClip_lane (s : State) (c : ClipId) (f : Clip → Clip) (k : LaneId) :
    (s.modClip c f).lane k = s.lane k := rfl
@[simp] theorem State.modClip_order (s : State) (c : ClipId) (f : Clip → Clip) (k : OrderId) :
    (s.modClip c f).order k = s.order k := rfl
@[simp] theorem State.modClip_alert (s : State) (c : ClipId) (f : Clip → Clip) (k : AlertId) :
    (s.modClip c f).alert k = s.alert k := rfl
@[simp] theorem State.modClip_slot (s : State) (c : ClipId) (f : Clip → Clip) (k : PostSlotId) :
    (s.modClip c f).slot k = s.slot k := rfl
@[simp] theorem State.modClip_onLane (s : State) (c : ClipId) (f : Clip → Clip) (k : LaneId) :
    (s.modClip c f).onLane k = s.onLane k := rfl
@[simp] theorem State.modClip_onOutput (s : State) (c : ClipId) (f : Clip → Clip) (k : LaneId) :
    (s.modClip c f).onOutput k = s.onOutput k := rfl
@[simp] theorem State.modClip_windowBase (s : State) (c : ClipId) (f : Clip → Clip)  :
    (s.modClip c f).windowBase = s.windowBase := rfl

/-! ## State.lock -/

@[simp] theorem State.lock_pending (s : State) (c : ClipId) :
    (s.lock c).pending = s.pending := rfl
@[simp] theorem State.lock_pin (s : State) (c : ClipId) :
    (s.lock c).pin = s.pin := rfl
@[simp] theorem State.lock_stationTime (s : State) (c : ClipId) :
    (s.lock c).stationTime = s.stationTime := rfl
@[simp] theorem State.lock_msPhase (s : State) (c : ClipId) :
    (s.lock c).msPhase = s.msPhase := rfl
@[simp] theorem State.lock_stationMs (s : State) (c : ClipId) :
    (s.lock c).stationMs = s.stationMs := rfl
@[simp] theorem State.lock_upOrder (s : State) (c : ClipId) :
    (s.lock c).upOrder = s.upOrder := rfl
@[simp] theorem State.lock_memReads (s : State) (c : ClipId) :
    (s.lock c).memReads = s.memReads := rfl
@[simp] theorem State.lock_upWrites (s : State) (c : ClipId) :
    (s.lock c).upWrites = s.upWrites := rfl
@[simp] theorem State.lock_runCount (s : State) (c : ClipId) :
    (s.lock c).runCount = s.runCount := rfl
@[simp] theorem State.lock_memPort (s : State) (c : ClipId) :
    (s.lock c).memPort = s.memPort := rfl
@[simp] theorem State.lock_upPort (s : State) (c : ClipId) :
    (s.lock c).upPort = s.upPort := rfl
@[simp] theorem State.lock_lanes (s : State) (c : ClipId) :
    (s.lock c).lanes = s.lanes := rfl
@[simp] theorem State.lock_scanPos (s : State) (c : ClipId) :
    (s.lock c).scanPos = s.scanPos := rfl
@[simp] theorem State.lock_fetchWait (s : State) (c : ClipId) :
    (s.lock c).fetchWait = s.fetchWait := rfl
@[simp] theorem State.lock_orders (s : State) (c : ClipId) :
    (s.lock c).orders = s.orders := rfl
@[simp] theorem State.lock_alerts (s : State) (c : ClipId) :
    (s.lock c).alerts = s.alerts := rfl
@[simp] theorem State.lock_forceList (s : State) (c : ClipId) :
    (s.lock c).forceList = s.forceList := rfl
@[simp] theorem State.lock_slots (s : State) (c : ClipId) :
    (s.lock c).slots = s.slots := rfl
@[simp] theorem State.lock_queue (s : State) (c : ClipId) :
    (s.lock c).queue = s.queue := rfl
@[simp] theorem State.lock_working (s : State) (c : ClipId) :
    (s.lock c).working = s.working := rfl
@[simp] theorem State.lock_report (s : State) (c : ClipId) :
    (s.lock c).report = s.report := rfl
@[simp] theorem State.lock_lane (s : State) (c : ClipId) (k : LaneId) :
    (s.lock c).lane k = s.lane k := rfl
@[simp] theorem State.lock_order (s : State) (c : ClipId) (k : OrderId) :
    (s.lock c).order k = s.order k := rfl
@[simp] theorem State.lock_alert (s : State) (c : ClipId) (k : AlertId) :
    (s.lock c).alert k = s.alert k := rfl
@[simp] theorem State.lock_slot (s : State) (c : ClipId) (k : PostSlotId) :
    (s.lock c).slot k = s.slot k := rfl
@[simp] theorem State.lock_onLane (s : State) (c : ClipId) (k : LaneId) :
    (s.lock c).onLane k = s.onLane k := rfl
@[simp] theorem State.lock_onOutput (s : State) (c : ClipId) (k : LaneId) :
    (s.lock c).onOutput k = s.onOutput k := rfl
@[simp] theorem State.lock_windowBase (s : State) (c : ClipId)  :
    (s.lock c).windowBase = s.windowBase := rfl

/-! ## State.release -/

@[simp] theorem State.release_pending (s : State) (c : ClipId) :
    (s.release c).pending = s.pending := rfl
@[simp] theorem State.release_pin (s : State) (c : ClipId) :
    (s.release c).pin = s.pin := rfl
@[simp] theorem State.release_stationTime (s : State) (c : ClipId) :
    (s.release c).stationTime = s.stationTime := rfl
@[simp] theorem State.release_msPhase (s : State) (c : ClipId) :
    (s.release c).msPhase = s.msPhase := rfl
@[simp] theorem State.release_stationMs (s : State) (c : ClipId) :
    (s.release c).stationMs = s.stationMs := rfl
@[simp] theorem State.release_upOrder (s : State) (c : ClipId) :
    (s.release c).upOrder = s.upOrder := rfl
@[simp] theorem State.release_memReads (s : State) (c : ClipId) :
    (s.release c).memReads = s.memReads := rfl
@[simp] theorem State.release_upWrites (s : State) (c : ClipId) :
    (s.release c).upWrites = s.upWrites := rfl
@[simp] theorem State.release_runCount (s : State) (c : ClipId) :
    (s.release c).runCount = s.runCount := rfl
@[simp] theorem State.release_memPort (s : State) (c : ClipId) :
    (s.release c).memPort = s.memPort := rfl
@[simp] theorem State.release_upPort (s : State) (c : ClipId) :
    (s.release c).upPort = s.upPort := rfl
@[simp] theorem State.release_lanes (s : State) (c : ClipId) :
    (s.release c).lanes = s.lanes := rfl
@[simp] theorem State.release_scanPos (s : State) (c : ClipId) :
    (s.release c).scanPos = s.scanPos := rfl
@[simp] theorem State.release_fetchWait (s : State) (c : ClipId) :
    (s.release c).fetchWait = s.fetchWait := rfl
@[simp] theorem State.release_orders (s : State) (c : ClipId) :
    (s.release c).orders = s.orders := rfl
@[simp] theorem State.release_alerts (s : State) (c : ClipId) :
    (s.release c).alerts = s.alerts := rfl
@[simp] theorem State.release_forceList (s : State) (c : ClipId) :
    (s.release c).forceList = s.forceList := rfl
@[simp] theorem State.release_slots (s : State) (c : ClipId) :
    (s.release c).slots = s.slots := rfl
@[simp] theorem State.release_queue (s : State) (c : ClipId) :
    (s.release c).queue = s.queue := rfl
@[simp] theorem State.release_working (s : State) (c : ClipId) :
    (s.release c).working = s.working := rfl
@[simp] theorem State.release_report (s : State) (c : ClipId) :
    (s.release c).report = s.report := rfl
@[simp] theorem State.release_lane (s : State) (c : ClipId) (k : LaneId) :
    (s.release c).lane k = s.lane k := rfl
@[simp] theorem State.release_order (s : State) (c : ClipId) (k : OrderId) :
    (s.release c).order k = s.order k := rfl
@[simp] theorem State.release_alert (s : State) (c : ClipId) (k : AlertId) :
    (s.release c).alert k = s.alert k := rfl
@[simp] theorem State.release_slot (s : State) (c : ClipId) (k : PostSlotId) :
    (s.release c).slot k = s.slot k := rfl
@[simp] theorem State.release_onLane (s : State) (c : ClipId) (k : LaneId) :
    (s.release c).onLane k = s.onLane k := rfl
@[simp] theorem State.release_onOutput (s : State) (c : ClipId) (k : LaneId) :
    (s.release c).onOutput k = s.onOutput k := rfl
@[simp] theorem State.release_windowBase (s : State) (c : ClipId)  :
    (s.release c).windowBase = s.windowBase := rfl

/-! ## State.setOrder -/

@[simp] theorem State.setOrder_pending (s : State) (i : OrderId) (x : Order) :
    (s.setOrder i x).pending = s.pending := rfl
@[simp] theorem State.setOrder_pin (s : State) (i : OrderId) (x : Order) :
    (s.setOrder i x).pin = s.pin := rfl
@[simp] theorem State.setOrder_stationTime (s : State) (i : OrderId) (x : Order) :
    (s.setOrder i x).stationTime = s.stationTime := rfl
@[simp] theorem State.setOrder_msPhase (s : State) (i : OrderId) (x : Order) :
    (s.setOrder i x).msPhase = s.msPhase := rfl
@[simp] theorem State.setOrder_stationMs (s : State) (i : OrderId) (x : Order) :
    (s.setOrder i x).stationMs = s.stationMs := rfl
@[simp] theorem State.setOrder_upOrder (s : State) (i : OrderId) (x : Order) :
    (s.setOrder i x).upOrder = s.upOrder := rfl
@[simp] theorem State.setOrder_memReads (s : State) (i : OrderId) (x : Order) :
    (s.setOrder i x).memReads = s.memReads := rfl
@[simp] theorem State.setOrder_upWrites (s : State) (i : OrderId) (x : Order) :
    (s.setOrder i x).upWrites = s.upWrites := rfl
@[simp] theorem State.setOrder_runCount (s : State) (i : OrderId) (x : Order) :
    (s.setOrder i x).runCount = s.runCount := rfl
@[simp] theorem State.setOrder_memPort (s : State) (i : OrderId) (x : Order) :
    (s.setOrder i x).memPort = s.memPort := rfl
@[simp] theorem State.setOrder_upPort (s : State) (i : OrderId) (x : Order) :
    (s.setOrder i x).upPort = s.upPort := rfl
@[simp] theorem State.setOrder_lanes (s : State) (i : OrderId) (x : Order) :
    (s.setOrder i x).lanes = s.lanes := rfl
@[simp] theorem State.setOrder_clips (s : State) (i : OrderId) (x : Order) :
    (s.setOrder i x).clips = s.clips := rfl
@[simp] theorem State.setOrder_scanPos (s : State) (i : OrderId) (x : Order) :
    (s.setOrder i x).scanPos = s.scanPos := rfl
@[simp] theorem State.setOrder_fetchWait (s : State) (i : OrderId) (x : Order) :
    (s.setOrder i x).fetchWait = s.fetchWait := rfl
@[simp] theorem State.setOrder_alerts (s : State) (i : OrderId) (x : Order) :
    (s.setOrder i x).alerts = s.alerts := rfl
@[simp] theorem State.setOrder_forceList (s : State) (i : OrderId) (x : Order) :
    (s.setOrder i x).forceList = s.forceList := rfl
@[simp] theorem State.setOrder_slots (s : State) (i : OrderId) (x : Order) :
    (s.setOrder i x).slots = s.slots := rfl
@[simp] theorem State.setOrder_queue (s : State) (i : OrderId) (x : Order) :
    (s.setOrder i x).queue = s.queue := rfl
@[simp] theorem State.setOrder_working (s : State) (i : OrderId) (x : Order) :
    (s.setOrder i x).working = s.working := rfl
@[simp] theorem State.setOrder_report (s : State) (i : OrderId) (x : Order) :
    (s.setOrder i x).report = s.report := rfl
@[simp] theorem State.setOrder_lane (s : State) (i : OrderId) (x : Order) (k : LaneId) :
    (s.setOrder i x).lane k = s.lane k := rfl
@[simp] theorem State.setOrder_clip (s : State) (i : OrderId) (x : Order) (k : ClipId) :
    (s.setOrder i x).clip k = s.clip k := rfl
@[simp] theorem State.setOrder_alert (s : State) (i : OrderId) (x : Order) (k : AlertId) :
    (s.setOrder i x).alert k = s.alert k := rfl
@[simp] theorem State.setOrder_slot (s : State) (i : OrderId) (x : Order) (k : PostSlotId) :
    (s.setOrder i x).slot k = s.slot k := rfl
@[simp] theorem State.setOrder_onLane (s : State) (i : OrderId) (x : Order) (k : LaneId) :
    (s.setOrder i x).onLane k = s.onLane k := rfl
@[simp] theorem State.setOrder_onOutput (s : State) (i : OrderId) (x : Order) (k : LaneId) :
    (s.setOrder i x).onOutput k = s.onOutput k := rfl
@[simp] theorem State.setOrder_clipReady (s : State) (i : OrderId) (x : Order) (k : ClipId) :
    (s.setOrder i x).clipReady k = s.clipReady k := rfl
@[simp] theorem State.setOrder_windowBase (s : State) (i : OrderId) (x : Order)  :
    (s.setOrder i x).windowBase = s.windowBase := rfl

/-! ## State.modOrder -/

@[simp] theorem State.modOrder_pending (s : State) (i : OrderId) (f : Order → Order) :
    (s.modOrder i f).pending = s.pending := rfl
@[simp] theorem State.modOrder_pin (s : State) (i : OrderId) (f : Order → Order) :
    (s.modOrder i f).pin = s.pin := rfl
@[simp] theorem State.modOrder_stationTime (s : State) (i : OrderId) (f : Order → Order) :
    (s.modOrder i f).stationTime = s.stationTime := rfl
@[simp] theorem State.modOrder_msPhase (s : State) (i : OrderId) (f : Order → Order) :
    (s.modOrder i f).msPhase = s.msPhase := rfl
@[simp] theorem State.modOrder_stationMs (s : State) (i : OrderId) (f : Order → Order) :
    (s.modOrder i f).stationMs = s.stationMs := rfl
@[simp] theorem State.modOrder_upOrder (s : State) (i : OrderId) (f : Order → Order) :
    (s.modOrder i f).upOrder = s.upOrder := rfl
@[simp] theorem State.modOrder_memReads (s : State) (i : OrderId) (f : Order → Order) :
    (s.modOrder i f).memReads = s.memReads := rfl
@[simp] theorem State.modOrder_upWrites (s : State) (i : OrderId) (f : Order → Order) :
    (s.modOrder i f).upWrites = s.upWrites := rfl
@[simp] theorem State.modOrder_runCount (s : State) (i : OrderId) (f : Order → Order) :
    (s.modOrder i f).runCount = s.runCount := rfl
@[simp] theorem State.modOrder_memPort (s : State) (i : OrderId) (f : Order → Order) :
    (s.modOrder i f).memPort = s.memPort := rfl
@[simp] theorem State.modOrder_upPort (s : State) (i : OrderId) (f : Order → Order) :
    (s.modOrder i f).upPort = s.upPort := rfl
@[simp] theorem State.modOrder_lanes (s : State) (i : OrderId) (f : Order → Order) :
    (s.modOrder i f).lanes = s.lanes := rfl
@[simp] theorem State.modOrder_clips (s : State) (i : OrderId) (f : Order → Order) :
    (s.modOrder i f).clips = s.clips := rfl
@[simp] theorem State.modOrder_scanPos (s : State) (i : OrderId) (f : Order → Order) :
    (s.modOrder i f).scanPos = s.scanPos := rfl
@[simp] theorem State.modOrder_fetchWait (s : State) (i : OrderId) (f : Order → Order) :
    (s.modOrder i f).fetchWait = s.fetchWait := rfl
@[simp] theorem State.modOrder_alerts (s : State) (i : OrderId) (f : Order → Order) :
    (s.modOrder i f).alerts = s.alerts := rfl
@[simp] theorem State.modOrder_forceList (s : State) (i : OrderId) (f : Order → Order) :
    (s.modOrder i f).forceList = s.forceList := rfl
@[simp] theorem State.modOrder_slots (s : State) (i : OrderId) (f : Order → Order) :
    (s.modOrder i f).slots = s.slots := rfl
@[simp] theorem State.modOrder_queue (s : State) (i : OrderId) (f : Order → Order) :
    (s.modOrder i f).queue = s.queue := rfl
@[simp] theorem State.modOrder_working (s : State) (i : OrderId) (f : Order → Order) :
    (s.modOrder i f).working = s.working := rfl
@[simp] theorem State.modOrder_report (s : State) (i : OrderId) (f : Order → Order) :
    (s.modOrder i f).report = s.report := rfl
@[simp] theorem State.modOrder_lane (s : State) (i : OrderId) (f : Order → Order) (k : LaneId) :
    (s.modOrder i f).lane k = s.lane k := rfl
@[simp] theorem State.modOrder_clip (s : State) (i : OrderId) (f : Order → Order) (k : ClipId) :
    (s.modOrder i f).clip k = s.clip k := rfl
@[simp] theorem State.modOrder_alert (s : State) (i : OrderId) (f : Order → Order) (k : AlertId) :
    (s.modOrder i f).alert k = s.alert k := rfl
@[simp] theorem State.modOrder_slot (s : State) (i : OrderId) (f : Order → Order) (k : PostSlotId) :
    (s.modOrder i f).slot k = s.slot k := rfl
@[simp] theorem State.modOrder_onLane (s : State) (i : OrderId) (f : Order → Order) (k : LaneId) :
    (s.modOrder i f).onLane k = s.onLane k := rfl
@[simp] theorem State.modOrder_onOutput (s : State) (i : OrderId) (f : Order → Order) (k : LaneId) :
    (s.modOrder i f).onOutput k = s.onOutput k := rfl
@[simp] theorem State.modOrder_clipReady (s : State) (i : OrderId) (f : Order → Order) (k : ClipId) :
    (s.modOrder i f).clipReady k = s.clipReady k := rfl
@[simp] theorem State.modOrder_windowBase (s : State) (i : OrderId) (f : Order → Order)  :
    (s.modOrder i f).windowBase = s.windowBase := rfl

/-! ## State.modAlert -/

@[simp] theorem State.modAlert_pending (s : State) (a : AlertId) (f : Alert → Alert) :
    (s.modAlert a f).pending = s.pending := rfl
@[simp] theorem State.modAlert_pin (s : State) (a : AlertId) (f : Alert → Alert) :
    (s.modAlert a f).pin = s.pin := rfl
@[simp] theorem State.modAlert_stationTime (s : State) (a : AlertId) (f : Alert → Alert) :
    (s.modAlert a f).stationTime = s.stationTime := rfl
@[simp] theorem State.modAlert_msPhase (s : State) (a : AlertId) (f : Alert → Alert) :
    (s.modAlert a f).msPhase = s.msPhase := rfl
@[simp] theorem State.modAlert_stationMs (s : State) (a : AlertId) (f : Alert → Alert) :
    (s.modAlert a f).stationMs = s.stationMs := rfl
@[simp] theorem State.modAlert_upOrder (s : State) (a : AlertId) (f : Alert → Alert) :
    (s.modAlert a f).upOrder = s.upOrder := rfl
@[simp] theorem State.modAlert_memReads (s : State) (a : AlertId) (f : Alert → Alert) :
    (s.modAlert a f).memReads = s.memReads := rfl
@[simp] theorem State.modAlert_upWrites (s : State) (a : AlertId) (f : Alert → Alert) :
    (s.modAlert a f).upWrites = s.upWrites := rfl
@[simp] theorem State.modAlert_runCount (s : State) (a : AlertId) (f : Alert → Alert) :
    (s.modAlert a f).runCount = s.runCount := rfl
@[simp] theorem State.modAlert_memPort (s : State) (a : AlertId) (f : Alert → Alert) :
    (s.modAlert a f).memPort = s.memPort := rfl
@[simp] theorem State.modAlert_upPort (s : State) (a : AlertId) (f : Alert → Alert) :
    (s.modAlert a f).upPort = s.upPort := rfl
@[simp] theorem State.modAlert_lanes (s : State) (a : AlertId) (f : Alert → Alert) :
    (s.modAlert a f).lanes = s.lanes := rfl
@[simp] theorem State.modAlert_clips (s : State) (a : AlertId) (f : Alert → Alert) :
    (s.modAlert a f).clips = s.clips := rfl
@[simp] theorem State.modAlert_scanPos (s : State) (a : AlertId) (f : Alert → Alert) :
    (s.modAlert a f).scanPos = s.scanPos := rfl
@[simp] theorem State.modAlert_fetchWait (s : State) (a : AlertId) (f : Alert → Alert) :
    (s.modAlert a f).fetchWait = s.fetchWait := rfl
@[simp] theorem State.modAlert_orders (s : State) (a : AlertId) (f : Alert → Alert) :
    (s.modAlert a f).orders = s.orders := rfl
@[simp] theorem State.modAlert_forceList (s : State) (a : AlertId) (f : Alert → Alert) :
    (s.modAlert a f).forceList = s.forceList := rfl
@[simp] theorem State.modAlert_slots (s : State) (a : AlertId) (f : Alert → Alert) :
    (s.modAlert a f).slots = s.slots := rfl
@[simp] theorem State.modAlert_queue (s : State) (a : AlertId) (f : Alert → Alert) :
    (s.modAlert a f).queue = s.queue := rfl
@[simp] theorem State.modAlert_working (s : State) (a : AlertId) (f : Alert → Alert) :
    (s.modAlert a f).working = s.working := rfl
@[simp] theorem State.modAlert_report (s : State) (a : AlertId) (f : Alert → Alert) :
    (s.modAlert a f).report = s.report := rfl
@[simp] theorem State.modAlert_lane (s : State) (a : AlertId) (f : Alert → Alert) (k : LaneId) :
    (s.modAlert a f).lane k = s.lane k := rfl
@[simp] theorem State.modAlert_clip (s : State) (a : AlertId) (f : Alert → Alert) (k : ClipId) :
    (s.modAlert a f).clip k = s.clip k := rfl
@[simp] theorem State.modAlert_order (s : State) (a : AlertId) (f : Alert → Alert) (k : OrderId) :
    (s.modAlert a f).order k = s.order k := rfl
@[simp] theorem State.modAlert_slot (s : State) (a : AlertId) (f : Alert → Alert) (k : PostSlotId) :
    (s.modAlert a f).slot k = s.slot k := rfl
@[simp] theorem State.modAlert_onLane (s : State) (a : AlertId) (f : Alert → Alert) (k : LaneId) :
    (s.modAlert a f).onLane k = s.onLane k := rfl
@[simp] theorem State.modAlert_onOutput (s : State) (a : AlertId) (f : Alert → Alert) (k : LaneId) :
    (s.modAlert a f).onOutput k = s.onOutput k := rfl
@[simp] theorem State.modAlert_clipReady (s : State) (a : AlertId) (f : Alert → Alert) (k : ClipId) :
    (s.modAlert a f).clipReady k = s.clipReady k := rfl
@[simp] theorem State.modAlert_windowBase (s : State) (a : AlertId) (f : Alert → Alert)  :
    (s.modAlert a f).windowBase = s.windowBase := rfl

/-! ## State.modSlot -/

@[simp] theorem State.modSlot_pending (s : State) (k : PostSlotId) (f : PostSlot → PostSlot) :
    (s.modSlot k f).pending = s.pending := rfl
@[simp] theorem State.modSlot_pin (s : State) (k : PostSlotId) (f : PostSlot → PostSlot) :
    (s.modSlot k f).pin = s.pin := rfl
@[simp] theorem State.modSlot_stationTime (s : State) (k : PostSlotId) (f : PostSlot → PostSlot) :
    (s.modSlot k f).stationTime = s.stationTime := rfl
@[simp] theorem State.modSlot_msPhase (s : State) (k : PostSlotId) (f : PostSlot → PostSlot) :
    (s.modSlot k f).msPhase = s.msPhase := rfl
@[simp] theorem State.modSlot_stationMs (s : State) (k : PostSlotId) (f : PostSlot → PostSlot) :
    (s.modSlot k f).stationMs = s.stationMs := rfl
@[simp] theorem State.modSlot_upOrder (s : State) (k : PostSlotId) (f : PostSlot → PostSlot) :
    (s.modSlot k f).upOrder = s.upOrder := rfl
@[simp] theorem State.modSlot_memReads (s : State) (k : PostSlotId) (f : PostSlot → PostSlot) :
    (s.modSlot k f).memReads = s.memReads := rfl
@[simp] theorem State.modSlot_upWrites (s : State) (k : PostSlotId) (f : PostSlot → PostSlot) :
    (s.modSlot k f).upWrites = s.upWrites := rfl
@[simp] theorem State.modSlot_runCount (s : State) (k : PostSlotId) (f : PostSlot → PostSlot) :
    (s.modSlot k f).runCount = s.runCount := rfl
@[simp] theorem State.modSlot_memPort (s : State) (k : PostSlotId) (f : PostSlot → PostSlot) :
    (s.modSlot k f).memPort = s.memPort := rfl
@[simp] theorem State.modSlot_upPort (s : State) (k : PostSlotId) (f : PostSlot → PostSlot) :
    (s.modSlot k f).upPort = s.upPort := rfl
@[simp] theorem State.modSlot_lanes (s : State) (k : PostSlotId) (f : PostSlot → PostSlot) :
    (s.modSlot k f).lanes = s.lanes := rfl
@[simp] theorem State.modSlot_clips (s : State) (k : PostSlotId) (f : PostSlot → PostSlot) :
    (s.modSlot k f).clips = s.clips := rfl
@[simp] theorem State.modSlot_scanPos (s : State) (k : PostSlotId) (f : PostSlot → PostSlot) :
    (s.modSlot k f).scanPos = s.scanPos := rfl
@[simp] theorem State.modSlot_fetchWait (s : State) (k : PostSlotId) (f : PostSlot → PostSlot) :
    (s.modSlot k f).fetchWait = s.fetchWait := rfl
@[simp] theorem State.modSlot_orders (s : State) (k : PostSlotId) (f : PostSlot → PostSlot) :
    (s.modSlot k f).orders = s.orders := rfl
@[simp] theorem State.modSlot_alerts (s : State) (k : PostSlotId) (f : PostSlot → PostSlot) :
    (s.modSlot k f).alerts = s.alerts := rfl
@[simp] theorem State.modSlot_forceList (s : State) (k : PostSlotId) (f : PostSlot → PostSlot) :
    (s.modSlot k f).forceList = s.forceList := rfl
@[simp] theorem State.modSlot_queue (s : State) (k : PostSlotId) (f : PostSlot → PostSlot) :
    (s.modSlot k f).queue = s.queue := rfl
@[simp] theorem State.modSlot_working (s : State) (k : PostSlotId) (f : PostSlot → PostSlot) :
    (s.modSlot k f).working = s.working := rfl
@[simp] theorem State.modSlot_report (s : State) (k : PostSlotId) (f : PostSlot → PostSlot) :
    (s.modSlot k f).report = s.report := rfl
@[simp] theorem State.modSlot_lane (s : State) (k : PostSlotId) (f : PostSlot → PostSlot) (j : LaneId) :
    (s.modSlot k f).lane j = s.lane j := rfl
@[simp] theorem State.modSlot_clip (s : State) (k : PostSlotId) (f : PostSlot → PostSlot) (j : ClipId) :
    (s.modSlot k f).clip j = s.clip j := rfl
@[simp] theorem State.modSlot_order (s : State) (k : PostSlotId) (f : PostSlot → PostSlot) (j : OrderId) :
    (s.modSlot k f).order j = s.order j := rfl
@[simp] theorem State.modSlot_alert (s : State) (k : PostSlotId) (f : PostSlot → PostSlot) (j : AlertId) :
    (s.modSlot k f).alert j = s.alert j := rfl
@[simp] theorem State.modSlot_onLane (s : State) (k : PostSlotId) (f : PostSlot → PostSlot) (j : LaneId) :
    (s.modSlot k f).onLane j = s.onLane j := rfl
@[simp] theorem State.modSlot_onOutput (s : State) (k : PostSlotId) (f : PostSlot → PostSlot) (j : LaneId) :
    (s.modSlot k f).onOutput j = s.onOutput j := rfl
@[simp] theorem State.modSlot_clipReady (s : State) (k : PostSlotId) (f : PostSlot → PostSlot) (j : ClipId) :
    (s.modSlot k f).clipReady j = s.clipReady j := rfl
@[simp] theorem State.modSlot_windowBase (s : State) (k : PostSlotId) (f : PostSlot → PostSlot)  :
    (s.modSlot k f).windowBase = s.windowBase := rfl

/-! ## State.modReport -/

@[simp] theorem State.modReport_pending (s : State) (f : Report → Report) :
    (s.modReport f).pending = s.pending := rfl
@[simp] theorem State.modReport_pin (s : State) (f : Report → Report) :
    (s.modReport f).pin = s.pin := rfl
@[simp] theorem State.modReport_stationTime (s : State) (f : Report → Report) :
    (s.modReport f).stationTime = s.stationTime := rfl
@[simp] theorem State.modReport_msPhase (s : State) (f : Report → Report) :
    (s.modReport f).msPhase = s.msPhase := rfl
@[simp] theorem State.modReport_stationMs (s : State) (f : Report → Report) :
    (s.modReport f).stationMs = s.stationMs := rfl
@[simp] theorem State.modReport_upOrder (s : State) (f : Report → Report) :
    (s.modReport f).upOrder = s.upOrder := rfl
@[simp] theorem State.modReport_memReads (s : State) (f : Report → Report) :
    (s.modReport f).memReads = s.memReads := rfl
@[simp] theorem State.modReport_upWrites (s : State) (f : Report → Report) :
    (s.modReport f).upWrites = s.upWrites := rfl
@[simp] theorem State.modReport_runCount (s : State) (f : Report → Report) :
    (s.modReport f).runCount = s.runCount := rfl
@[simp] theorem State.modReport_memPort (s : State) (f : Report → Report) :
    (s.modReport f).memPort = s.memPort := rfl
@[simp] theorem State.modReport_upPort (s : State) (f : Report → Report) :
    (s.modReport f).upPort = s.upPort := rfl
@[simp] theorem State.modReport_lanes (s : State) (f : Report → Report) :
    (s.modReport f).lanes = s.lanes := rfl
@[simp] theorem State.modReport_clips (s : State) (f : Report → Report) :
    (s.modReport f).clips = s.clips := rfl
@[simp] theorem State.modReport_scanPos (s : State) (f : Report → Report) :
    (s.modReport f).scanPos = s.scanPos := rfl
@[simp] theorem State.modReport_fetchWait (s : State) (f : Report → Report) :
    (s.modReport f).fetchWait = s.fetchWait := rfl
@[simp] theorem State.modReport_orders (s : State) (f : Report → Report) :
    (s.modReport f).orders = s.orders := rfl
@[simp] theorem State.modReport_alerts (s : State) (f : Report → Report) :
    (s.modReport f).alerts = s.alerts := rfl
@[simp] theorem State.modReport_forceList (s : State) (f : Report → Report) :
    (s.modReport f).forceList = s.forceList := rfl
@[simp] theorem State.modReport_slots (s : State) (f : Report → Report) :
    (s.modReport f).slots = s.slots := rfl
@[simp] theorem State.modReport_queue (s : State) (f : Report → Report) :
    (s.modReport f).queue = s.queue := rfl
@[simp] theorem State.modReport_working (s : State) (f : Report → Report) :
    (s.modReport f).working = s.working := rfl
@[simp] theorem State.modReport_lane (s : State) (f : Report → Report) (k : LaneId) :
    (s.modReport f).lane k = s.lane k := rfl
@[simp] theorem State.modReport_clip (s : State) (f : Report → Report) (k : ClipId) :
    (s.modReport f).clip k = s.clip k := rfl
@[simp] theorem State.modReport_order (s : State) (f : Report → Report) (k : OrderId) :
    (s.modReport f).order k = s.order k := rfl
@[simp] theorem State.modReport_alert (s : State) (f : Report → Report) (k : AlertId) :
    (s.modReport f).alert k = s.alert k := rfl
@[simp] theorem State.modReport_slot (s : State) (f : Report → Report) (k : PostSlotId) :
    (s.modReport f).slot k = s.slot k := rfl
@[simp] theorem State.modReport_onLane (s : State) (f : Report → Report) (k : LaneId) :
    (s.modReport f).onLane k = s.onLane k := rfl
@[simp] theorem State.modReport_onOutput (s : State) (f : Report → Report) (k : LaneId) :
    (s.modReport f).onOutput k = s.onOutput k := rfl
@[simp] theorem State.modReport_clipReady (s : State) (f : Report → Report) (k : ClipId) :
    (s.modReport f).clipReady k = s.clipReady k := rfl
@[simp] theorem State.modReport_windowBase (s : State) (f : Report → Report)  :
    (s.modReport f).windowBase = s.windowBase := rfl

/-! ## State.handOver -/

@[simp] theorem State.handOver_pending (s : State) (x : AsRun) :
    (s.handOver x).pending = s.pending := rfl
@[simp] theorem State.handOver_pin (s : State) (x : AsRun) :
    (s.handOver x).pin = s.pin := rfl
@[simp] theorem State.handOver_stationTime (s : State) (x : AsRun) :
    (s.handOver x).stationTime = s.stationTime := rfl
@[simp] theorem State.handOver_msPhase (s : State) (x : AsRun) :
    (s.handOver x).msPhase = s.msPhase := rfl
@[simp] theorem State.handOver_stationMs (s : State) (x : AsRun) :
    (s.handOver x).stationMs = s.stationMs := rfl
@[simp] theorem State.handOver_upOrder (s : State) (x : AsRun) :
    (s.handOver x).upOrder = s.upOrder := rfl
@[simp] theorem State.handOver_memReads (s : State) (x : AsRun) :
    (s.handOver x).memReads = s.memReads := rfl
@[simp] theorem State.handOver_upWrites (s : State) (x : AsRun) :
    (s.handOver x).upWrites = s.upWrites := rfl
@[simp] theorem State.handOver_runCount (s : State) (x : AsRun) :
    (s.handOver x).runCount = s.runCount := rfl
@[simp] theorem State.handOver_memPort (s : State) (x : AsRun) :
    (s.handOver x).memPort = s.memPort := rfl
@[simp] theorem State.handOver_upPort (s : State) (x : AsRun) :
    (s.handOver x).upPort = s.upPort := rfl
@[simp] theorem State.handOver_lanes (s : State) (x : AsRun) :
    (s.handOver x).lanes = s.lanes := rfl
@[simp] theorem State.handOver_clips (s : State) (x : AsRun) :
    (s.handOver x).clips = s.clips := rfl
@[simp] theorem State.handOver_scanPos (s : State) (x : AsRun) :
    (s.handOver x).scanPos = s.scanPos := rfl
@[simp] theorem State.handOver_fetchWait (s : State) (x : AsRun) :
    (s.handOver x).fetchWait = s.fetchWait := rfl
@[simp] theorem State.handOver_orders (s : State) (x : AsRun) :
    (s.handOver x).orders = s.orders := rfl
@[simp] theorem State.handOver_alerts (s : State) (x : AsRun) :
    (s.handOver x).alerts = s.alerts := rfl
@[simp] theorem State.handOver_forceList (s : State) (x : AsRun) :
    (s.handOver x).forceList = s.forceList := rfl
@[simp] theorem State.handOver_slots (s : State) (x : AsRun) :
    (s.handOver x).slots = s.slots := rfl
@[simp] theorem State.handOver_queue (s : State) (x : AsRun) :
    (s.handOver x).queue = s.queue := rfl
@[simp] theorem State.handOver_working (s : State) (x : AsRun) :
    (s.handOver x).working = s.working := rfl
@[simp] theorem State.handOver_lane (s : State) (x : AsRun) (k : LaneId) :
    (s.handOver x).lane k = s.lane k := rfl
@[simp] theorem State.handOver_clip (s : State) (x : AsRun) (k : ClipId) :
    (s.handOver x).clip k = s.clip k := rfl
@[simp] theorem State.handOver_order (s : State) (x : AsRun) (k : OrderId) :
    (s.handOver x).order k = s.order k := rfl
@[simp] theorem State.handOver_alert (s : State) (x : AsRun) (k : AlertId) :
    (s.handOver x).alert k = s.alert k := rfl
@[simp] theorem State.handOver_slot (s : State) (x : AsRun) (k : PostSlotId) :
    (s.handOver x).slot k = s.slot k := rfl
@[simp] theorem State.handOver_onLane (s : State) (x : AsRun) (k : LaneId) :
    (s.handOver x).onLane k = s.onLane k := rfl
@[simp] theorem State.handOver_onOutput (s : State) (x : AsRun) (k : LaneId) :
    (s.handOver x).onOutput k = s.onOutput k := rfl
@[simp] theorem State.handOver_clipReady (s : State) (x : AsRun) (k : ClipId) :
    (s.handOver x).clipReady k = s.clipReady k := rfl
@[simp] theorem State.handOver_windowBase (s : State) (x : AsRun)  :
    (s.handOver x).windowBase = s.windowBase := rfl

/-! ## State.withdraw -/

@[simp] theorem State.withdraw_pending (s : State) (l : LaneId) (b : Bool) :
    (s.withdraw l b).pending = s.pending := rfl
@[simp] theorem State.withdraw_pin (s : State) (l : LaneId) (b : Bool) :
    (s.withdraw l b).pin = s.pin := rfl
@[simp] theorem State.withdraw_stationTime (s : State) (l : LaneId) (b : Bool) :
    (s.withdraw l b).stationTime = s.stationTime := rfl
@[simp] theorem State.withdraw_msPhase (s : State) (l : LaneId) (b : Bool) :
    (s.withdraw l b).msPhase = s.msPhase := rfl
@[simp] theorem State.withdraw_stationMs (s : State) (l : LaneId) (b : Bool) :
    (s.withdraw l b).stationMs = s.stationMs := rfl
@[simp] theorem State.withdraw_upOrder (s : State) (l : LaneId) (b : Bool) :
    (s.withdraw l b).upOrder = s.upOrder := rfl
@[simp] theorem State.withdraw_memReads (s : State) (l : LaneId) (b : Bool) :
    (s.withdraw l b).memReads = s.memReads := rfl
@[simp] theorem State.withdraw_upWrites (s : State) (l : LaneId) (b : Bool) :
    (s.withdraw l b).upWrites = s.upWrites := rfl
@[simp] theorem State.withdraw_runCount (s : State) (l : LaneId) (b : Bool) :
    (s.withdraw l b).runCount = s.runCount := rfl
@[simp] theorem State.withdraw_memPort (s : State) (l : LaneId) (b : Bool) :
    (s.withdraw l b).memPort = s.memPort := rfl
@[simp] theorem State.withdraw_upPort (s : State) (l : LaneId) (b : Bool) :
    (s.withdraw l b).upPort = s.upPort := rfl
@[simp] theorem State.withdraw_lanes (s : State) (l : LaneId) (b : Bool) :
    (s.withdraw l b).lanes = s.lanes := rfl
@[simp] theorem State.withdraw_clips (s : State) (l : LaneId) (b : Bool) :
    (s.withdraw l b).clips = s.clips := rfl
@[simp] theorem State.withdraw_scanPos (s : State) (l : LaneId) (b : Bool) :
    (s.withdraw l b).scanPos = s.scanPos := rfl
@[simp] theorem State.withdraw_orders (s : State) (l : LaneId) (b : Bool) :
    (s.withdraw l b).orders = s.orders := rfl
@[simp] theorem State.withdraw_alerts (s : State) (l : LaneId) (b : Bool) :
    (s.withdraw l b).alerts = s.alerts := rfl
@[simp] theorem State.withdraw_forceList (s : State) (l : LaneId) (b : Bool) :
    (s.withdraw l b).forceList = s.forceList := rfl
@[simp] theorem State.withdraw_slots (s : State) (l : LaneId) (b : Bool) :
    (s.withdraw l b).slots = s.slots := rfl
@[simp] theorem State.withdraw_queue (s : State) (l : LaneId) (b : Bool) :
    (s.withdraw l b).queue = s.queue := rfl
@[simp] theorem State.withdraw_working (s : State) (l : LaneId) (b : Bool) :
    (s.withdraw l b).working = s.working := rfl
@[simp] theorem State.withdraw_report (s : State) (l : LaneId) (b : Bool) :
    (s.withdraw l b).report = s.report := rfl
@[simp] theorem State.withdraw_lane (s : State) (l : LaneId) (b : Bool) (k : LaneId) :
    (s.withdraw l b).lane k = s.lane k := rfl
@[simp] theorem State.withdraw_clip (s : State) (l : LaneId) (b : Bool) (k : ClipId) :
    (s.withdraw l b).clip k = s.clip k := rfl
@[simp] theorem State.withdraw_order (s : State) (l : LaneId) (b : Bool) (k : OrderId) :
    (s.withdraw l b).order k = s.order k := rfl
@[simp] theorem State.withdraw_alert (s : State) (l : LaneId) (b : Bool) (k : AlertId) :
    (s.withdraw l b).alert k = s.alert k := rfl
@[simp] theorem State.withdraw_slot (s : State) (l : LaneId) (b : Bool) (k : PostSlotId) :
    (s.withdraw l b).slot k = s.slot k := rfl
@[simp] theorem State.withdraw_onLane (s : State) (l : LaneId) (b : Bool) (k : LaneId) :
    (s.withdraw l b).onLane k = s.onLane k := rfl
@[simp] theorem State.withdraw_onOutput (s : State) (l : LaneId) (b : Bool) (k : LaneId) :
    (s.withdraw l b).onOutput k = s.onOutput k := rfl
@[simp] theorem State.withdraw_clipReady (s : State) (l : LaneId) (b : Bool) (k : ClipId) :
    (s.withdraw l b).clipReady k = s.clipReady k := rfl
@[simp] theorem State.withdraw_windowBase (s : State) (l : LaneId) (b : Bool)  :
    (s.withdraw l b).windowBase = s.windowBase := rfl

/-! ## State.abandonReads -/

@[simp] theorem State.abandonReads_pending (s : State) (l : LaneId) :
    (s.abandonReads l).pending = s.pending := rfl
@[simp] theorem State.abandonReads_pin (s : State) (l : LaneId) :
    (s.abandonReads l).pin = s.pin := rfl
@[simp] theorem State.abandonReads_stationTime (s : State) (l : LaneId) :
    (s.abandonReads l).stationTime = s.stationTime := rfl
@[simp] theorem State.abandonReads_msPhase (s : State) (l : LaneId) :
    (s.abandonReads l).msPhase = s.msPhase := rfl
@[simp] theorem State.abandonReads_stationMs (s : State) (l : LaneId) :
    (s.abandonReads l).stationMs = s.stationMs := rfl
@[simp] theorem State.abandonReads_upWrites (s : State) (l : LaneId) :
    (s.abandonReads l).upWrites = s.upWrites := rfl
@[simp] theorem State.abandonReads_runCount (s : State) (l : LaneId) :
    (s.abandonReads l).runCount = s.runCount := rfl
@[simp] theorem State.abandonReads_memPort (s : State) (l : LaneId) :
    (s.abandonReads l).memPort = s.memPort := rfl
@[simp] theorem State.abandonReads_upPort (s : State) (l : LaneId) :
    (s.abandonReads l).upPort = s.upPort := rfl
@[simp] theorem State.abandonReads_lanes (s : State) (l : LaneId) :
    (s.abandonReads l).lanes = s.lanes := rfl
@[simp] theorem State.abandonReads_clips (s : State) (l : LaneId) :
    (s.abandonReads l).clips = s.clips := rfl
@[simp] theorem State.abandonReads_scanPos (s : State) (l : LaneId) :
    (s.abandonReads l).scanPos = s.scanPos := rfl
@[simp] theorem State.abandonReads_fetchWait (s : State) (l : LaneId) :
    (s.abandonReads l).fetchWait = s.fetchWait := rfl
@[simp] theorem State.abandonReads_orders (s : State) (l : LaneId) :
    (s.abandonReads l).orders = s.orders := rfl
@[simp] theorem State.abandonReads_alerts (s : State) (l : LaneId) :
    (s.abandonReads l).alerts = s.alerts := rfl
@[simp] theorem State.abandonReads_forceList (s : State) (l : LaneId) :
    (s.abandonReads l).forceList = s.forceList := rfl
@[simp] theorem State.abandonReads_slots (s : State) (l : LaneId) :
    (s.abandonReads l).slots = s.slots := rfl
@[simp] theorem State.abandonReads_queue (s : State) (l : LaneId) :
    (s.abandonReads l).queue = s.queue := rfl
@[simp] theorem State.abandonReads_working (s : State) (l : LaneId) :
    (s.abandonReads l).working = s.working := rfl
@[simp] theorem State.abandonReads_report (s : State) (l : LaneId) :
    (s.abandonReads l).report = s.report := rfl
@[simp] theorem State.abandonReads_lane (s : State) (l : LaneId) (k : LaneId) :
    (s.abandonReads l).lane k = s.lane k := rfl
@[simp] theorem State.abandonReads_clip (s : State) (l : LaneId) (k : ClipId) :
    (s.abandonReads l).clip k = s.clip k := rfl
@[simp] theorem State.abandonReads_order (s : State) (l : LaneId) (k : OrderId) :
    (s.abandonReads l).order k = s.order k := rfl
@[simp] theorem State.abandonReads_alert (s : State) (l : LaneId) (k : AlertId) :
    (s.abandonReads l).alert k = s.alert k := rfl
@[simp] theorem State.abandonReads_slot (s : State) (l : LaneId) (k : PostSlotId) :
    (s.abandonReads l).slot k = s.slot k := rfl
@[simp] theorem State.abandonReads_onLane (s : State) (l : LaneId) (k : LaneId) :
    (s.abandonReads l).onLane k = s.onLane k := rfl
@[simp] theorem State.abandonReads_onOutput (s : State) (l : LaneId) (k : LaneId) :
    (s.abandonReads l).onOutput k = s.onOutput k := rfl
@[simp] theorem State.abandonReads_clipReady (s : State) (l : LaneId) (k : ClipId) :
    (s.abandonReads l).clipReady k = s.clipReady k := rfl
@[simp] theorem State.abandonReads_windowBase (s : State) (l : LaneId)  :
    (s.abandonReads l).windowBase = s.windowBase := rfl

/-! ## Entries read after an update -/

theorem vec_get_set_self {α : Type} {n : Nat} (v : Vector α n) (i : Fin n) (x : α) : (v.set i x)[i] = x := by
  simp

theorem vec_get_set_ne {α : Type} {n : Nat} (v : Vector α n) (i j : Fin n) (x : α) (h : j ≠ i) :
    (v.set i x)[j] = v[j] := by
  have : i.val ≠ j.val := fun e => h (Fin.ext e.symm)
  simp [this]

@[simp] theorem State.lane_setLane_self (s : State) (l : LaneId) (x : Lane) : (s.setLane l x).lane l = x :=
  vec_get_set_self _ _ _
theorem State.lane_setLane_ne (s : State) {l k : LaneId} (x : Lane) (h : k ≠ l) : (s.setLane l x).lane k = s.lane k :=
  vec_get_set_ne _ _ _ _ h
theorem State.lane_setLane (s : State) (l k : LaneId) (x : Lane) :
    (s.setLane l x).lane k = if k = l then x else s.lane k := by
  split
  · next h => subst h; simp
  · next h => exact lane_setLane_ne s x h
@[simp] theorem State.lane_modLane_self (s : State) (l : LaneId) (f : Lane → Lane) :
    (s.modLane l f).lane l = f (s.lane l) := lane_setLane_self _ _ _
theorem State.lane_modLane_ne (s : State) {l k : LaneId} (f : Lane → Lane) (h : k ≠ l) :
    (s.modLane l f).lane k = s.lane k := lane_setLane_ne _ _ h
theorem State.lane_modLane (s : State) (l k : LaneId) (f : Lane → Lane) :
    (s.modLane l f).lane k = if k = l then f (s.lane l) else s.lane k := lane_setLane _ _ _ _
@[simp] theorem State.lane_modOn_self (s : State) (l : LaneId) (f : OnLane → OnLane) :
    (s.modOn l f).lane l = { s.lane l with on := (s.lane l).on.map f } := lane_modLane_self _ _ _
theorem State.lane_modOn_ne (s : State) {l k : LaneId} (f : OnLane → OnLane) (h : k ≠ l) :
    (s.modOn l f).lane k = s.lane k := lane_modLane_ne _ _ h
theorem State.lane_modOn (s : State) (l k : LaneId) (f : OnLane → OnLane) :
    (s.modOn l f).lane k = if k = l then { s.lane l with on := (s.lane l).on.map f } else s.lane k :=
  lane_modLane _ _ _ _

@[simp] theorem State.clip_modClip_self (s : State) (c : ClipId) (f : Clip → Clip) :
    (s.modClip c f).clip c = f (s.clip c) := vec_get_set_self _ _ _
theorem State.clip_modClip_ne (s : State) {c k : ClipId} (f : Clip → Clip) (h : k ≠ c) :
    (s.modClip c f).clip k = s.clip k := vec_get_set_ne _ _ _ _ h
theorem State.clip_modClip (s : State) (c k : ClipId) (f : Clip → Clip) :
    (s.modClip c f).clip k = if k = c then f (s.clip c) else s.clip k := by
  split
  · next h => subst h; simp
  · next h => exact clip_modClip_ne s f h

@[simp] theorem State.order_setOrder_self (s : State) (i : OrderId) (x : Order) : (s.setOrder i x).order i = x :=
  vec_get_set_self _ _ _
theorem State.order_setOrder_ne (s : State) {i k : OrderId} (x : Order) (h : k ≠ i) :
    (s.setOrder i x).order k = s.order k := vec_get_set_ne _ _ _ _ h
theorem State.order_setOrder (s : State) (i k : OrderId) (x : Order) :
    (s.setOrder i x).order k = if k = i then x else s.order k := by
  split
  · next h => subst h; simp
  · next h => exact order_setOrder_ne s x h
@[simp] theorem State.order_modOrder_self (s : State) (i : OrderId) (f : Order → Order) :
    (s.modOrder i f).order i = f (s.order i) := order_setOrder_self _ _ _
theorem State.order_modOrder (s : State) (i k : OrderId) (f : Order → Order) :
    (s.modOrder i f).order k = if k = i then f (s.order i) else s.order k := order_setOrder _ _ _ _

@[simp] theorem State.alert_modAlert_self (s : State) (a : AlertId) (f : Alert → Alert) :
    (s.modAlert a f).alert a = f (s.alert a) := vec_get_set_self _ _ _
theorem State.alert_modAlert_ne (s : State) {a k : AlertId} (f : Alert → Alert) (h : k ≠ a) :
    (s.modAlert a f).alert k = s.alert k := vec_get_set_ne _ _ _ _ h
theorem State.alert_modAlert (s : State) (a k : AlertId) (f : Alert → Alert) :
    (s.modAlert a f).alert k = if k = a then f (s.alert a) else s.alert k := by
  split
  · next h => subst h; simp
  · next h => exact alert_modAlert_ne s f h

@[simp] theorem State.slot_modSlot_self (s : State) (k : PostSlotId) (f : PostSlot → PostSlot) :
    (s.modSlot k f).slot k = f (s.slot k) := vec_get_set_self _ _ _
theorem State.slot_modSlot_ne (s : State) {k j : PostSlotId} (f : PostSlot → PostSlot) (h : j ≠ k) :
    (s.modSlot k f).slot j = s.slot j := vec_get_set_ne _ _ _ _ h
theorem State.slot_modSlot (s : State) (k j : PostSlotId) (f : PostSlot → PostSlot) :
    (s.modSlot k f).slot j = if j = k then f (s.slot k) else s.slot j := by
  split
  · next h => subst h; simp
  · next h => exact slot_modSlot_ne s f h

@[simp] theorem State.modReport_report (s : State) (f : Report → Report) : (s.modReport f).report = f s.report := rfl
@[simp] theorem State.handOver_report (s : State) (x : AsRun) : (s.handOver x).report = s.report.handOver x := rfl

@[simp] theorem State.clip_lock_self (s : State) (c : ClipId) :
    (s.lock c).clip c = { s.clip c with locks := (s.clip c).locks + 1 } := clip_modClip_self _ _ _
@[simp] theorem State.clip_release_self (s : State) (c : ClipId) :
    (s.release c).clip c = { s.clip c with locks := (s.clip c).locks - 1 } := clip_modClip_self _ _ _

/-! ## Entries of a lane under its counter updates -/

@[simp] theorem Lane.note_record (ln : Lane) (c : Counter) (f : Flag) : (ln.note c f).record = ln.record := rfl
@[simp] theorem Lane.note_on (ln : Lane) (c : Counter) (f : Flag) : (ln.note c f).on = ln.on := rfl
@[simp] theorem Lane.note_queueGen (ln : Lane) (c : Counter) (f : Flag) : (ln.note c f).queueGen = ln.queueGen := rfl
@[simp] theorem Lane.note_interjectGen (ln : Lane) (c : Counter) (f : Flag) :
    (ln.note c f).interjectGen = ln.interjectGen := rfl
@[simp] theorem Lane.raise_record (ln : Lane) (c : Counter) : (ln.raise c).record = ln.record := rfl
@[simp] theorem Lane.raise_on (ln : Lane) (c : Counter) : (ln.raise c).on = ln.on := rfl
@[simp] theorem Lane.raise_flags (ln : Lane) (c : Counter) : (ln.raise c).flags = ln.flags := rfl
@[simp] theorem Lane.setFlag_record (ln : Lane) (f : Flag) : (ln.setFlag f).record = ln.record := rfl
@[simp] theorem Lane.setFlag_on (ln : Lane) (f : Flag) : (ln.setFlag f).on = ln.on := rfl
@[simp] theorem Lane.setFlag_counts (ln : Lane) (f : Flag) : (ln.setFlag f).counts = ln.counts := rfl

/-! ## Entries of a vector changed entry by entry -/

theorem mapEntries_get {α : Type} {n : Nat} (f : Nat → α → α) (v : Vector α n) (i : Fin n) :
    (mapEntries f v)[i] = f i v[i] := by
  simp [mapEntries]

end Sys2Proof.Machine
end

