-- ==== Sys2Proof/Laws/Inner.lean ====
section
/-! SUPPORT. What the operations inside a lane can do, said once for each: they leave the memory path, the posting engine,
the force list, the clock, every lane record, every clip's fields and every alert's fields alone, keep every lane ON or OFF,
and reach the report writer by hand-overs only. `g` is any reading of an ON lane's context that the operation cannot
change. -/

namespace Sys2Proof.Machine

/-- `t` is what an operation inside the lanes can make of `s`, and every ON lane's `g` is kept. -/
structure Inner {α : Type} (g : OnLane → α) (s t : State) : Prop where
  pending : t.pending = s.pending
  pin : t.pin = s.pin
  stationTime : t.stationTime = s.stationTime
  msPhase : t.msPhase = s.msPhase
  stationMs : t.stationMs = s.stationMs
  upOrder : t.upOrder = s.upOrder
  memReads : t.memReads = s.memReads
  upWrites : t.upWrites = s.upWrites
  runCount : t.runCount = s.runCount
  memPort : t.memPort = s.memPort
  upPort : t.upPort = s.upPort
  scanPos : t.scanPos = s.scanPos
  forceList : t.forceList = s.forceList
  slots : t.slots = s.slots
  queue : t.queue = s.queue
  working : t.working = s.working
  report : ∃ xs : List AsRun, t.report = xs.foldl Report.handOver s.report
  record : ∀ l, (t.lane l).record = (s.lane l).record
  on : ∀ l, (t.lane l).on.map g = (s.lane l).on.map g
  clip : ∀ c, (t.clip c).body = (s.clip c).body
  alert : ∀ a, (t.alert a).body = (s.alert a).body ∧ (t.alert a).inForce = (s.alert a).inForce ∧
    (t.alert a).start = (s.alert a).start ∧ (t.alert a).timer = (s.alert a).timer

/-- A reading of an ON lane's context that looks at none of its fetch state, selector, insertion context, alert stack, feed
and clock model. -/
structure Blind {α : Type} (g : OnLane → α) : Prop where
  fetch : ∀ o x, g { o with fetch := x } = g o
  sel : ∀ o x, g { o with sel := x } = g o
  active : ∀ o x, g { o with active := x } = g o
  waiting : ∀ o x, g { o with waiting := x } = g o
  stack : ∀ o x, g { o with stack := x } = g o
  feed : ∀ o x, g { o with feed := x } = g o
  clock : ∀ o x, g { o with clock := x } = g o

/-- Two contexts with the same tracker context and recent cues read the same. -/
theorem Blind.eq {α : Type} {g : OnLane → α} (hg : Blind g) {o p : OnLane} (ht : o.track = p.track)
    (hc : o.cues = p.cues) : g o = g p := by
  have h : o = { p with
      clock := o.clock, feed := o.feed, active := o.active, waiting := o.waiting, stack := o.stack, fetch := o.fetch,
      sel := o.sel } := by
    cases o; cases p; cases ht; cases hc; rfl
  rw [h]
  refine Eq.trans (hg.sel { p with
    clock := o.clock, feed := o.feed, active := o.active, waiting := o.waiting, stack := o.stack, fetch := o.fetch } _) ?_
  refine Eq.trans (hg.fetch { p with
    clock := o.clock, feed := o.feed, active := o.active, waiting := o.waiting, stack := o.stack } _) ?_
  refine Eq.trans (hg.stack { p with
    clock := o.clock, feed := o.feed, active := o.active, waiting := o.waiting } _) ?_
  refine Eq.trans (hg.waiting { p with clock := o.clock, feed := o.feed, active := o.active } _) ?_
  refine Eq.trans (hg.active { p with clock := o.clock, feed := o.feed } _) ?_
  exact (hg.feed { p with clock := o.clock } _).trans (hg.clock p _)

theorem blind_track : Blind OnLane.track :=
  ⟨fun _ _ => rfl, fun _ _ => rfl, fun _ _ => rfl, fun _ _ => rfl, fun _ _ => rfl, fun _ _ => rfl, fun _ _ => rfl⟩
theorem blind_cues : Blind OnLane.cues :=
  ⟨fun _ _ => rfl, fun _ _ => rfl, fun _ _ => rfl, fun _ _ => rfl, fun _ _ => rfl, fun _ _ => rfl, fun _ _ => rfl⟩
theorem blind_unit : Blind (fun _ : OnLane => ()) :=
  ⟨fun _ _ => rfl, fun _ _ => rfl, fun _ _ => rfl, fun _ _ => rfl, fun _ _ => rfl, fun _ _ => rfl, fun _ _ => rfl⟩

variable {α : Type} {g : OnLane → α} {s t u : State}

theorem Inner.refl (s : State) : Inner g s s :=
  ⟨rfl, rfl, rfl, rfl, rfl, rfl, rfl, rfl, rfl, rfl, rfl, rfl, rfl, rfl, rfl, rfl, ⟨[], rfl⟩, fun _ => rfl, fun _ => rfl,
    fun _ => rfl, fun _ => ⟨rfl, rfl, rfl, rfl⟩⟩

theorem Inner.trans (h : Inner g s t) (k : Inner g t u) : Inner g s u where
  pending := k.pending.trans h.pending
  pin := k.pin.trans h.pin
  stationTime := k.stationTime.trans h.stationTime
  msPhase := k.msPhase.trans h.msPhase
  stationMs := k.stationMs.trans h.stationMs
  upOrder := k.upOrder.trans h.upOrder
  memReads := k.memReads.trans h.memReads
  upWrites := k.upWrites.trans h.upWrites
  runCount := k.runCount.trans h.runCount
  memPort := k.memPort.trans h.memPort
  upPort := k.upPort.trans h.upPort
  scanPos := k.scanPos.trans h.scanPos
  forceList := k.forceList.trans h.forceList
  slots := k.slots.trans h.slots
  queue := k.queue.trans h.queue
  working := k.working.trans h.working
  report := by
    obtain ⟨xs, hx⟩ := h.report
    obtain ⟨ys, hy⟩ := k.report
    exact ⟨xs ++ ys, by rw [hy, hx, List.foldl_append]⟩
  record l := (k.record l).trans (h.record l)
  on l := (k.on l).trans (h.on l)
  clip c := (k.clip c).trans (h.clip c)
  alert a :=
    ⟨(k.alert a).1.trans (h.alert a).1, (k.alert a).2.1.trans (h.alert a).2.1, (k.alert a).2.2.1.trans (h.alert a).2.2.1,
      (k.alert a).2.2.2.trans (h.alert a).2.2.2⟩

/-! ## The single updates -/

theorem inner_modLane (l : LaneId) (f : Lane → Lane) (hr : ∀ x, (f x).record = x.record)
    (ho : ∀ x, (f x).on.map g = x.on.map g) : Inner g s (s.modLane l f) :=
  { Inner.refl (g := g) s with
    record := fun k => by rw [State.lane_modLane]; split <;> simp_all
    on := fun k => by rw [State.lane_modLane]; split <;> simp_all }

theorem inner_modOn (l : LaneId) (f : OnLane → OnLane) (hf : ∀ o, g (f o) = g o) : Inner g s (s.modOn l f) :=
  inner_modLane l _ (fun _ => rfl) fun x => by cases x.on <;> simp [hf]

theorem inner_note (l : LaneId) (c : Counter) (f : Flag) : Inner g s (s.note l c f) :=
  inner_modLane l _ (fun _ => rfl) fun _ => rfl

theorem inner_raise (l : LaneId) (c : Counter) : Inner g s (s.raise l c) :=
  inner_modLane l _ (fun _ => rfl) fun _ => rfl

theorem inner_modClip (c : ClipId) (f : Clip → Clip) (hf : ∀ x, (f x).body = x.body) : Inner g s (s.modClip c f) :=
  { Inner.refl (g := g) s with clip := fun k => by rw [State.clip_modClip]; split <;> simp_all }

theorem inner_lock (c : ClipId) : Inner g s (s.lock c) := inner_modClip c _ fun _ => rfl
theorem inner_release (c : ClipId) : Inner g s (s.release c) := inner_modClip c _ fun _ => rfl

theorem inner_setOrder (i : OrderId) (x : Order) : Inner g s (s.setOrder i x) := { Inner.refl (g := g) s with }
theorem inner_modOrder (i : OrderId) (f : Order → Order) : Inner g s (s.modOrder i f) := { Inner.refl (g := g) s with }

theorem inner_modAlert (a : AlertId) (f : Alert → Alert)
    (hf : ∀ x, (f x).body = x.body ∧ (f x).inForce = x.inForce ∧ (f x).start = x.start ∧ (f x).timer = x.timer) :
    Inner g s (s.modAlert a f) :=
  { Inner.refl (g := g) s with
    alert := fun k => by
      rw [State.alert_modAlert]
      split
      · next h => subst h; exact hf _
      · exact ⟨rfl, rfl, rfl, rfl⟩ }

theorem inner_handOver (x : AsRun) : Inner g s (s.handOver x) := { Inner.refl (g := g) s with report := ⟨[x], rfl⟩ }

theorem inner_withdraw (l : LaneId) (b : Bool) : Inner g s (s.withdraw l b) := { Inner.refl (g := g) s with }

theorem inner_fetchWait (w : Option (FetchTag × Nat)) : Inner g s { s with fetchWait := w } :=
  { Inner.refl (g := g) s with }

theorem inner_foldl {β : Type} (f : State → β → State) (h : ∀ s b, Inner g s (f s b)) (xs : List β) :
    ∀ s, Inner g s (xs.foldl f s) := by
  induction xs with
  | nil => exact fun s => Inner.refl s
  | cons x xs ih => exact fun s => (h s x).trans (ih _)

theorem inner_lockOrder (b : OrderBody) : Inner g s (lockOrder s b) := inner_foldl _ (fun _ c => inner_lock c) _ s
theorem inner_releaseOrder (b : OrderBody) : Inner g s (releaseOrder s b) := inner_foldl _ (fun _ c => inner_release c) _ s

/-! ## The same updates after others -/

theorem Inner.modLane {l : LaneId} {f : Lane → Lane} (h : Inner g s t) (hr : ∀ x, (f x).record = x.record)
    (ho : ∀ x, (f x).on.map g = x.on.map g) : Inner g s (t.modLane l f) := h.trans (inner_modLane l f hr ho)
theorem Inner.modOn {l : LaneId} {f : OnLane → OnLane} (h : Inner g s t) (hf : ∀ o, g (f o) = g o) :
    Inner g s (t.modOn l f) := h.trans (inner_modOn l f hf)
theorem Inner.note {l : LaneId} {c : Counter} {f : Flag} (h : Inner g s t) : Inner g s (t.note l c f) :=
  h.trans (inner_note l c f)
theorem Inner.raise {l : LaneId} {c : Counter} (h : Inner g s t) : Inner g s (t.raise l c) := h.trans (inner_raise l c)
theorem Inner.modAlert {a : AlertId} {f : Alert → Alert} (h : Inner g s t)
    (hf : ∀ x, (f x).body = x.body ∧ (f x).inForce = x.inForce ∧ (f x).start = x.start ∧ (f x).timer = x.timer) :
    Inner g s (t.modAlert a f) := h.trans (inner_modAlert a f hf)
theorem Inner.handOver {x : AsRun} (h : Inner g s t) : Inner g s (t.handOver x) := h.trans (inner_handOver x)
theorem Inner.withdraw {l : LaneId} {b : Bool} (h : Inner g s t) : Inner g s (t.withdraw l b) :=
  h.trans (inner_withdraw l b)
theorem Inner.modOrder {i : OrderId} {f : Order → Order} (h : Inner g s t) : Inner g s (t.modOrder i f) :=
  h.trans (inner_modOrder i f)
theorem Inner.ite {c : Prop} [Decidable c] (h : Inner g s t) (k : Inner g s u) : Inner g s (if c then t else u) := by
  split
  · exact h
  · exact k

/-! ## The source fetcher -/

theorem inner_flushQueue (hg : Blind g) (l : LaneId) (s : State) : Inner g s (flushQueue l s) := by
  refine ((Inner.refl s).modLane ?_ ?_).withdraw
  · exact fun _ => rfl
  · intro x; cases x.on <;> simp [hg.fetch]

theorem inner_flushInterject (hg : Blind g) (l : LaneId) (s : State) : Inner g s (flushInterject l s) := by
  refine ((Inner.refl s).modLane ?_ ?_).withdraw
  · exact fun _ => rfl
  · intro x; cases x.on <;> simp [hg.fetch]

theorem setSource_blind (hg : Blind g) (s : State) (r : LaneRecord) (w : Option FetchId) (o : OnLane) :
    g (setSource s r w o) = g o := by
  exact hg.eq rfl rfl

theorem inner_judgeSource (hg : Blind g) (l : LaneId) (s : State) : Inner g s (judgeSource l s) := by
  unfold judgeSource
  split
  · exact Inner.refl s
  · dsimp only
    split
    · exact Inner.refl s
    · exact (inner_flushQueue hg l s).trans (inner_modOn l _ (setSource_blind hg s _ _))

theorem withTap_blind (hg : Blind g) (t : Tap) (o : OnLane) : g (o.withTap t) = g o := hg.fetch o _

theorem inner_replaceTap (hg : Blind g) (l : LaneId) (t : Tap) (s : State) : Inner g s (replaceTap l t s) :=
  (inner_flushQueue hg l s).trans (inner_modOn l _ (withTap_blind hg t))

theorem inner_forTaps (src : LaneId) (f : LaneId → Tap → State → State) (h : ∀ l t s, Inner g s (f l t s)) (s : State) :
    Inner g s (forTaps src f s) := by
  unfold forTaps
  refine inner_foldl _ (fun s l => ?_) _ s
  split
  · exact h _ _ _
  · exact Inner.refl s

theorem inner_tapsIngest (hg : Blind g) (src : LaneId) (n : Nat) (s : State) : Inner g s (tapsIngest src n s) := by
  refine inner_forTaps src _ (fun l t s => ?_) s
  split
  · exact Inner.refl s
  · split
    · exact (inner_replaceTap hg l _ s).trans (inner_note l _ _)
    · exact inner_modOn l _ fun o => withTap_blind hg _ o

theorem inner_tapsLost (hg : Blind g) (src : LaneId) (s : State) : Inner g s (tapsLost src s) :=
  inner_forTaps src _ (fun l _ _ => inner_modOn l _ fun o => withTap_blind hg _ o) s

theorem inner_tapsResync (hg : Blind g) (src : LaneId) (k : Nat) (s : State) : Inner g s (tapsResync src k s) :=
  inner_forTaps src _ (fun l _ s => inner_replaceTap hg l _ s) s

theorem inner_setReadFault (s : State) (x : Origin) : Inner g s (setReadFault s x) := by
  cases x with
  | clip c k => exact inner_modClip c (fun x => { x with readFault := true }) fun _ => rfl
  | tap l k => exact Inner.refl s

theorem inner_interjectFault (hg : Blind g) (l : LaneId) (o : OnLane) (x : Origin) (s : State) :
    Inner g s (interjectFault l o x s) := by
  unfold interjectFault
  dsimp only
  split
  · exact (inner_setReadFault s x).note
  · refine ((inner_setReadFault s x).note.modAlert ?_).modOn ?_
    · exact fun _ => ⟨rfl, rfl, rfl, rfl⟩
    · exact fun _ => hg.eq rfl rfl

theorem inner_completeFetch (hg : Blind g) (t : FetchTag) (d : SlotData) (e : BitVec 3) (s : State) :
    Inner g s (completeFetch t d e s) := by
  unfold completeFetch
  split
  · exact Inner.refl s
  · split
    · exact Inner.refl s
    · split
      · split
        · exact inner_interjectFault hg _ _ _ s
        · exact inner_modOn _ _ fun _ => hg.eq rfl rfl
      · exact inner_modOn _ _ fun _ => hg.eq rfl rfl

theorem inner_issuePrefetch (hg : Blind g) (l : LaneId) (n : Origin × Nat × Bool × FetchCursor) (s : State) :
    Inner g s (issuePrefetch l n s) := (inner_fetchWait _).trans (inner_modOn l _ fun _ => hg.eq rfl rfl)

theorem inner_issueInterject (hg : Blind g) (l : LaneId) (n : Origin × Nat × Bool × InterjectCursor) (s : State) :
    Inner g s (issueInterject l n s) := (inner_fetchWait _).trans (inner_modOn l _ fun _ => hg.eq rfl rfl)

theorem inner_issueFor (hg : Blind g) (l : LaneId) (s t : State) (h : issueFor l s = some t) : Inner g s t := by
  unfold issueFor at h
  dsimp only at h
  split at h
  · cases h
    split
    · exact inner_issuePrefetch hg l _ s
    · exact inner_issueInterject hg l _ s
  · cases h; exact inner_issuePrefetch hg l _ s
  · cases h; exact inner_issueInterject hg l _ s
  · cases h

/-! ## The insertion controller -/

theorem inner_bindOrder (hg : Blind g) (l : LaneId) (i : OrderId) (e : BitVec 32) (k : BreakKind) (t : Stamp)
    (d : Option Stamp) (s : State) : Inner g s (bindOrder l i e k t d s) := by
  unfold bindOrder
  split
  · exact Inner.refl s
  · refine (((Inner.refl s).modOrder.trans (inner_lockOrder _)).modOn ?_).trans (inner_judgeSource hg l _)
    exact fun _ => hg.eq rfl rfl

theorem inner_disposeOrder (i : OrderId) (s : State) : Inner g s (disposeOrder i s) := by
  unfold disposeOrder
  split
  · exact (inner_modOrder i _).trans (inner_releaseOrder _)
  · exact inner_modOrder i _

theorem inner_endInsertion (hg : Blind g) (l : LaneId) (a : ActiveInsertion) (k : RecordKind) (t : Option Stamp)
    (s : State) : Inner g s (endInsertion l a k t s) := by
  refine Inner.trans (Inner.modOn (Inner.trans (Inner.refl s).handOver (inner_disposeOrder _ _)) ?_)
    (inner_judgeSource hg l _)
  exact fun _ => hg.eq rfl rfl

theorem inner_endingStep (hg : Blind g) (l : LaneId) (p : Option Stamp) (s : State) : Inner g s (endingStep l p s) := by
  unfold endingStep
  split
  · exact Inner.refl s
  · split
    · exact inner_endInsertion hg l _ _ _ s
    · exact Inner.refl s

theorem inner_spliceIn (hg : Blind g) (l : LaneId) (w : WaitingCue) (p : Stamp) (s : State) :
    Inner g s (spliceIn l w p s) := by
  refine Inner.trans (Inner.modOn (Inner.refl s).modOrder ?_) (inner_judgeSource hg l _)
  exact fun o => hg.eq rfl rfl

theorem inner_spliceStep (hg : Blind g) (l : LaneId) (p : Option Stamp) (s : State) : Inner g s (spliceStep l p s) := by
  unfold spliceStep
  split
  · next w0 x0 hw =>
    split
    · dsimp only
      have h : ∀ t, Inner g s t → Inner g s (match ((spliceIn l w0 x0 t).lane l).on.bind OnLane.active with
          | some a =>
            if reached (some x0) a.ret then endInsertion l a (returnKind a) (some x0) (spliceIn l w0 x0 t)
            else spliceIn l w0 x0 t
          | none => spliceIn l w0 x0 t) := fun t ht => by
        have hs := ht.trans (inner_spliceIn hg l w0 x0 t)
        split
        · exact Inner.ite (hs.trans (inner_endInsertion hg l _ _ _ _)) hs
        · exact hs
      cases (s.lane l).on.bind OnLane.active with
      | some a => exact h _ (inner_endInsertion hg l _ _ _ s)
      | none => exact h _ (Inner.refl s)
    · exact Inner.refl s
  · exact Inner.refl s

theorem inner_insertionSteps (hg : Blind g) (l : LaneId) (p : Option Stamp) (s : State) :
    Inner g s (insertionSteps l p s) := (inner_endingStep hg l p s).trans (inner_spliceStep hg l p _)

theorem inner_removeWaiting (hg : Blind g) (l : LaneId) (w : WaitingCue) (s : State) :
    Inner g s (removeWaiting l w s) := by
  unfold removeWaiting
  dsimp only
  refine Inner.trans (Inner.modOn ?_ ?_) (inner_judgeSource hg l _)
  · split
    · exact (Inner.refl s).modOrder.trans (inner_releaseOrder _)
    · exact (Inner.refl s).modOrder
  · exact fun _ => hg.eq rfl rfl

theorem inner_bindCue (hg : Blind g) (l : LaneId) (c : Cue) (t : Stamp) (s : State) : Inner g s (bindCue l c t s).2 := by
  unfold bindCue
  split
  · exact Inner.refl s
  · split
    · exact Inner.refl s
    · split <;> exact inner_bindOrder hg l _ _ _ _ _ s

theorem inner_returnCue (hg : Blind g) (l : LaneId) (e : BitVec 32) (q : Stamp) (s : State) :
    Inner g s (returnCue l e q s).2 := by
  unfold returnCue
  dsimp only
  split
  · exact inner_modOn l _ fun _ => hg.eq rfl rfl
  · exact inner_modOn l _ fun _ => hg.eq rfl rfl
  · exact Inner.refl s

theorem inner_cancelCue (hg : Blind g) (l : LaneId) (e : BitVec 32) (s : State) : Inner g s (cancelCue l e s).2 := by
  unfold cancelCue
  dsimp only
  split
  · exact inner_removeWaiting hg l _ s
  · exact Inner.refl s
  · exact Inner.refl s

theorem inner_decideCue (hg : Blind g) (l : LaneId) (x : CueTiming) (c : Cue) (s : State) :
    Inner g s (decideCue l x c s).2 := by
  unfold decideCue
  split
  · exact Inner.refl s
  · exact inner_bindCue hg l c _ s
  · exact inner_returnCue hg l _ _ s
  · exact inner_cancelCue hg l _ s

theorem inner_takeCue (hg : Blind g) (hc : ∀ o x, g { o with cues := x } = g o) (l : LaneId) (c : Cue) (a : Arrival)
    (s : State) : Inner g s (takeCue l c a s) := by
  unfold takeCue
  split
  · exact Inner.refl s
  · split
    · exact inner_raise l _
    · dsimp only
      split
      · refine ((inner_decideCue hg l _ c s).modOn ?_).handOver
        exact fun o => hc o _
      · refine (inner_decideCue hg l _ c s).modOn ?_
        exact fun o => hc o _

/-! ## The feed monitor -/

theorem inner_enterLive (hg : Blind g) (l : LaneId) (r : LaneRecord) (o : OnLane) (s : State) :
    Inner g s (enterLive l r o s) := by
  unfold enterLive
  dsimp only
  split
  · refine ((Inner.refl s).handOver.modOn ?_).trans (inner_judgeSource hg l _)
    exact fun _ => hg.eq rfl rfl
  · refine ((Inner.refl s).modOn ?_).trans (inner_judgeSource hg l _)
    exact fun _ => hg.eq rfl rfl

theorem inner_judgeProof (hg : Blind g) (l : LaneId) (s : State) : Inner g s (judgeProof l s) := by
  unfold judgeProof
  split
  · exact Inner.refl s
  · split
    · exact inner_enterLive hg l _ _ s
    · exact Inner.refl s

theorem inner_feedIngest (hg : Blind g) (l : LaneId) (s : State) : Inner g s (feedIngest l s) := by
  refine ((Inner.refl s).modOn ?_).trans (inner_judgeProof hg l _)
  exact fun _ => hg.eq rfl rfl

theorem inner_captureNotice (hg : Blind g) (l : LaneId) (s : State) : Inner g s (captureNotice l s) := by
  refine ((Inner.refl s).modOn ?_).trans (inner_judgeProof hg l _)
  exact fun _ => hg.eq rfl rfl

theorem inner_feedLost (hg : Blind g) (l : LaneId) (r : LaneRecord) (o : OnLane) (s : State) :
    Inner g s (feedLost l r o s) := by
  refine ((((Inner.refl s).modOn ?_).handOver).modOn ?_).trans (inner_judgeSource hg l _)
  · exact fun _ => hg.eq rfl rfl
  · exact fun _ => hg.eq rfl rfl

theorem inner_feedFlap (hg : Blind g) (l : LaneId) (s : State) : Inner g s (feedFlap l s) := by
  refine ((Inner.refl s).modOn ?_).note
  exact fun _ => hg.eq rfl rfl

/-! ## The alert controller -/

theorem restackOn_blind (hg : Blind g) (s : State) (st : List StackEntry) (o : OnLane) : g (o.restack s st) = g o := by
  exact hg.eq rfl rfl

theorem inner_restack (hg : Blind g) (l : LaneId) (f : List StackEntry → List StackEntry) (s : State) :
    Inner g s (restack l f s) := by
  unfold restack
  split
  · exact Inner.refl s
  · split
    · refine (Inner.refl s).modOn ?_
      exact fun _ => hg.eq rfl rfl
    · refine ((inner_flushInterject hg l s).modOn ?_).trans (inner_judgeSource hg l _)
      exact fun o => restackOn_blind hg s _ o

theorem inner_joinAlert (hg : Blind g) (a : AlertId) (b : AlertBody) (l : LaneId) (s : State) :
    Inner g s (joinAlert a b l s) := by
  unfold joinAlert
  split
  · exact Inner.refl s
  · dsimp only
    refine Inner.trans ?_ (inner_restack hg l _ _)
    split
    · exact (Inner.refl s).modLane (fun _ => rfl) fun _ => rfl
    · exact Inner.refl s

theorem inner_leaveAlert (hg : Blind g) (a : AlertId) (s : State) : Inner g s (leaveAlert a s) := by
  unfold leaveAlert
  refine inner_foldl _ (fun s l => ?_) _ s
  split
  · split
    · exact inner_restack hg l _ s
    · exact Inner.refl s
  · exact Inner.refl s

/-! ## The ingest parser -/

theorem inner_refreshStep (hg : Blind g) (l : LaneId) (a : Arrival) (s : State) : Inner g s (refreshStep l a s) := by
  refine (Inner.refl s).modOn ?_
  exact fun _ => hg.eq rfl rfl

theorem inner_captureStep (hg : Blind g) (l : LaneId) (p : Packet) (a : Arrival) (s : State) :
    Inner g s (captureStep l p a s) := by
  unfold captureStep
  dsimp only
  refine Inner.trans (Inner.ite (Inner.note ?_) ?_) (inner_captureNotice hg l _) <;>
  · refine (Inner.refl s).modOn ?_
    exact fun _ => hg.eq rfl rfl

theorem inner_clockStep (hg : Blind g) (l : LaneId) (r : LaneRecord) (p : Packet) (a : Arrival) (s : State) :
    Inner g s (clockStep l r p a s) := by
  unfold clockStep
  split
  · split
    · exact inner_captureStep hg l p a s
    · exact (inner_note l _ _).trans (inner_refreshStep hg l a _)
  · exact inner_refreshStep hg l a s

theorem inner_cueStep (hg : Blind g) (hc : ∀ o x, g { o with cues := x } = g o) (l : LaneId) (r : LaneRecord) (p : Packet)
    (a : Arrival) (s : State) : Inner g s (cueStep l r p a s) := by
  unfold cueStep
  split
  · split
    · exact inner_raise l _
    · split
      · exact inner_raise l _
      · exact (inner_note l _ _).trans (inner_handOver _)
      · exact inner_takeCue hg hc l _ a s
  · exact Inner.refl s

theorem inner_parseSlot (hg : Blind g) (hc : ∀ o x, g { o with cues := x } = g o) (l : LaneId) (r : LaneRecord)
    (x : SlotData) (s : State) : Inner g s (parseSlot l r x s) := by
  unfold parseSlot
  dsimp only
  split
  · exact (inner_note l _ _).trans (inner_refreshStep hg l _ _)
  · split
    · exact (inner_note l _ _).trans (inner_refreshStep hg l _ _)
    · exact (inner_note l _ _).trans (inner_refreshStep hg l _ _)
    · exact (inner_clockStep hg l r _ _ s).trans (inner_cueStep hg hc l r _ _ _)

/-! ## The slot selector -/

theorem inner_shadowStep (hg : Blind g) (l : LaneId) (d : Decided) (s : State) : Inner g s (shadowStep l d s) := by
  refine (Inner.refl s).modOn ?_
  exact fun _ => hg.eq rfl rfl

theorem ownerServed_blind (hg : Blind g) (s : State) (r : LaneRecord) (cl : SourceClass) (d : Decided) (e : QueueEntry)
    (o : OnLane) : g (ownerServed s r cl d e o) = g o := by
  unfold ownerServed
  split
  · split
    · exact hg.stack o _
    · rfl
  · exact hg.active o _
  · exact hg.eq rfl rfl
  · rfl

theorem inner_takeHead (hg : Blind g) (l : LaneId) (r : LaneRecord) (cl : SourceClass) (d : Decided) (e : QueueEntry)
    (s : State) : Inner g s (takeHead l r cl d e s) := by
  unfold takeHead
  dsimp only
  have h : ∀ o : OnLane, g { ownerServed s r cl d e o with
      fetch := { (ownerServed s r cl d e o).fetch with queue := (ownerServed s r cl d e o).fetch.queue.tail } } = g o :=
    fun o => (hg.fetch _ _).trans (ownerServed_blind hg s r cl d e o)
  refine Inner.ite (Inner.note (Inner.trans ?_ (inner_setReadFault _ _))) ?_ <;>
  · split
    · exact ((Inner.refl s).modOn h).modAlert fun _ => ⟨rfl, rfl, rfl, rfl⟩
    · exact (Inner.refl s).modOn h

theorem inner_underrun (hg : Blind g) (l : LaneId) (cl : SourceClass) (d : Decided) (s : State) :
    Inner g s (underrun l cl d s) := by
  unfold underrun
  dsimp only
  split
  · split
    · exact (Inner.refl s).note.modAlert fun _ => ⟨rfl, rfl, rfl, rfl⟩
    · exact (Inner.refl s).note
  · refine (Inner.refl s).note.modOn ?_
    exact fun _ => hg.eq rfl rfl
  · refine (Inner.refl s).note.modOn ?_
    exact fun _ => hg.eq rfl rfl
  · exact (Inner.refl s).note

theorem inner_prepareTaken (l : LaneId) (r : LaneRecord) (cl : SourceClass) (d : Decided) (e : QueueEntry) (s : State) :
    Inner g s (prepareTaken l r cl d e s).2 := by
  unfold prepareTaken
  split
  · exact Inner.refl s
  · split
    · exact Inner.refl s
    · exact inner_note l _ _
    · exact Inner.ite (Inner.refl s).raise (Inner.refl s)

theorem inner_chooseSource (hg : Blind g) (l : LaneId) (r : LaneRecord) (cl : SourceClass) (d : Decided) (s : State) :
    Inner g s (chooseSource l r cl d s).2 := by
  unfold chooseSource
  split
  · exact Inner.refl s
  · exact Inner.refl s
  · split
    · refine (Inner.refl s).modOn ?_
      exact fun _ => hg.eq rfl rfl
    · split
      · exact inner_underrun hg l _ d s
      · exact (inner_takeHead hg l r _ d _ s).trans (inner_prepareTaken l r _ d _ _)

theorem inner_sendInterject (hg : Blind g) (l : LaneId) (r : LaneRecord) (d : Decided) (lb : Label) (e : StackEntry)
    (q : QueueEntry) (x : Bool) (out : Outgoing) (s : State) : Inner g s (sendInterject l r d lb e q x out s).2 := by
  unfold sendInterject
  dsimp only
  have h : ∀ o : OnLane, g { o with
      stack := modEntry o.stack (e.send s d q).id fun _ => e.send s d q
      fetch := { o.fetch with interject := o.fetch.interject.tail }
      sel := if x then o.sel.displaced r d out else o.sel } = g o := fun o => by
    exact hg.eq rfl rfl
  have h2 : Inner g s ((s.modOn l fun o =>
      { o with
        stack := modEntry o.stack (e.send s d q).id fun _ => e.send s d q
        fetch := { o.fetch with interject := o.fetch.interject.tail }
        sel := if x then o.sel.displaced r d out else o.sel }).modAlert (e.send s d q).id
          fun a => { a with served := raise32 a.served }) :=
    ((Inner.refl s).modOn h).modAlert fun _ => ⟨rfl, rfl, rfl, rfl⟩
  exact Inner.ite (Inner.ite h2.raise h2).raise (Inner.ite h2.raise h2)

theorem inner_interjectStep (hg : Blind g) (l : LaneId) (r : LaneRecord) (d : Decided) (out : Outgoing) (s : State) :
    Inner g s (interjectStep l r d out s).2 := by
  unfold interjectStep
  split
  · exact Inner.refl s
  · split
    · exact Inner.refl s
    · split
      · exact Inner.refl s
      · dsimp only
        split
        · split
          · refine Inner.trans ((Inner.refl s).modOn ?_) (inner_sendInterject hg l r d _ _ _ _ _ _)
            exact fun _ => hg.eq rfl rfl
          · refine Inner.trans ((Inner.refl s).modOn ?_) (inner_sendInterject hg l r d _ _ _ _ _ _)
            exact fun _ => hg.eq rfl rfl
          · refine ((Inner.refl s).modOn ?_).modOn ?_ <;> exact fun _ => hg.eq rfl rfl
        · refine (Inner.refl s).modOn ?_
          exact fun _ => hg.eq rfl rfl

/-- Stages 3 to 7 of a content part keep `g` where it reads nothing of the prepared copy. -/
theorem inner_serveSlot (hg : Blind g) (hk : ∀ o x, g { o with track := { o.track with copy := x } } = g o) (l : LaneId)
    (r : LaneRecord) (d : Decided) (s : State) : Inner g s (serveSlot l r d s) := by
  unfold serveSlot
  split
  · exact Inner.refl s
  · next o1 ho1 =>
    dsimp only
    refine Inner.modOn (((inner_shadowStep hg l d s).trans (inner_chooseSource hg l r _ d _)).trans
      (inner_interjectStep hg l r d _ _)) ?_
    intro o
    refine Eq.trans ?_ (hk o (some (finishPacket r (sourceClass s o1 d) d
      (interjectStep l r d (chooseSource l r (sourceClass s o1 d) d (shadowStep l d s)).1
        (chooseSource l r (sourceClass s o1 d) d (shadowStep l d s)).2).1 o.sel).1))
    exact hg.eq rfl rfl

end Sys2Proof.Machine
end

