-- ==== Sys2Proof/Laws/Path.lean ====
section
/-! SUPPORT. What the operations of the memory path and the posting engine can do, said once for each: the ring writes and
content parts, the classes of an arriving write and read, the reads due on the memory port, and the postings' actions. -/

namespace Sys2Proof.Machine

variable {α : Type} {g : OnLane → α} {s t u : State}

/-! ## Ring writes and content parts -/

theorem inner_ingestStep (hg : Blind g) (hc : ∀ o x, g { o with cues := x } = g o)
    (ht : ∀ o x, g { o with track := x } = g o) (l : LaneId) (r : LaneRecord) (x : SlotData) (ff : Bool) (s : State) :
    Inner g s (ingestStep l r x ff s) := by
  unfold ingestStep
  dsimp only
  have h0 : Inner g s (s.modOn l fun o => { o with track := o.track.ingestSlot r (slotStamp x) }) :=
    (Inner.refl s).modOn fun o => ht o _
  have h1 := Inner.ite (c := (match (s.lane l).on with
    | some o => o.track.overruns r
    | none => false) = true) (h0.note (l := l) (c := .overrun) (f := .overrun)) h0
  have h2 := Inner.ite (c := r.role = .source) (h1.trans (inner_tapsIngest hg l r.slots _)) h1
  exact Inner.ite ((h2.trans (inner_feedIngest hg l _)).trans (inner_parseSlot hg hc l r x _))
    ((h2.trans (inner_parseSlot hg hc l r x _)).trans (inner_feedIngest hg l _))

theorem inner_resyncStep (hg : Blind g) (ht : ∀ o x, g { o with track := x } = g o) (l : LaneId) (r : LaneRecord)
    (k line : Nat) (d : Line) (e : Enables) (s : State) : Inner g s (resyncStep l r k line d e s) := by
  unfold resyncStep
  have h0 : Inner g s (s.modOn l fun o => { o with track := o.track.resync r k d }) :=
    (Inner.refl s).modOn fun o => ht o _
  exact Inner.ite (Inner.ite (h0.trans (inner_tapsResync hg l k _)) h0) (Inner.refl s)

theorem inner_loseSync (hg : Blind g) (ht : ∀ o x, g { o with track := x } = g o) (l : LaneId) (r : LaneRecord)
    (s : State) : Inner g s (loseSync l r s) := by
  unfold loseSync
  have h0 : Inner g s (s.modOn l fun o => { o with track := { o.track with ingest := .unsynchronised } }) :=
    (Inner.refl s).modOn fun o => ht o _
  have h1 := h0.note (l := l) (c := .lostSync) (f := .lostSync)
  exact Inner.ite (h1.trans (inner_tapsLost hg l _)) h1

/-- Everything a write into the ring of an ON lane can do beyond being forwarded. -/
theorem inner_ringStep (hg : Blind g) (hc : ∀ o x, g { o with cues := x } = g o)
    (ht : ∀ o x, g { o with track := x } = g o) (l : LaneId) (k line : Nat) (d : Line) (e : Enables) (ff : Bool)
    (s : State) : Inner g s (ringStep l k line d e ff s) := by
  unfold ringStep
  split
  · exact Inner.refl s
  · split
    · exact inner_resyncStep hg ht l _ k line d e s
    · split
      · dsimp only
        have h0 := fun (n : IngestCursor) (x : SlotData) =>
          (Inner.refl (g := g) s).modOn (l := l)
            (f := fun o => { o with track := { o.track with assembly := x, ingest := n } }) fun o => ht o _
        exact Inner.ite (h0 _ _) ((h0 _ _).trans (inner_ingestStep hg hc ht l _ _ ff _))
      · exact (inner_loseSync hg ht l _ s).trans (inner_resyncStep hg ht l _ k line d e _)

/-- Everything a content part can do beyond the line it releases. -/
theorem inner_contentPart (hg : Blind g) (ht : ∀ o x, g { o with track := x } = g o) (l : LaneId) (d : Line) (err : Bool)
    (s : State) : Inner g s (contentPart l d err s) := by
  unfold contentPart
  split
  · exact Inner.refl s
  · split
    · exact Inner.refl s
    · dsimp only
      refine Inner.trans (Inner.trans (Inner.modOn (Inner.ite (Inner.refl s).note (Inner.refl s)) ?_)
        (inner_insertionSteps hg l _ _)) (inner_serveSlot hg (fun o x => ht o _) l _ _ _)
      intro o
      exact (hg.clock { o with track := (o.takeDecision _).track } _).trans (ht o _)

/-! ## An arriving write -/

/-- The five things an arriving write can be (R5). -/
theorem arriveWrite_cases (a : Addr) (d : Line) (e : Enables) (ff : Bool) (s : State) :
    (arriveWrite a d e ff s = forwardWrite a d e none s) ∨
    (∃ l k line, classify s (lineAddr a) = .ring l k line ∧
      arriveWrite a d e ff s = forwardWrite a d e none (ringStep l k line d e ff s)) ∨
    (classify s (lineAddr a) = .watched ∧ e ≠ 0 ∧
      arriveWrite a d e ff s = forwardWrite a d e none (disturb (lineAddr a) s)) ∨
    (∃ off k, classify s (lineAddr a) = .window off ∧ goWriteSlot off e = some k ∧
      arriveWrite a d e ff s =
        forwardWrite a d e (if goWritePosts s k then some k else none) (takeGoWrite k d e s)) ∨
    (classify s (lineAddr a) = .window 0x1040 ∧ goWriteSlot 0x1040 e = none ∧
      arriveWrite a d e ff s = forwardWrite a d e none (s.modReport fun r => r.indexWrite d e)) := by
  unfold arriveWrite
  split
  · next off h =>
    unfold windowWrite
    split
    · next k hk => exact .inr (.inr (.inr (.inl ⟨off, k, h, hk, rfl⟩)))
    · next hk =>
      by_cases ho : off = 0x1040
      · subst ho; exact .inr (.inr (.inr (.inr ⟨h, hk, rfl⟩)))
      · rw [if_neg ho]; exact .inl rfl
  · next l k line h => exact .inr (.inl ⟨l, k, line, h, rfl⟩)
  · next h =>
    by_cases he : e = 0
    · rw [if_pos he]; exact .inl rfl
    · rw [if_neg he]; exact .inr (.inr (.inl ⟨h, he, rfl⟩))
  · exact .inl rfl
  · exact .inl rfl
  · exact .inl rfl

/-- What a go write changes: the slot's own state and the queue. -/
theorem takeGoWrite_spec (k : PostSlotId) (d : Line) (e : Enables) (s : State) :
    ∃ x q, takeGoWrite k d e s = { s.modSlot k (fun _ => x) with queue := q } := by
  unfold takeGoWrite
  split
  · exact ⟨{ s.slot k with doubled := true }, s.queue, rfl⟩
  · exact ⟨{ s.slot k with doubled := true }, s.queue, rfl⟩
  · exact ⟨_, s.queue ++ [k], rfl⟩

/-- What the arrival of an upstream write leaves alone, whatever its class. -/
theorem arriveWrite_frame (a : Addr) (d : Line) (e : Enables) (ff : Bool) (s : State) :
    (arriveWrite a d e ff s).pending = s.pending ∧ (arriveWrite a d e ff s).pin = s.pin ∧
    (arriveWrite a d e ff s).stationTime = s.stationTime ∧ (arriveWrite a d e ff s).msPhase = s.msPhase ∧
    (arriveWrite a d e ff s).stationMs = s.stationMs ∧ (arriveWrite a d e ff s).memReads = s.memReads ∧
    (arriveWrite a d e ff s).upWrites = s.upWrites ∧ (arriveWrite a d e ff s).runCount = s.runCount ∧
    (arriveWrite a d e ff s).memPort = s.memPort ∧ (arriveWrite a d e ff s).upPort = s.upPort ∧
    (arriveWrite a d e ff s).scanPos = s.scanPos ∧ (arriveWrite a d e ff s).forceList = s.forceList ∧
    (arriveWrite a d e ff s).working = s.working := by
  obtain h | ⟨l, k, line, -, h⟩ | ⟨-, -, h⟩ | ⟨off, k, -, -, h⟩ | ⟨-, -, h⟩ := arriveWrite_cases a d e ff s <;> rw [h]
  · exact ⟨rfl, rfl, rfl, rfl, rfl, rfl, rfl, rfl, rfl, rfl, rfl, rfl, rfl⟩
  · have i := inner_ringStep blind_unit (fun _ _ => rfl) (fun _ _ => rfl) l k line d e ff s
    exact ⟨i.pending, i.pin, i.stationTime, i.msPhase, i.stationMs, i.memReads, i.upWrites, i.runCount, i.memPort,
      i.upPort, i.scanPos, i.forceList, i.working⟩
  · exact ⟨rfl, rfl, rfl, rfl, rfl, rfl, rfl, rfl, rfl, rfl, rfl, rfl, rfl⟩
  · obtain ⟨x, q, h⟩ := takeGoWrite_spec k d e s
    rw [h]
    exact ⟨rfl, rfl, rfl, rfl, rfl, rfl, rfl, rfl, rfl, rfl, rfl, rfl, rfl⟩
  · exact ⟨rfl, rfl, rfl, rfl, rfl, rfl, rfl, rfl, rfl, rfl, rfl, rfl, rfl⟩

/-! ## An arriving read -/

/-- What an arriving read can be: forwarded alone, the slot claim of an ON OUTPUT lane, or a stray read of one (R5, R13 to
R15). -/
theorem arriveRead_cases (a : Addr) (s : State) :
    (∃ sv, arriveRead a s = forwardRead a sv s) ∨
    (∃ l k r o, classify s (lineAddr a) = .ring l k 0 ∧ s.onOutput l = some (r, o) ∧ o.track.lastDecided ≠ some k ∧
      arriveRead a s = forwardRead a (.claim l)
        ((if o.track.jumps k then s.note l .jump .jump else s).modOn l fun o =>
          { o with track := o.track.claim r.slots k })) ∨
    (∃ l k line r o, classify s (lineAddr a) = .ring l k line ∧ line ≠ 0 ∧ s.onOutput l = some (r, o) ∧
      o.track.lastDecided ≠ some k ∧ arriveRead a s = forwardRead a .plain (s.note l .strayRead .strayRead)) := by
  unfold arriveRead
  split
  · exact .inl ⟨_, rfl⟩
  · next l k line h =>
    split
    · next r o ho =>
      unfold ringRead
      by_cases h1 : o.track.lastDecided = some k
      · rw [if_pos h1]; exact .inl ⟨_, rfl⟩
      · rw [if_neg h1]
        by_cases h2 : line = 0
        · subst h2
          rw [if_pos rfl]
          exact .inr (.inl ⟨l, k, r, o, h, ho, h1, rfl⟩)
        · rw [if_neg h2]
          exact .inr (.inr ⟨l, k, line, r, o, h, h2, ho, h1, rfl⟩)
    · exact .inl ⟨_, rfl⟩
  · exact .inl ⟨_, rfl⟩

/-- The context an ON OUTPUT lane's reading comes from. -/
theorem onOutput_spec {l : LaneId} {r : LaneRecord} {o : OnLane} :
    s.onOutput l = some (r, o) ↔ (s.lane l).record = some r ∧ (s.lane l).on = some o ∧ r.role = .output := by
  unfold State.onOutput State.onLane
  cases (s.lane l).record <;> cases (s.lane l).on <;> simp [Option.filter]
  constructor
  · rintro ⟨h, rfl, rfl⟩; exact ⟨rfl, rfl, h⟩
  · rintro ⟨rfl, rfl, h⟩; exact ⟨h, rfl, rfl⟩

theorem onLane_spec {l : LaneId} {r : LaneRecord} {o : OnLane} :
    s.onLane l = some (r, o) ↔ (s.lane l).record = some r ∧ (s.lane l).on = some o := by
  unfold State.onLane
  cases (s.lane l).record <;> cases (s.lane l).on <;> simp

/-! ## The reads on the memory port -/

/-- The next due read stands behind silent reads only. -/
theorem nextDue_spec {rs rest : List MemRead} {r : MemRead} :
    nextDue rs = some (r, rest) →
      ∃ front, rs = front ++ r :: rest ∧ (∀ x ∈ front, x.silent = true) ∧ r.silent = false := by
  induction rs with
  | nil => intro h; cases h
  | cons x xs ih =>
    intro h
    unfold nextDue at h
    by_cases hx : x.silent = true
    · rw [if_pos hx] at h
      obtain ⟨front, hf, hs, hr⟩ := ih h
      refine ⟨x :: front, by rw [hf]; rfl, ?_, hr⟩
      intro y hy
      cases hy with
      | head => exact hx
      | tail _ hy => exact hs y hy
    · rw [if_neg hx] at h
      cases h
      exact ⟨[], rfl, fun _ h => absurd h List.not_mem_nil, by simpa using hx⟩

/-- When the WORKING record's last line is due, its slot and what is left. -/
theorem recordReturns_spec {k : PostSlotId} (h : recordReturns s = some (k, t)) :
    ∃ w line dead rest, s.working = some w ∧ w.slot = k ∧ w.granted = 4 ∧
      nextDue s.memReads = some (.posting line dead, rest) ∧ t = { s with memReads := rest } := by
  unfold recordReturns at h
  split at h
  · next w line dead rest hw hn =>
    split at h
    · next hg => cases h; exact ⟨w, line, dead, rest, hw, rfl, hg, hn, rfl⟩
    · cases h
  · cases h

theorem recordReturns_intro {w : Working} {line : Nat} {dead : Bool} {rest : List MemRead} (hw : s.working = some w)
    (hg : w.granted = 4) (hn : nextDue s.memReads = some (.posting line dead, rest)) :
    recordReturns s = some (w.slot, { s with memReads := rest }) := by
  unfold recordReturns
  rw [hw, hn]
  exact if_pos hg

/-! ## Postings -/

/-- A posting's command answers a next state exactly when its record is the one due. -/
theorem carryOut_next {code : BitVec 8} {act : State → Carried} (h : carryOut code act s = .next u) :
    ∃ k t, recordReturns s = some (k, t) ∧ (s.slot k).kind = code ∧
      u = finishPosting k (act t).2.1 (act t).2.2 (act t).1 := by
  unfold carryOut at h
  split at h
  · next k t hr =>
    split at h
    · next hk => cases h; exact ⟨k, t, hr, hk, rfl⟩
    · cases h
  · cases h

theorem carryOut_intro {code : BitVec 8} {act : State → Carried} {k : PostSlotId} (hr : recordReturns s = some (k, t))
    (hk : (s.slot k).kind = code) :
    carryOut code act s = .next (finishPosting k (act t).2.1 (act t).2.2 (act t).1) := by
  unfold carryOut
  rw [hr]
  exact if_pos hk

/-- What a posting's action leaves alone: everything outside the blocks it is carried out against. -/
structure Outer (s t : State) : Prop where
  pending : t.pending = s.pending
  pin : t.pin = s.pin
  stationTime : t.stationTime = s.stationTime
  msPhase : t.msPhase = s.msPhase
  stationMs : t.stationMs = s.stationMs
  upWrites : t.upWrites = s.upWrites
  runCount : t.runCount = s.runCount
  memPort : t.memPort = s.memPort
  upPort : t.upPort = s.upPort
  scanPos : t.scanPos = s.scanPos
  slots : t.slots = s.slots
  queue : t.queue = s.queue
  working : t.working = s.working

theorem Outer.refl (s : State) : Outer s s := ⟨rfl, rfl, rfl, rfl, rfl, rfl, rfl, rfl, rfl, rfl, rfl, rfl, rfl⟩

theorem Outer.trans (h : Outer s t) (k : Outer t u) : Outer s u :=
  ⟨k.pending.trans h.pending, k.pin.trans h.pin, k.stationTime.trans h.stationTime, k.msPhase.trans h.msPhase,
    k.stationMs.trans h.stationMs, k.upWrites.trans h.upWrites, k.runCount.trans h.runCount, k.memPort.trans h.memPort,
    k.upPort.trans h.upPort, k.scanPos.trans h.scanPos, k.slots.trans h.slots, k.queue.trans h.queue,
    k.working.trans h.working⟩

theorem Inner.outer (h : Inner g s t) : Outer s t :=
  ⟨h.pending, h.pin, h.stationTime, h.msPhase, h.stationMs, h.upWrites, h.runCount, h.memPort, h.upPort, h.scanPos,
    h.slots, h.queue, h.working⟩

theorem outer_modLane (l : LaneId) (f : Lane → Lane) (s : State) : Outer s (s.modLane l f) :=
  ⟨rfl, rfl, rfl, rfl, rfl, rfl, rfl, rfl, rfl, rfl, rfl, rfl, rfl⟩

theorem outer_withLane {x : RecordData} {act : LaneId → State → Carried} (h : ∀ l s, Outer s (act l s).1) (s : State) :
    Outer s (withLane x act s).1 := by
  unfold withLane
  split
  · exact h _ s
  · exact Outer.refl s

theorem outer_withClip {x : RecordData} {act : ClipId → State → Carried} (h : ∀ c s, Outer s (act c s).1) (s : State) :
    Outer s (withClip x act s).1 := by
  unfold withClip
  split
  · exact h _ s
  · exact Outer.refl s

theorem outer_withAlert {x : RecordData} {act : AlertId → State → Carried} (h : ∀ a s, Outer s (act a s).1) (s : State) :
    Outer s (withAlert x act s).1 := by
  unfold withAlert
  split
  · exact h _ s
  · exact Outer.refl s

theorem outer_configureLane (x : RecordData) (l : LaneId) (s : State) : Outer s (configureLane x l s).1 := by
  unfold configureLane
  split
  · exact Outer.refl s
  · split
    · exact Outer.refl s
    · dsimp only
      split
      · exact Outer.refl s
      · split
        · exact Outer.refl s
        · split
          · exact Outer.refl s
          · split
            · exact Outer.refl s
            · exact ⟨rfl, rfl, rfl, rfl, rfl, rfl, rfl, rfl, rfl, rfl, rfl, rfl, rfl⟩

theorem outer_modAlerts {β : Type} (f : State → β → State) (h : ∀ s b, Outer s (f s b)) (xs : List β) :
    ∀ s, Outer s (xs.foldl f s) := by
  induction xs with
  | nil => exact fun s => Outer.refl s
  | cons x xs ih => exact fun s => (h s x).trans (ih _)

theorem outer_enableAccepted (l : LaneId) (r : LaneRecord) (s : State) : Outer s (enableAccepted l r s) := by
  unfold enableAccepted
  split
  · exact ⟨rfl, rfl, rfl, rfl, rfl, rfl, rfl, rfl, rfl, rfl, rfl, rfl, rfl⟩
  · dsimp only
    have h := fun t : State => outer_modAlerts (fun (t : State) (x : AlertId × AlertBody) => t.modAlert x.1 Alert.countLane)
      (fun _ _ => ⟨rfl, rfl, rfl, rfl, rfl, rfl, rfl, rfl, rfl, rfl, rfl, rfl, rfl⟩) (joinedAlerts s r) t
    split
    · exact Outer.trans (Outer.trans (outer_modLane l _ s) (h _)) (inner_lock (g := fun _ => ()) _).outer
    · exact Outer.trans (outer_modLane l _ s) (h _)

theorem outer_enableLane (l : LaneId) (s : State) : Outer s (enableLane l s).1 := by
  unfold enableLane
  split
  · exact Outer.refl s
  · split
    · exact Outer.refl s
    · split
      · exact Outer.refl s
      · exact outer_enableAccepted l _ s

theorem inner_abortActive (hg : Blind g) (l : LaneId) (r : LaneRecord) (s : State) : Inner g s (abortActive l r s) := by
  unfold abortActive
  split
  · exact Inner.refl s
  · split
    · exact inner_endInsertion hg l _ _ _ s
    · exact Inner.refl s

theorem inner_dropWaiting (hg : Blind g) (l : LaneId) (s : State) : Inner g s (dropWaiting l s) := by
  unfold dropWaiting
  split
  · exact inner_removeWaiting hg l _ s
  · exact Inner.refl s

/-- The part of a LANE DISABLE before its reads are abandoned and the lane goes OFF. -/
theorem inner_disableBlocks (hg : Blind g) (l : LaneId) (r : LaneRecord) (s : State) :
    Inner g s
      (((match slateOf r with
        | some c => (dropWaiting l (abortActive l r s)).release c
        | none => dropWaiting l (abortActive l r s)).withdraw l false).withdraw l true) := by
  refine Inner.withdraw (Inner.withdraw ?_)
  split
  · exact ((inner_abortActive hg l r s).trans (inner_dropWaiting hg l _)).trans (inner_release _)
  · exact (inner_abortActive hg l r s).trans (inner_dropWaiting hg l _)

theorem outer_disableAccepted (l : LaneId) (r : LaneRecord) (s : State) : Outer s (disableAccepted l r s) := by
  unfold disableAccepted
  exact Outer.trans (inner_disableBlocks blind_unit l r s).outer
    ⟨rfl, rfl, rfl, rfl, rfl, rfl, rfl, rfl, rfl, rfl, rfl, rfl, rfl⟩

theorem outer_disableLane (l : LaneId) (s : State) : Outer s (disableLane l s).1 := by
  unfold disableLane
  split
  · exact Outer.refl s
  · split
    · exact Outer.refl s
    · exact outer_disableAccepted l _ s

theorem outer_declareClip (x : RecordData) (c : ClipId) (s : State) : Outer s (declareClip x c s).1 := by
  unfold declareClip
  split
  · exact Outer.refl s
  · split
    · exact Outer.refl s
    · dsimp only
      split
      · exact Outer.refl s
      · split
        · exact Outer.refl s
        · split
          · exact Outer.refl s
          · exact ⟨rfl, rfl, rfl, rfl, rfl, rfl, rfl, rfl, rfl, rfl, rfl, rfl, rfl⟩

theorem outer_clearClip (c : ClipId) (s : State) : Outer s (clearClip c s).1 := by
  unfold clearClip
  split
  · exact Outer.refl s
  · split
    · exact Outer.refl s
    · exact ⟨rfl, rfl, rfl, rfl, rfl, rfl, rfl, rfl, rfl, rfl, rfl, rfl, rfl⟩

theorem inner_loadOrder (x : RecordData) (s : State) : Inner g s (loadOrder x s).1 := by
  unfold loadOrder
  dsimp only
  split
  · exact Inner.refl s
  · split
    · exact Inner.refl s
    · split
      · exact Inner.refl s
      · exact inner_setOrder _ _

theorem inner_unbind (hg : Blind g) (i : OrderId) (s : State) : Inner g s (unbind i s) := by
  unfold unbind
  split
  · exact Inner.refl s
  · split
    · exact inner_removeWaiting hg _ _ s
    · exact Inner.refl s

theorem inner_cancelOrder (hg : Blind g) (x : RecordData) (s : State) : Inner g s (cancelOrder x s).1 := by
  unfold cancelOrder
  dsimp only
  split
  · exact Inner.refl s
  · exact inner_setOrder _ _
  · exact inner_setOrder _ _
  · exact (inner_unbind hg _ s).trans (inner_setOrder _ _)
  · split
    · exact Inner.refl s
    · exact inner_modOrder (Fin.ofNat 256 (field x 0 1)) fun y => { y with abort := true }

theorem inner_schedule (hg : Blind g) (x : RecordData) (s : State) : Inner g s (schedule x s).1 := by
  unfold schedule
  split
  · exact Inner.refl s
  · unfold scheduleOn
    split
    · exact Inner.refl s
    · split
      · dsimp only
        split
        · split
          · exact Inner.refl s
          · split
            · exact Inner.refl s
            · exact inner_bindOrder hg _ _ _ _ _ _ s
        · exact Inner.refl s
      · exact Inner.refl s

theorem outer_startAlert (a : AlertId) (b : AlertBody) (s : State) : Outer s (startAlert a b s) := by
  unfold startAlert
  dsimp only
  refine Outer.trans ?_ (inner_handOver (g := fun _ => ()) _).outer
  refine Outer.trans ?_ (inner_foldl (g := fun _ => ()) _ (fun t l => inner_joinAlert blind_unit a b l t) _ _).outer
  exact ⟨rfl, rfl, rfl, rfl, rfl, rfl, rfl, rfl, rfl, rfl, rfl, rfl, rfl⟩

theorem outer_alertStartOn (x : RecordData) (a : AlertId) (s : State) : Outer s (alertStartOn x a s).1 := by
  unfold alertStartOn
  split
  · exact Outer.refl s
  · split
    · exact Outer.refl s
    · dsimp only
      split
      · exact outer_startAlert a _ s
      · exact Outer.refl s

theorem outer_endAlert (a : AlertId) (b : AlertBody) (c : AlertCause) (s : State) : Outer s (endAlert a b c s) := by
  unfold endAlert
  dsimp only
  refine Outer.trans (inner_leaveAlert blind_unit a s).outer ?_
  generalize leaveAlert a s = t
  exact ⟨rfl, rfl, rfl, rfl, rfl, rfl, rfl, rfl, rfl, rfl, rfl, rfl, rfl⟩

theorem outer_alertEndOn (a : AlertId) (s : State) : Outer s (alertEndOn a s).1 := by
  unfold alertEndOn
  split
  · exact outer_endAlert a _ _ s
  · exact Outer.refl s

theorem outer_setUpReport (x : RecordData) (s : State) : Outer s (setUpReport x s).1 := by
  unfold setUpReport
  split
  · exact Outer.refl s
  · dsimp only
    split
    · exact Outer.refl s
    · split
      · exact Outer.refl s
      · split
        · exact Outer.refl s
        · exact ⟨rfl, rfl, rfl, rfl, rfl, rfl, rfl, rfl, rfl, rfl, rfl, rfl, rfl⟩

theorem outer_clearCounters (x : RecordData) (s : State) : Outer s (clearCounters x s).1 := by
  unfold clearCounters
  dsimp only
  split <;> exact ⟨rfl, rfl, rfl, rfl, rfl, rfl, rfl, rfl, rfl, rfl, rfl, rfl, rfl⟩

/-! ## Field checks -/

/-- A check list passes exactly when no listed field is at fault. -/
theorem firstBad_none {cs : List (Nat × Bool)} : firstBad cs = none ↔ ∀ c ∈ cs, c.2 = false := by
  induction cs with
  | nil => simp [firstBad]
  | cons c cs ih =>
    obtain ⟨i, bad⟩ := c
    cases bad <;> simp [firstBad, ih]

/-- A failing check list names its first field at fault. -/
theorem firstBad_some {cs : List (Nat × Bool)} {i : Nat} (h : firstBad cs = some i) :
    ∃ front rest, cs = front ++ (i, true) :: rest ∧ ∀ c ∈ front, c.2 = false := by
  induction cs with
  | nil => cases h
  | cons c cs ih =>
    obtain ⟨j, bad⟩ := c
    cases bad with
    | true => simp only [firstBad, if_true] at h; cases h; exact ⟨[], cs, rfl, fun _ h => absurd h List.not_mem_nil⟩
    | false =>
      obtain ⟨front, rest, hf, hs⟩ := ih (by simpa [firstBad] using h)
      refine ⟨(j, false) :: front, rest, by rw [hf]; rfl, ?_⟩
      intro c hc
      cases hc with
      | head => rfl
      | tail _ hc => exact hs c hc

/-! ## The report writer -/

/-- What a hand-over leaves alone. -/
theorem handOver_frame (r : Report) (x : AsRun) :
    (r.handOver x).setup = r.setup ∧ (r.handOver x).w = r.w ∧ (r.handOver x).h = r.h ∧
    (r.handOver x).flight = r.flight ∧ (r.handOver x).orphans = r.orphans ∧ (r.handOver x).urgentPos = r.urgentPos ∧
    (r.handOver x).timer = r.timer ∧ (r.handOver x).badIndex = r.badIndex ∧
    (r.handOver x).attention = r.attention := by
  unfold Report.handOver
  split <;> exact ⟨rfl, rfl, rfl, rfl, rfl, rfl, rfl, rfl, rfl⟩

/-- What a run of hand-overs leaves alone. -/
theorem handOvers_frame (xs : List AsRun) (r : Report) :
    (xs.foldl Report.handOver r).setup = r.setup ∧ (xs.foldl Report.handOver r).w = r.w ∧
    (xs.foldl Report.handOver r).h = r.h ∧ (xs.foldl Report.handOver r).flight = r.flight ∧
    (xs.foldl Report.handOver r).orphans = r.orphans ∧ (xs.foldl Report.handOver r).urgentPos = r.urgentPos ∧
    (xs.foldl Report.handOver r).timer = r.timer ∧ (xs.foldl Report.handOver r).badIndex = r.badIndex ∧
    (xs.foldl Report.handOver r).attention = r.attention := by
  induction xs generalizing r with
  | nil => exact ⟨rfl, rfl, rfl, rfl, rfl, rfl, rfl, rfl, rfl⟩
  | cons x xs ih =>
    obtain ⟨a1, a2, a3, a4, a5, a6, a7, a8, a9⟩ := ih (r.handOver x)
    obtain ⟨b1, b2, b3, b4, b5, b6, b7, b8, b9⟩ := handOver_frame r x
    exact ⟨a1.trans b1, a2.trans b2, a3.trans b3, a4.trans b4, a5.trans b5, a6.trans b6, a7.trans b7, a8.trans b8,
      a9.trans b9⟩

end Sys2Proof.Machine
end

