-- ==== Sys2Proof/WellFormed.lean ====
section
/-! DEFINITION. What a command must satisfy to be one a master or the DRAM side can present: line addresses are multiples
of 64 (00_scope 5.3), and a record memory fault marks at least one faulted line (R162). Every other operand is bounded by
its type. -/

namespace Sys2Proof

/-- A line address: a multiple of 64. -/
def lineAligned (a : Addr) : Bool := a.extractLsb' 0 6 == 0#6

/-- The well-formed commands. -/
def Instr.wellFormed : Instr → Bool
  | .pinReset => true
  | .pinResetRelease _ => true
  | .ringWrite a _ _ _ => lineAligned a
  | .watchWindowWrite a _ _ => lineAligned a
  | .goWrite a _ _ => lineAligned a
  | .readIndexWrite a _ _ => lineAligned a
  | .upstreamWrite a _ _ => lineAligned a
  | .writeCompletion _ => true
  | .slotClaim a => lineAligned a
  | .slotLineRead a => lineAligned a
  | .controlWindowRead a => lineAligned a
  | .upstreamRead a => lineAligned a
  | .arbiterGrant => true
  | .slotContentPart _ _ => true
  | .overlayReadReturn _ _ => true
  | .upstreamReadReturn _ _ => true
  | .postingTake => true
  | .postingMemoryFault errs => errs != 0#4
  | .laneConfigure _ => true
  | .laneEnable _ => true
  | .laneDisable _ => true
  | .clipDeclare _ => true
  | .clipClear _ => true
  | .orderLoad _ => true
  | .orderCancel _ => true
  | .schedule _ => true
  | .alertStart _ => true
  | .alertEnd _ => true
  | .reportSetup _ => true
  | .countersClear _ => true
  | .partReset _ => true
  | .fetchIssue => true
  | .fetchComplete _ _ => true
  | .recordWriteIssue => true
  | .recordWriteComplete _ => true
  | .staleTimerExpiry _ => true
  | .lossTimerExpiry _ => true
  | .alertDurationExpiry _ => true
  | .coalesceTimerExpiry => true

end Sys2Proof
end

