-- ==== Sys2Proof/Tests/Slice0.lean ====
section
/-! SUPPORT. Tests of the model on small states, with expected results from the manual's worked sequences and tables, and for
every statement with hypotheses a witness: a concrete state and operands that meet all of them together. -/

namespace Sys2Proof.Tests

open Sys2Proof.Machine

set_option maxRecDepth 20000
set_option exponentiation.threshold 4096

/-! ## States for the tests -/

/-- The part released with straps 1: the control window is at 256 MiB. -/
def base : State := { State.reset with pin := .released 1#8 }

/-- An OUTPUT lane record: a ring of 16 slots at 1 MiB, zone 3, clock label 100h, cue label 101h, video 102h, play delay 45,000
ticks, the filler as its loss source. -/
def outRec : LaneRecord :=
  { role := .output, base := 0x100000, slots := 16, zone := 3, clockLabel := 0x100, cueLabel := some 0x101
    labelMap := [{ kind := .video, label := 0x102 }, { kind := .clock, label := 0x100 }], playDelay := 45000, nominal := 45000
    staleLimit := 100, lossLimit := 50, recovery := 2, lateGrace := 450, deadline := 3, lossSource := .filler }

/-- A SOURCE lane record: 64 slots at 2 MiB. -/
def srcRec : LaneRecord := { outRec with role := .source, base := 0x200000, slots := 64, cueLabel := none }

/-- The context a lane has right after its enable, LIVE instead of RECOVERING. -/
def live : OnLane :=
  { OnLane.enabled outRec 0 with
    feed := { state := .live, lossTimer := some 0, good := 2, captureSeen := true, outage := none } }

/-- `live` with a tracker changed by `f`. -/
def tracked (f : Tracker → Tracker) : OnLane := { live with track := f live.track }

/-- Lane `l` ON in the state with a record and context. -/
def withOn (s : State) (l : LaneId) (r : LaneRecord) (o : OnLane) : State :=
  s.setLane l { Lane.reset with record := some r, on := some o }

/-- Lane 5 ON with the record `outRec`. -/
def lane5 (o : OnLane) : State := withOn base 5 outRec o

/-- Clip `c` READY: `n` packets at 4 MiB, with `locks` locks. -/
def withClip (s : State) (c : ClipId) (n locks : Nat) : State :=
  { s with
    clips := s.clips.set c
      { body := some { address := 0x400000, length := n, first := 900000, labels := [{ kind := .video, label := 0x200 }] }
        locks := locks, disturbed := false, readFault := false } }

/-- Posting slot 3 WORKING on a posting of kind `code` whose fourth record line is the next data to return. -/
def posted (s : State) (code : BitVec 8) : State :=
  { s with
    slots := s.slots.set 3 { state := .working, kind := code, tag := 7, result := .ok, detail := 0, doubled := false }
    working := some { slot := 3, granted := 4 }
    memReads := [.posting 2 false, .posting 3 false] }

/-- A command answers a next state. -/
def goesOn (x : Host.Outcome State Fault Refusal) : Bool :=
  match x with
  | .next _ => true
  | _ => false

/-- A field of the next state of an outcome, none where there is no next state. -/
def after {α : Type} (x : Host.Outcome State Fault Refusal) (f : State → α) : Option α :=
  match x with
  | .next t => some (f t)
  | _ => none

theorem exists_next {x : Host.Outcome State Fault Refusal} (h : goesOn x = true) : ∃ t, x = .next t := by
  cases x with
  | next t => exact ⟨t, rfl⟩
  | fault _ => simp [goesOn] at h
  | refused _ => simp [goesOn] at h


/-! ## Well-formed commands -/

theorem test_ring_write_unaligned : Instr.wellFormed (.ringWrite 0x100001#36 0 0 false) = false := by decide
theorem test_watch_write_unaligned : Instr.wellFormed (.watchWindowWrite 0x400020#36 0 0) = false := by decide
theorem test_go_write_unaligned : Instr.wellFormed (.goWrite 0x100000F8#36 0 0) = false := by decide
theorem test_read_index_write_unaligned : Instr.wellFormed (.readIndexWrite 0x10001042#36 0 0) = false := by decide
theorem test_upstream_write_unaligned : Instr.wellFormed (.upstreamWrite 0x3F#36 0 0) = false := by decide
theorem test_slot_claim_unaligned : Instr.wellFormed (.slotClaim 0x100004#36) = false := by decide
theorem test_slot_line_read_unaligned : Instr.wellFormed (.slotLineRead 0x100041#36) = false := by decide
theorem test_window_read_unaligned : Instr.wellFormed (.controlWindowRead 0x10001008#36) = false := by decide
theorem test_upstream_read_unaligned : Instr.wellFormed (.upstreamRead 0x1#36) = false := by decide
theorem test_memory_fault_without_line : Instr.wellFormed (.postingMemoryFault 0) = false := by decide
theorem test_aligned_commands : Instr.wellFormed (.slotClaim 0x1000C0#36) = true ∧
    Instr.wellFormed (.postingMemoryFault 8) = true := by decide

/-- No row of the table has bits, so no word spells a command (log entry 1). -/
theorem test_no_word_spells_a_command : decodeTableWord 8 0x47 = none := by decide

/-! ## Stream time: the worked case of 3.10 and the estimate of 2.3 -/

/-- The anchor of Table 3-2. -/
def anchor310 : Anchor := { clock := 2576979000150, stamp := 4294900000 }

theorem test_capture_anchor : captureModel 8589930000 150 4294900000 7 = .valid anchor310 7 := by decide
theorem test_estimate_over_the_wraps : estimateFrom anchor310 5000000 = 3689846 := by decide
theorem test_presentation_over_the_wraps : presentation (.valid anchor310 0) 45000 (some 5000000) = some 57299 := by decide
theorem test_presentation_before_the_splice : presentation (.valid anchor310 0) 45000 (some 4294950000) = some 40575 := by
  decide
theorem test_presentation_of_the_starved_slot : presentation (.valid anchor310 0) 45000 (some 27704) = some 40725 := by decide
theorem test_splice_compare : atOrAfter 57299 57000 = true ∧ atOrAfter 40725 57000 = false := by decide
theorem test_clip_offset : clipOffset (some 57299) 900000 = some 8589091891 := by decide
theorem test_stamp_rewrite : (903003#33 + 8589091891#33) = 60302#33 := by decide
theorem test_return_time : returnTime 57000 (some 2700000) 5400000 = 2757000 := by decide
theorem test_requested_return : requestedReturn 57000 6000000 5400000 = 5457000 := by decide
theorem test_synthetic_stamp : syntheticStamp (some 4294950000) 45000 = some 27704 := by decide

/-- A START cue for T = 57,000 (Table 3-3). -/
def start310 : Cue := { kind := .start, event := 1, placement := 0, time := some 57000, duration := some 2700000 }

theorem test_cue_early : cueTiming (.valid anchor310 0) 9000 (some 40575) start310 = .splice 57000 := by decide
theorem test_cue_within_grace : cueTiming (.valid anchor310 0) 9000 (some 57299) start310 = .splice 57000 := by decide
theorem test_cue_late : cueTiming (.valid anchor310 0) 9000 (some 70000) start310 = .refused .late := by decide

/-- 2.3: oldest 4,294,000,000 and newest 472,704, 31 stamps between them. -/
theorem test_slot_interval : slotInterval 2700 ([4294000000] ++ List.replicate 31 0 ++ [472704]) = 45000 := by decide
theorem test_slot_interval_of_32 : slotInterval 2700 ([4294000000] ++ List.replicate 31 0) = 2700 := by decide

/-! ## Packets (12.1) -/

/-- A packet of header bytes 47h, `b1`, `b2`, `b3`, filled with zeros. -/
def packet (b1 b2 b3 : Byte) : Packet := setByte (setByte (setByte (setByte 0 0 0x47) 1 b1) 2 b2) 3 b3

/-- A packet with a clock reference on label 100h: adaptation control 3, length 7, base and extension. -/
def clockPacket (base : Stamp) (ext : BitVec 9) : Packet :=
  setClockRef (setByte (setByte (packet 0x01 0x00 0x30) 4 7) 5 0x10) base ext

theorem test_label : packetLabel (packet 0x41 0x02 0x1A) = 0x102 ∧ packetCount (packet 0x41 0x02 0x1A) = 10 := by decide
theorem test_clock_reference : clockRefBase (clockPacket 8589930000 150) = 8589930000 ∧
    clockRefExt (clockPacket 8589930000 150) = 150 ∧ hasClockRef (clockPacket 8589930000 150) = true := by decide
/-- The worked case's splice slot: base 12,299 and extension 146. -/
theorem test_restamp : clockRefBase (restamp (clockPacket 1 2) (some 3689846)) = 12299 ∧
    clockRefExt (restamp (clockPacket 1 2) (some 3689846)) = 146 := by decide
theorem test_reserved_adaptation_is_bad : headerVerdict (packet 0x01 0x00 0x00) = .bad := by decide
theorem test_error_flag : headerVerdict (packet 0x81 0x00 0x10) = .errored := by decide
theorem test_filler_label : packetLabel fillerPacket = fillerLabel ∧ getByte fillerPacket 3 = 0x10 ∧
    getByte fillerPacket 187 = 0xFF := by decide
/-- The check over the nine bytes 31h..39h is the published value of this code without reflection or inversion. -/
theorem test_section_check : crcOver (0x393837363534333231#1504) 0 9 = 0x0376E6E7#32 := by decide

/-! ## Mapping and continuity: the worked sequences of 8.7 and 8.8 -/

/-- Lane 14's label map. -/
def map14 : List LabelEntry :=
  [{ kind := .video, label := 0x201 }, { kind := .audio1, label := 0x202 }, { kind := .data1, label := 0x205 },
    { kind := .clock, label := 0x206 }]

/-- Clip 100's label list. -/
def list100 : List LabelEntry :=
  [{ kind := .video, label := 0x101 }, { kind := .audio1, label := 0x102 }, { kind := .audio2, label := 0x103 },
    { kind := .clock, label := 0x106 }]

theorem test_mapping : mapPacket list100 map14 (packet 0x01 0x02 0x10) = .to 1 0x202 ∧
    mapPacket list100 map14 (packet 0x01 0x06 0x10) = .to 3 0x206 ∧
    mapPacket list100 map14 (packet 0x01 0x03 0x10) = .unmapped ∧
    mapPacket list100 map14 (packet 0x01 0x04 0x10) = .unmapped ∧
    mapPacket list100 map14 (packet 0x1F 0xFF 0x10) = .filler := by decide

/-- The AUDIO1 entry after the return slot of 8.8. -/
def entry88 : Continuity := { last := some 9, delta := 0, pending := true }

theorem test_continuity_before_the_return :
    (Continuity.substituted true { last := some 8, delta := 0, pending := false }).1 = 9 ∧
    (Continuity.substituted false { last := some 9, delta := 0, pending := false }).1 = 9 := by decide
theorem test_continuity_after_the_return : Continuity.network 0 false 3 entry88 = (9, entry88) ∧
    Continuity.network 0 true 4 entry88 = (10, { last := some 10, delta := 6, pending := false }) ∧
    Continuity.network 0 true 5 { last := some 10, delta := 6, pending := false } =
      (11, { last := some 11, delta := 6, pending := false }) ∧
    (Continuity.network 0 false 5 { last := some 11, delta := 6, pending := false }).1 = 11 := by decide
theorem test_continuity_after_the_interject :
    Continuity.network 0 true 7 { last := some 11, delta := 6, pending := true } =
      (12, { last := some 12, delta := 5, pending := false }) := by decide

/-! ## Interject pacing (7.7) -/

/-- The entry of 7.7 with a countdown and a due mark. -/
def entry77 (n : Nat) (due : Bool) (w : Nat) : StackEntry :=
  { id := 2, cursor := 0, offset := none, lastCount := 15, countdown := n, due := due, wait := w, clash := false }

theorem test_pacing : (entry77 3 false 0).pace 3 = entry77 2 false 0 ∧ (entry77 1 false 0).pace 3 = entry77 3 true 0 ∧
    (entry77 1 true 3).pace 3 = entry77 3 true 3 := by decide

/-! ## Clocks: 2.7 -/

theorem test_refresh : ClockModel.refresh (.valid { clock := 300000120, stamp := 500000000 } 80000) (some 500045000) =
    .valid { clock := 300045120, stamp := 500045000 } 80000 := by decide
theorem test_presentation_of_2_7 :
    presentation (.valid { clock := 300000120, stamp := 500000000 } 80000) 45000 (some 500045000) = some 1045150 := by decide

/-! ## Commands on small states -/

/-- 1.7, first row: a whole line 0 with a start marker synchronises on its slot. -/
theorem test_resynchronises :
    after (exec (.ringWrite 0x100240#36 (BitVec.ofNat 512 0x4700000000) (BitVec.allOnes 64) false)
      (lane5 (tracked id))) (fun t => (t.tracker 5).map fun x => (x.ingest, x.fill)) =
      some (some (.synchronised 3 1, 0)) := by decide

/-- 1.7: the ingest cursor at (6, 0), the play cursor not placed. -/
def before17 : State := lane5 (tracked fun t => { t with ingest := .synchronised 6 0, fill := 3 })

theorem test_first_claim : after (exec (.slotClaim 0x100240#36) before17)
    (fun t => (t.tracker 5).map fun x => (x.play, x.fill, x.lead, x.awaiting)) =
      some (some (some 4, 2, 0, [{ slot := 3, fresh := true }])) := by decide
/-- 1.7: a line-0 read of slot 6 with nothing left is starved. -/
theorem test_starved_claim : after (exec (.slotClaim 0x100480#36)
      (lane5 (tracked fun t => { t with ingest := .synchronised 6 0, play := some 6, lastDecided := some 5 })))
    (fun t => (t.tracker 5).map fun x => (x.play, x.fill, x.lead, x.awaiting)) =
      some (some (some 7, 0, 1, [{ slot := 6, fresh := false }])) := by decide

/-- 1.7: slot 6 completed while the lead is 1: the lead falls and fill stays 0. -/
theorem test_ingest_pays_the_lead : after (exec (.ringWrite 0x100500#36 0 (BitVec.allOnes 64) false)
      (lane5 (tracked fun t => { t with ingest := .synchronised 6 2, play := some 7, lead := 1 })))
    (fun t => (t.tracker 5).map fun x => (x.ingest, x.fill, x.lead)) =
      some (some (.synchronised 7 0, 0, 0)) := by decide
/-- 1.7, last row: slot 9 line 0 while (8, 0) is expected: lost sync counted once, resynchronised at once, fill 1. -/
theorem test_lost_sync : after (exec (.ringWrite 0x1006C0#36 (BitVec.ofNat 512 0x4700000000) (BitVec.allOnes 64) false)
      (lane5 (tracked fun t => { t with ingest := .synchronised 8 0, play := some 8 })))
    (fun t => ((t.lane 5).count .lostSync, (t.tracker 5).map fun x => (x.ingest, x.fill))) =
      some (1, some (.synchronised 9 1, 1)) := by decide
/-- 1.7: a line-1 read of slot 6 after slot 7 was decided is a stray read. -/
theorem test_stray_read : after (exec (.slotLineRead 0x1004C0#36)
      (lane5 (tracked fun t => { t with play := some 8, lastDecided := some 7 })))
    (fun t => ((t.lane 5).count .strayRead, (t.lane 5).flag .strayRead, t.upOrder)) =
      some (1, true, [.read 0x1004C0#36 .plain]) := by decide

/-- R5: the last line of the ring and the first line past it. -/
theorem test_ring_ends : classify (lane5 live) 0x100BC0 = .ring 5 15 2 ∧ classify (lane5 live) 0x100C00 = .other := by decide
/-- R153: the first line, the last line and the first line past the control window. -/
theorem test_window_ends : classify base 0x10000000 = .window 0 ∧ classify base 0x1000FFC0 = .window 0xFFC0 ∧
    classify base 0x10010000 = .other := by decide

/-- 4.9: the tap placed with lag 20 on a source that expects slot 30 with fill 64. -/
def src49 (i fill : Nat) : State :=
  withOn base 40 srcRec { live with track := { live.track with ingest := .synchronised i 0, fill := fill } }

theorem test_tap_placed : placeTap (src49 30 64) 40 20 =
    { source := 40, lag := 20, pos := .placed 9 21, fresh := true } := by decide
theorem test_tap_after_the_slip : (placeTap (src49 2 64) 40 20).pos = .placed 45 21 ∧
    (placeTap (src49 2 64) 40 0).pos = .placed 1 1 := by decide

/-! ## The report ring: 10.5 -/

/-- The ring of 10.5 with W, H and the urgent position. -/
def ring105 (w h : Nat) (u : Option Nat) (timer : CoalesceTimer) : State :=
  { base with
    report := { Report.reset with
      setup := some { base := 0x2000000, size := 16, threshold := 4, coalesce := 50, urgent := defaultUrgent }
      w := w, h := h, urgentPos := u, timer := timer, attention := u.isSome } }

theorem test_default_urgent : [RecordKind.feedLost, .alertStart, .alertEnd].all (fun k => defaultUrgent.getLsbD (k.code - 1)) =
    true ∧ defaultUrgent.getLsbD (RecordKind.cueRefused.code - 1) = false := by decide
/-- The expiry at 1,053 of a timer RUNNING from 1,002: 51 exceeds 50. -/
theorem test_coalesce_expiry : after (exec .coalesceTimerExpiry { ring105 2 0 none (.running 1002) with stationMs := 1053 })
    (fun t => (t.report.timer, t.report.attention)) = some (.expired, true) := by decide
theorem test_coalesce_not_due : after (exec .coalesceTimerExpiry { ring105 2 0 none (.running 1002) with stationMs := 1052 })
    (fun t => (t.report.timer, t.report.attention)) = some (.running 1002, false) := by decide
/-- The host writes H = 3 past the FEED_LOST record at place 2. -/
theorem test_read_index_passes_urgent :
    after (exec (.readIndexWrite 0x10001040#36 (BitVec.ofNat 512 3) 0xF#64) (ring105 1 2 (some 2) (.running 0)))
    (fun t => (t.report.h, t.report.urgentPos, t.report.attention)) = some (3, none, true) := by decide
/-- The host writes H = 20. -/
theorem test_read_index_too_large :
    after (exec (.readIndexWrite 0x10001040#36 (BitVec.ofNat 512 20) 0xF#64) (ring105 2 3 none (.running 0)))
    (fun t => (t.report.h, t.report.badIndex)) = some (3, true) := by decide

/-! ## Witnesses: lemmas about the test states -/

theorem base_lane (m : LaneId) : base.lane m = Lane.reset := by simp [base, State.reset, State.lane]

theorem base_alert (a : AlertId) : base.alert a = Alert.reset := by simp [base, State.reset, State.alert]

theorem base_order (i : OrderId) : base.order i = Order.reset := by simp [base, State.reset, State.order]

theorem withOn_lane (s : State) (l m : LaneId) (r : LaneRecord) (o : OnLane) :
    (withOn s l r o).lane m = if m = l then { Lane.reset with record := some r, on := some o } else s.lane m :=
  State.lane_setLane s l m _

theorem lane5_record {o : OnLane} {m : LaneId} {q : LaneRecord} (h : ((lane5 o).lane m).record = some q) :
    m = 5 ∧ q = outRec := by
  rw [lane5, withOn_lane, base_lane] at h
  split at h
  · next e => exact ⟨e, by simpa using h.symm⟩
  · simp [Lane.reset] at h

theorem lane5_on {o x : OnLane} {m : LaneId} (h : ((lane5 o).lane m).on = some x) : m = 5 ∧ x = o := by
  rw [lane5, withOn_lane, base_lane] at h
  split at h
  · next e => exact ⟨e, by simpa using h.symm⟩
  · simp [Lane.reset] at h

theorem base_clip {s : State} (hs : s.clips = base.clips) (c : ClipId) : (s.clip c).body = none := by
  simp [State.clip, hs, base, State.reset, Clip.reset]

theorem withClip_body {s : State} (hs : s.clips = base.clips) {c m : ClipId} {n k : Nat} {b : ClipBody}
    (h : ((withClip s c n k).clip m).body = some b) : m = c ∧ b.address = 0x400000 ∧ b.length = n := by
  simp only [State.clip, withClip, Fin.getElem_fin, Vector.getElem_set] at h
  split at h
  · next e => cases h; exact ⟨(Fin.ext e).symm, rfl, rfl⟩
  · simp [hs, base, State.reset, Clip.reset] at h

theorem due_posted (s : State) (code : BitVec 8) : Due (posted s code) 3 code [] :=
  ⟨rfl, ⟨3, false, by simp [posted, nextDue, MemRead.silent]⟩, by simp [posted, State.slot]⟩

theorem inRing {o : OnLane} {a : Addr} {i j : Nat} (h : classify (lane5 o) (lineAddr a) = .ring 5 i j) :
    InRing (lane5 o) a 5 i j outRec o :=
  ⟨h, by simp [lane5, withOn], by simp [lane5, withOn]⟩

/-! ## Witnesses: queue, clock and invariants -/

theorem witness_StepTakesFrontCommand :
    State.pending { base with pending := [.arbiterGrant, .postingTake] } = .arbiterGrant :: [.postingTake] := rfl

theorem witness_StationTimeCounts :
    (base.pin = .released 1#8 ∧ base.pending = [] ∧ base.stationTime = 0 ∧ base.msPhase = 0 ∧ base.stationMs = 0) ∧
    State.reset.pin = .held ∧ State.reset.pending = [] := ⟨⟨rfl, rfl, rfl, rfl, rfl⟩, rfl, rfl⟩

theorem witness_ExecKeepsPendingQueue :
    ∃ t, exec .postingTake { base with pending := [.arbiterGrant], queue := [3] } = .next t := exists_next (by decide)

/-- Slot 3 PENDING and in the queue, about to be taken. -/
def queued : State :=
  { base with
    slots := base.slots.set 3 { PostSlot.reset with state := .pending, kind := 4 }, queue := [3], pending := [.postingTake] }

theorem witness_ListInvariants_posting : PostingInv queued ∧ ∃ t, step queued = .next t :=
  ⟨⟨by decide, by decide, by decide⟩, exists_next (by decide)⟩

/-- The ring of 10.5 with 15 records unread, an urgent one among them, and a record waiting. -/
def ringFull : State :=
  { ring105 1 2 (some 2) (.running 0) with pending := [.recordWriteIssue] }

theorem witness_ReportWriterInvariant : ReportInv ringFull ∧ ∃ t, step ringFull = .next t := by
  refine ⟨⟨⟨by decide, by decide, ?_⟩, ⟨by decide, by decide, ?_, ?_⟩⟩, exists_next (by decide)⟩
  · intro g h; cases h; decide
  · intro g u h k; cases h; cases k; decide
  · intro g x _ k; cases k

/-- Alert 2 in force with its duration over. -/
def alertOver : State :=
  { base with
    alerts := base.alerts.set 2
      { Alert.reset with
        inForce := true
        body := some { zones := 8, mode := .override, clip := 9, duration := 20 }
        timer := true }
    forceList := [2], stationMs := 21, pending := [.alertDurationExpiry 2] }

theorem witness_ListInvariants_force : ForceInv alertOver ∧ ∃ t, step alertOver = .next t :=
  ⟨⟨by decide, by decide⟩, exists_next (by decide)⟩

/-- Lane 5 at the last place of its ring, its fill at N. -/
def atRingEnd : State :=
  { lane5 (tracked fun t => { t with ingest := .synchronised 15 2, play := some 15, lastDecided := some 14, fill := 16 }) with
    pending := [.ringWrite 0x100BC0#36 0 (BitVec.allOnes 64) false] }

theorem witness_RingCursorInvariant : RingInv atRingEnd ∧ ∃ t, step atRingEnd = .next t := by
  refine ⟨⟨?_, ?_⟩, exists_next (by decide)⟩
  · intro l r h; obtain ⟨-, rfl⟩ := lane5_record h; decide
  · intro l o h
    obtain ⟨rfl, rfl⟩ := lane5_on h
    refine ⟨outRec, by decide, ⟨?_, ?_, ?_, by decide, by decide, by decide, by decide, by decide⟩, by decide⟩
    · intro i e h; cases h; decide
    · intro p h; cases h; decide
    · intro k h; cases h; decide

/-- A cue list of 8 entries, two of one event with different kinds. -/
def cues8 : List RecentCue :=
  (List.range 7).map (fun k => { event := BitVec.ofNat 32 (7001 + k), kind := .start, outcome := none }) ++
    [{ event := 7001, kind := .cancel, outcome := some .unmatched }]

theorem witness_ListInvariants_cues : ∃ s : State, s = { lane5 { live with cues := cues8 } with pending := [.fetchIssue] } ∧
    CueInv s ∧ ∃ t, step s = .next t := by
  refine ⟨_, rfl, ?_, exists_next (by decide)⟩
  intro l o h; obtain ⟨-, rfl⟩ := lane5_on h; decide

/-- An active insertion of order 7. -/
def active7 : ActiveInsertion :=
  { order := 7, event := 7001, kind := .start, splice := 57000, ret := 2757000, timeIn := 57299
    cursor := some (.playlist 0 1), offset := some 8589091891, entered := [9], suspended := false, served := 1, shadow := 0
    underrun := 0, flags := Conditions.clear }

/-- A waiting cue of order 8. -/
def waiting8 : WaitingCue := { order := 8, event := 7002, kind := .start, splice := 3000000, ret := 4000000 }

/-- An order of lane 5 in a state: clip 9, no pad. -/
def order5 (st : OrderState) : Order :=
  { state := st
    body := some
      { lane := 5, matchValue := 1, careMask := 1, uses := 0, source := .clips [9] none, maxLength := 5400000 }
    remaining := 0, unlimited := true, abort := false }

/-- Lane 5 with order 7 ACTIVE and order 8 BOUND. -/
def inBreak : State :=
  { lane5 { live with active := some active7, waiting := some waiting8 } with
    orders := (base.orders.set 7 (order5 .active)).set 8 (order5 .bound), pending := [.arbiterGrant] }

theorem inBreak_active (l : LaneId) (i : OrderId) : holdsActive inBreak l i ↔ l = 5 ∧ i = 7 := by
  have e : inBreak.lane l = (lane5 { live with active := some active7, waiting := some waiting8 }).lane l := rfl
  rw [holdsActive, e, lane5, withOn_lane, base_lane]
  split
  · next h => subst h; simp [active7, eq_comm]
  · next h => simp [Lane.reset, h]

theorem inBreak_waiting (l : LaneId) (i : OrderId) : holdsWaiting inBreak l i ↔ l = 5 ∧ i = 8 := by
  have e : inBreak.lane l = (lane5 { live with active := some active7, waiting := some waiting8 }).lane l := rfl
  rw [holdsWaiting, e, lane5, withOn_lane, base_lane]
  split
  · next h => subst h; simp [waiting8, eq_comm]
  · next h => simp [Lane.reset, h]

theorem inBreak_order (i : OrderId) :
    inBreak.order i = if i = 8 then order5 .bound else if i = 7 then order5 .active else Order.reset := by
  by_cases h8 : i = 8
  · subst h8; decide
  by_cases h7 : i = 7
  · subst h7; decide
  rw [if_neg h8, if_neg h7]
  have n8 : (8 : Nat) ≠ i.val := fun h => h8 (Fin.ext h.symm)
  have n7 : (7 : Nat) ≠ i.val := fun h => h7 (Fin.ext h.symm)
  change ((base.orders.set 7 (order5 .active)).set 8 (order5 .bound))[i.val] = _
  rw [Vector.getElem_set_ne _ _ n8, Vector.getElem_set_ne _ _ n7]
  exact base_order i

theorem witness_OrderContextInvariant : OrderInv inBreak ∧ ∃ t, step inBreak = .next t := by
  refine ⟨⟨?_, ?_, ?_⟩, exists_next (by decide)⟩
  · intro i; rw [inBreak_order]; simp only [inBreak_active]
    split <;> [simp_all [order5]; (split <;> simp_all [order5, Order.reset])]
  · intro i; rw [inBreak_order]; simp only [inBreak_waiting]
    split <;> [simp_all [order5]; (split <;> simp_all [order5, Order.reset])]
  · intro l i h
    rw [inBreak_active, inBreak_waiting] at h
    obtain ⟨rfl, rfl⟩ | ⟨rfl, rfl⟩ := h <;> decide

/-- A fetch of lane 5. -/
def fetch5 (interject : Bool) (origin : Origin) : FetchTag :=
  { lane := 5, interject := interject, gen := 0, origin := origin, addr := 0x400000, runStart := true, dead := false }

/-- A prefetch queue entry. -/
def entry9 : QueueEntry := { packet := fillerPacket, stamp := 0, origin := .clip 9 0, runStart := true, fault := false }

/-- The context of a lane with seven queue entries. -/
def fullQueueOn : OnLane := { live with fetch := { live.fetch with queue := List.replicate 7 entry9 } }

/-- Lane 5 with seven queue entries and one fetch in flight. -/
def fullQueue : State :=
  { lane5 fullQueueOn with
    memReads := [.fetch (fetch5 false (.clip 9 7)) false, .fetch (fetch5 false (.clip 9 7)) true]
    pending := [.fetchComplete 0 0] }

theorem witness_PrefetchPlacesInvariant : PlacesInv fullQueue ∧ ∃ t, step fullQueue = .next t := by
  refine ⟨⟨?_, ?_, by decide, by decide⟩, exists_next (by decide)⟩
  · intro l o h; obtain ⟨rfl, rfl⟩ := lane5_on h; decide
  · intro l o h; obtain ⟨rfl, rfl⟩ := lane5_on h; decide

theorem witness_PinReleaseLatchesStraps : State.reset.pin = .held ∧ base.pin = .released 1#8 ∧
    (∃ t, exec .arbiterGrant base = .next t) ∧ Instr.arbiterGrant ≠ .pinReset :=
  ⟨rfl, rfl, exists_next (by decide), by decide⟩

/-! ## Witnesses: upstream writes and reads -/

theorem witness_AddressesAreClassified_window : base.pin = .released 1#8 ∧
    (1 * 268435456 ≤ 0x1000FFFF ∧ 0x1000FFFF < 1 * 268435456 + 65536) := by decide

/-- The last byte of the last line of lane 5's ring, and no other lane's ring there. -/
theorem witness_AddressesAreClassified_ring : (lane5 live).pin = .released 1#8 ∧
    ¬ (1 * 268435456 ≤ 0x100BC0 ∧ 0x100BC0 < 1 * 268435456 + 65536) ∧ ((lane5 live).lane 5).record = some outRec ∧
    15 < outRec.slots ∧ 0x100BC0 = outRec.base + 192 * 15 + 64 * 2 ∧
    ∀ m q, m ≠ 5 → ((lane5 live).lane m).record = some q → ¬ (q.base ≤ 0x100BC0 ∧ 0x100BC0 < q.base + 192 * q.slots) :=
  ⟨rfl, by decide, by decide, by decide, by decide, fun _ _ h k => absurd (lane5_record k).1 h⟩

/-- The first line past the ring, watched with clip 9 there; and the first line past the clip. -/
theorem witness_AddressesAreClassified_watched :
    (∀ m q, ((withClip (lane5 live) 9 4 1).lane m).record = some q →
      ¬ (q.base ≤ 0x4002C0 ∧ 0x4002C0 < q.base + 192 * q.slots)) ∧
    (∃ c b, 0 < ((withClip (lane5 live) 9 4 1).clip c).locks ∧ ((withClip (lane5 live) 9 4 1).clip c).body = some b ∧
      b.address ≤ 0x4002C0 ∧ 0x4002C0 < b.address + 192 * b.length) := by
  refine ⟨?_, 9, ⟨0x400000, 4, 900000, [{ kind := .video, label := 0x200 }]⟩, by decide, by decide, by decide, by decide⟩
  intro m q h
  have h' : ((lane5 live).lane m).record = some q := h
  rw [(lane5_record h').2]; decide

theorem witness_AddressesAreClassified_other :
    (∀ m q, ((withClip (lane5 live) 9 4 1).lane m).record = some q →
      ¬ (q.base ≤ 0x400300 ∧ 0x400300 < q.base + 192 * q.slots)) ∧
    (∀ c b, 0 < ((withClip (lane5 live) 9 4 1).clip c).locks → ((withClip (lane5 live) 9 4 1).clip c).body = some b →
      ¬ (b.address ≤ 0x400300 ∧ 0x400300 < b.address + 192 * b.length)) := by
  constructor
  · intro m q h
    have h' : ((lane5 live).lane m).record = some q := h
    rw [(lane5_record h').2]; decide
  · intro c b _ h
    obtain ⟨-, h1, h2⟩ := withClip_body rfl h
    omega

/-- An OFF lane's ring, unwatched memory, a held pin, and a go word's line written without its byte 0. -/
theorem witness_UpstreamWritesAreForwarded :
    classify (base.setLane 5 { Lane.reset with record := some outRec }) (lineAddr 0x100000#36) = .offRing ∧
    classify base (lineAddr 0x100000#36) = .other ∧ classify State.reset (lineAddr 0x100000#36) = .unclassified ∧
    classify base (lineAddr 0x10000FC0#36) = .window (256 * 15 + 0xC0) ∧
    goWriteSlot (256 * 15 + 0xC0) 0xFE00000000000000#64 = none ∧ 256 * 15 + 0xC0 ≠ 0x1040 := by decide

theorem witness_AcceptedLinesAreIngested_expected :
    let o := tracked fun t => { t with ingest := .synchronised 15 1 }
    InRing (lane5 o) 0x100B80#36 5 15 1 outRec o ∧ o.track.ingest = .synchronised 15 1 ∧ 1 < 2 :=
  ⟨inRing (by decide), rfl, by decide⟩

/-- The last slot of the ring, on a lane whose fill is already N. -/
theorem witness_AcceptedLinesAreIngested_completed :
    let o := tracked fun t => { t with ingest := .synchronised 15 2, fill := 16 }
    InRing (lane5 o) 0x100BC0#36 5 15 2 outRec o ∧ o.track.ingest = .synchronised 15 2 ∧
      (outRec.role = .output ∧ o.track.lead = 0 ∧ outRec.slots ≤ o.track.fill) := ⟨inRing (by decide), rfl, rfl, rfl, by decide⟩

/-- R10: that ingest is an overrun: fill stays N, counted and flagged. -/
theorem test_overrun : after (exec (.ringWrite 0x100BC0#36 0 (BitVec.allOnes 64) false)
      (lane5 (tracked fun t => { t with ingest := .synchronised 15 2, fill := 16 })))
    (fun t => ((t.lane 5).count .overrun, (t.lane 5).flag .overrun, (t.tracker 5).map Tracker.fill)) =
      some (1, true, some 16) := by decide

/-- A context about to complete slot 3 with packet `p`, its line 2 zeros. -/
def ingesting (p : Packet) (o : OnLane) : OnLane :=
  { o with track := { o.track with ingest := .synchronised 3 2, assembly := makeSlot 500000000 p } }

/-- The slot it completes. -/
def ingested (p : Packet) : SlotData := setSlotLine (makeSlot 500000000 p) 2 0

theorem completes (p : Packet) (o : OnLane) (s : State) (hs : s.lanes = (lane5 (ingesting p o)).lanes)
    (hp : s.pin = base.pin) : Completes s 0x1002C0#36 0 5 3 outRec (ingesting p o) (ingested p) := by
  have e (l : LaneId) : s.lane l = (lane5 (ingesting p o)).lane l := by simp only [State.lane, hs]
  have r : ringLane s (lineAddr 0x1002C0#36) = ringLane (lane5 live) (lineAddr 0x1002C0#36) := by
    have h (l : LaneId) : (s.lane l).record = ((lane5 live).lane l).record := by
      rw [e, lane5, lane5, withOn_lane, withOn_lane]; split <;> rfl
    simp only [ringLane, h]
  refine ⟨⟨?_, ?_, ?_⟩, rfl, rfl⟩
  · have w : s.windowBase = some 268435456 := by simp [State.windowBase, hp, base]
    have d : ringLane (lane5 live) (lineAddr 0x1002C0#36) = some (5, outRec) := by decide
    have n : (s.lane 5).on.isSome = true := by rw [e, lane5, withOn_lane]; rfl
    unfold classify
    simp only [w, r, d, n]
    decide
  · rw [e, lane5, withOn_lane]; rfl
  · rw [e, lane5, withOn_lane]; rfl

/-- The capture of 2.7; with an outage record open, the recovery count reached with this slot. -/
def capture27 : Packet := clockPacket 1000000 299

/-- A RECOVERING context one slot and the capture short of its proof. -/
def recovering : OnLane :=
  { live with
    feed := { state := .recovering, lossTimer := some 0, good := 1, captureSeen := false
              outage := some { start := 77, served := 5, underrun := 1 } } }

theorem witness_IngestJudgesClockAndFeed :
    Completes (lane5 (ingesting capture27 recovering)) 0x1002C0#36 0 5 3 outRec (ingesting capture27 recovering)
      (ingested capture27) ∧ outRec.recovery ≤ 255 ∧
    (let p := slotPacket (ingested capture27)
     hasMarker p = true ∧ headerVerdict p = .good ∧ packetLabel p = outRec.clockLabel ∧ hasClockRef p = true ∧
       (clockRefExt p).toNat < 300 ∧ outRec.cueLabel ≠ some (packetLabel p)) ∧
    recovering.feed.state = .recovering ∧ outRec.recovery ≤ min 255 (recovering.feed.good + 1) ∧
    recovering.feed.outage.isSome = true ∧ outRec.role = .output ∧ live.feed.state = .live :=
  ⟨completes _ _ _ rfl rfl, by decide, by decide, rfl, by decide, rfl, rfl, rfl⟩

/-- A packet without marker, one of a bad header, an errored one, a capture's reference with extension 300, and a capture with
the discontinuity flag, each of a slot completed. -/
theorem witness_IngestJudgesClockAndFeed_counted :
    (∀ p, Completes (lane5 (ingesting p live)) 0x1002C0#36 0 5 3 outRec (ingesting p live) (ingested p)) ∧
    hasMarker (slotPacket (ingested 0)) = false ∧ headerVerdict (slotPacket (ingested (packet 0x01 0x00 0x00))) = .bad ∧
    headerVerdict (slotPacket (ingested (packet 0x81 0x00 0x10))) = .errored ∧
    (let p := slotPacket (ingested (clockPacket 1000000 300))
     hasMarker p = true ∧ headerVerdict p = .good ∧ packetLabel p = outRec.clockLabel ∧ hasClockRef p = true ∧
       (clockRefExt p).toNat = 300) ∧
    (let p := slotPacket (ingested (setByte capture27 5 0x90))
     headerVerdict p = .good ∧ packetLabel p = outRec.clockLabel ∧ hasClockRef p = true ∧ (clockRefExt p).toNat < 300 ∧
       discontinuity p = true) :=
  ⟨fun _ => completes _ _ _ rfl rfl, by decide, by decide, by decide, by decide, by decide⟩

/-- R27: a reference with extension 300 is counted as bad and gives no clock model; R30: a jump of the timebase is counted. -/
theorem test_capture_counters :
    after (exec (.ringWrite 0x1002C0#36 0 (BitVec.allOnes 64) false) (lane5 (ingesting (clockPacket 1000000 300) live)))
      (fun t => ((t.lane 5).count .badReference, (t.lane 5).on.map fun o => o.clock)) = some (1, some .unset) ∧
    after (exec (.ringWrite 0x1002C0#36 0 (BitVec.allOnes 64) false) (lane5 (ingesting (setByte capture27 5 0x90) live)))
      (fun t => ((t.lane 5).count .timebaseChange, (t.lane 5).flag .timebaseChanged)) = some (1, true) := by decide

/-- R109: the proof completes within the slot's events, in either order. -/
theorem test_feed_restored : ∀ ff, after (exec (.ringWrite 0x1002C0#36 0 (BitVec.allOnes 64) ff)
      (lane5 (ingesting capture27 recovering)))
    (fun t => (t.lane 5).on.map fun o => (o.feed.state, o.feed.outage)) = some (some (.live, none)) := by decide

/-- A RECOVERING lane with its loss source as fetch source and a read of it waiting, `n` of its lines granted. -/
def onSlate (n : Nat) : State :=
  { lane5 (ingesting capture27 { recovering with fetch :=
      { recovering.fetch with source := some .loss, cursor := some (.loop 9 2 false), queue := [entry9] } }) with
    fetchWait := some (fetch5 false (.clip 9 1), n) }

/-- R109, R64: the queue is flushed as the lane enters LIVE, and the waiting read of it withdrawn unless granted. -/
theorem test_restored_flushes : ∀ n : Fin 2, after (exec (.ringWrite 0x1002C0#36 0 (BitVec.allOnes 64) false) (onSlate n))
    (fun t => ((t.lane 5).queueGen, t.fetchWait.isSome, (t.lane 5).on.map fun o => o.fetch.source)) =
      some (1, decide (n = 1), some none) := by decide

/-- A command other than the resets, FETCH_ISSUE and ARBITER_GRANT. -/
theorem witness_PrefetchPlacesInvariant_withdrawn :
    ∃ t, exec (.ringWrite 0x1002C0#36 0 (BitVec.allOnes 64) false) (onSlate 0) = .next t := exists_next (by decide)

/-! ### Cues -/

/-- A cue packet on label 101h: kind, event 7001, placement 1, flags, splice time 57,000 and duration 2,700,000, and its check. -/
def cue (kind flags : Byte) (check : BitVec 32) : Packet :=
  setBytes (setByte (packet 0x41 0x01 0x10) 5 0xD5) 6
    [kind, 0, 23, 0, 0, 0x1B, 0x59, 0, 0, 0, 1, flags, 0, 0, 0, 0xDE, 0xA8, 0, 0, 0x29, 0x32, 0xE0,
      check.extractLsb' 24 8, check.extractLsb' 16 8, check.extractLsb' 8 8, check.extractLsb' 0 8]
where
  /-- Bytes put into a packet from byte `k`. -/
  setBytes (p : Packet) : Nat → List Byte → Packet
    | _, [] => p
    | k, b :: bs => setBytes (setByte p k b) (k + 1) bs

/-- The START of 3.10 for event 7001. -/
def cueStart : Packet := cue 1 0xC0 3427536130

/-- A RETURN of event 7001 without a time. -/
def cueReturn : Packet := cue 3 0 2951624904

/-- A CANCEL of event 7001. -/
def cueCancel : Packet := cue 4 0 2095121528

theorem test_cue_start : scanCue (slotPacket (ingested cueStart)) =
    .parsed { kind := .start, event := 7001, placement := 1, time := some 57000, duration := some 2700000 } := by decide

theorem onCueLabel {p : Packet} (h : hasMarker p = true ∧ headerVerdict p = .good ∧ outRec.cueLabel = some (packetLabel p) ∧
    outRec.clockLabel ≠ packetLabel p ∧ unitStart p = true ∧ bearsPayload p = true) : OnCueLabel outRec p :=
  ⟨rfl, h.1, h.2.1, h.2.2.1, h.2.2.2.1, h.2.2.2.2.1, h.2.2.2.2.2⟩

/-- A good section, one whose check fails, one that does not begin with D5h, a scrambled packet, and a duplicate. -/
theorem witness_CueSectionsAreChecked :
    (∀ p, p ∈ [cueStart, cue 1 0xC0 0, packet 0x41 0x01 0x10, packet 0x41 0x01 0x50] →
      OnCueLabel outRec (slotPacket (ingested p)) ∧
        Completes (lane5 (ingesting p live)) 0x1002C0#36 0 5 3 outRec (ingesting p live) (ingested p)) ∧
    crcOver (slotPacket (ingested cueStart)) 5 23 =
      BitVec.ofNat 32 (packetNumber (slotPacket (ingested cueStart)) (5 + 23) 4) ∧
    getByte (slotPacket (ingested (packet 0x41 0x01 0x10))) 5 ≠ 0xD5#8 ∧
    scrambling (slotPacket (ingested (packet 0x41 0x01 0x50))) ≠ 0 ∧ FeedQuiet live ∧
    (∃ c, scanCue (slotPacket (ingested cueStart)) = .parsed c ∧
      ∃ e, e ∈ [({ event := 7001, kind := .start, outcome := some .late } : RecentCue)] ∧ e.event = c.event ∧ e.kind = c.kind) := by
  refine ⟨fun p h => ⟨onCueLabel ?_, completes p live _ rfl rfl⟩, by decide, by decide, by decide, .inl rfl,
    _, test_cue_start, _, List.mem_singleton_self _, rfl, rfl⟩
  simp only [List.mem_cons, List.not_mem_nil, or_false] at h
  obtain rfl | rfl | rfl | rfl := h <;> decide

/-- R34: the packet whose check fails counts as malformed, and its record is counted as a gap with no ring set up. -/
theorem test_malformed_cue : after (exec (.ringWrite 0x1002C0#36 0 (BitVec.allOnes 64) false)
      (lane5 (ingesting (cue 1 0xC0 0) live)))
    (fun t => ((t.lane 5).count .malformedCue, (t.lane 5).count .notACue, t.report.gap)) = some (1, 0, 1) := by decide

/-- A lane with a VALID model at the slot's stamp. -/
def timed : OnLane := { live with clock := .valid { clock := 3689846, stamp := 500000000 } 0 }

/-- The slot of a cue, order 7 of the lane ARMED and order 8 BOUND, clip 9 READY. -/
def cueSlot (p : Packet) (o : OnLane) : State :=
  { withClip (lane5 (ingesting p o)) 9 4 1 with orders := (base.orders.set 7 (order5 .armed)).set 8 (order5 .bound) }

theorem cueSlot_order (p : Packet) (o : OnLane) (j : OrderId) : (cueSlot p o).order j =
    if j = 8 then order5 .bound else if j = 7 then order5 .armed else Order.reset := by
  have h : (cueSlot p o).order j = ((base.orders.set 7 (order5 .armed)).set 8 (order5 .bound))[j.val] := rfl
  rw [h, Vector.getElem_set, Vector.getElem_set]
  by_cases h8 : j = 8
  · subst h8; simp
  by_cases h7 : j = 7
  · subst h7; simp
  have n8 : ¬ (8 : Nat) = j.val := fun e => h8 (Fin.ext e.symm)
  have n7 : ¬ (7 : Nat) = j.val := fun e => h7 (Fin.ext e.symm)
  simp [n8, n7, h8, h7, base, State.reset]

theorem cueSlot_bindable (p : Packet) (o : OnLane) : Bindable (cueSlot p o) 5 1 7 ∧
    ∀ j, j < 7 → ¬ Bindable (cueSlot p o) 5 1 j := by
  have k : (cueSlot p o).clipReady 9 = true := rfl
  refine ⟨⟨by rw [cueSlot_order]; rfl, _, by rw [cueSlot_order]; rfl, rfl, by decide, ?_⟩, ?_⟩
  · simp [orderReady, OrderBody.clips, k]
  · rintro j h ⟨h', -⟩
    rw [cueSlot_order, if_neg (by rintro rfl; exact absurd h (by decide)), if_neg (by rintro rfl; exact absurd h (by decide))] at h'
    cases h'

/-- Without a clock model; a START late and in time; without an order to bind; under a waiting cue; a RETURN and a CANCEL of the
waiting cue's event, of the active insertion's, and of neither. -/
theorem witness_CueOutcomesAreDecided :
    (∀ p o, Completes (cueSlot p o) 0x1002C0#36 0 5 3 outRec (ingesting p o) (ingested p)) ∧
    (∀ p, p ∈ [cueStart, cueReturn, cueCancel] → OnCueLabel outRec (slotPacket (ingested p)) ∧
      scrambling (slotPacket (ingested p)) = 0 ∧ ∃ c, scanCue (slotPacket (ingested p)) = .parsed c ∧ c.event = 7001) ∧
    (∀ e, e ∈ timed.cues → ¬ (e.event = 7001 ∧ e.kind = .start)) ∧ live.clock.isValid = false ∧
    timed.clock.isValid = true ∧ presentation timed.clock outRec.playDelay (some (slotStamp (ingested cueStart))) = some 57299 ∧
    (((57299 - 57000 : Stamp)).toNat < 2 ^ 32 ∧ ¬ outRec.lateGrace < (57299 - 57000 : Stamp).toNat) ∧
    (((70000 - 57000 : Stamp)).toNat < 2 ^ 32 ∧ outRec.lateGrace < (70000 - 57000 : Stamp).toNat) ∧
    timed.waiting = none ∧ (∃ j, Bindable (cueSlot cueStart timed) 5 1 j) ∧
    (¬ ∃ j, Bindable (lane5 (ingesting cueStart timed)) 5 1 j) ∧
    waiting8.event ≠ 7001 ∧ active7.event = 7001 ∧ FeedQuiet timed := by
  refine ⟨fun p o => completes p o _ rfl rfl, ?_, by decide, rfl, rfl, by decide, by decide, by decide, rfl,
    ⟨7, (cueSlot_bindable _ _).1⟩, ?_, by decide, rfl, .inl rfl⟩
  · intro p h
    simp only [List.mem_cons, List.not_mem_nil, or_false] at h
    obtain rfl | rfl | rfl := h
    · exact ⟨onCueLabel (by decide), by decide, _, test_cue_start, rfl⟩
    · exact ⟨onCueLabel (by decide), by decide,
        { kind := .ret, event := 7001, placement := 1, time := none, duration := none }, by decide, rfl⟩
    · exact ⟨onCueLabel (by decide), by decide,
        { kind := .cancel, event := 7001, placement := 1, time := none, duration := none }, by decide, rfl⟩
  · rintro ⟨j, h, -⟩
    have e : (lane5 (ingesting cueStart timed)).order j = base.order j := rfl
    rw [e, base_order] at h; cases h

/-- A START with order 7 to bind; a RETURN of the active insertion and, without one, of the waiting cue; a CANCEL of the waiting
cue. -/
theorem witness_AcceptedCuesActOnTheBreak :
    (∀ p o, Completes (cueSlot p o) 0x1002C0#36 0 5 3 outRec (ingesting p o) (ingested p)) ∧
    timed.clock.isValid = true ∧ presentation timed.clock outRec.playDelay (some (slotStamp (ingested cueStart))) = some 57299 ∧
    timed.waiting = none ∧ (∀ u, some (57000 : Stamp) = some u →
      ¬ (((57299 - u : Stamp)).toNat < 2 ^ 32 ∧ outRec.lateGrace < (57299 - u : Stamp).toNat)) ∧
    (Bindable (cueSlot cueStart timed) 5 1 7 ∧ (∀ k, k < 7 → ¬ Bindable (cueSlot cueStart timed) 5 1 k) ∧
      ∃ b, ((cueSlot cueStart timed).order 7).body = some b) ∧
    (let o := { timed with active := some active7 }
     o.active = some active7 ∧ active7.event = 7001 ∧ ∃ b, ((cueSlot cueReturn o).order active7.order).body = some b) ∧
    (let w := { waiting8 with event := 7001 }
     let o := { timed with waiting := some w }
     (∀ y, o.active = some y → y.event ≠ 7001) ∧ o.waiting = some w ∧ w.event = 7001 ∧
       (∃ b, ((cueSlot cueReturn o).order w.order).body = some b) ∧
       (∃ b, ((cueSlot cueCancel o).order w.order).body = some b) ∧ FeedQuiet o) := by
  refine ⟨fun p o => completes p o _ rfl rfl, rfl, by decide, rfl, ?_, ⟨(cueSlot_bindable _ _).1, (cueSlot_bindable _ _).2, ?_⟩,
    ⟨rfl, rfl, ?_⟩, ?_, rfl, rfl, ?_, ?_, .inl rfl⟩
  · intro u h; cases h; decide
  · exact ⟨_, by rw [cueSlot_order]; rfl⟩
  · exact ⟨_, by rw [cueSlot_order]; rfl⟩
  · intro y h; cases h
  · exact ⟨_, by rw [cueSlot_order]; rfl⟩
  · exact ⟨_, by rw [cueSlot_order]; rfl⟩

/-- R50, R80, R81: the START binds order 7 with T = 57,000 and R = 2,757,000. -/
theorem test_cue_binds : after (exec (.ringWrite 0x1002C0#36 0 (BitVec.allOnes 64) false) (cueSlot cueStart timed))
    (fun t => ((t.lane 5).on.bind fun o => o.waiting.map fun w => (w.order, w.splice, w.ret), (t.order 7).state,
      (t.clip 9).locks)) = some (some (7, 57000, 2757000), .bound, 2) := by decide

/-- R66: the bound CLIPS order is primed from packet 0 of its playlist. -/
theorem test_cue_primes : after (exec (.ringWrite 0x1002C0#36 0 (BitVec.allOnes 64) false) (cueSlot cueStart timed))
    (fun t => (t.lane 5).on.bind fun o => o.fetch.cursor) = some (some (.insertion 7 (.playlist 0 0) true)) := by decide

/-- R93: the CANCEL of the waiting cue makes its order ARMED and releases its clip. -/
theorem test_cue_cancels : after (exec (.ringWrite 0x1002C0#36 0 (BitVec.allOnes 64) false)
      (cueSlot cueCancel { timed with waiting := some { waiting8 with event := 7001 } }))
    (fun t => ((t.lane 5).on.map fun o => o.waiting.isNone, (t.order 8).state, (t.clip 9).locks)) =
      some (some true, .armed, 0) := by decide

/-! ### Taps -/

/-- The context of lane 5 with a tap on lane 40. -/
def tapping (pos : TapPos) : OnLane :=
  { live with
    fetch := { live.fetch with
      source := some .loss, cursor := some (.tap { source := 40, lag := 20, pos := pos, fresh := false }), queue := [entry9] } }

/-- The SOURCE context of 4.9 about to complete slot 1 of 64. -/
def src49On : OnLane := { live with track := { live.track with ingest := .synchronised 1 2, fill := 64 } }

/-- Lane 40 about to complete that slot, lane 5 tapping it. -/
def tapSlot (pos : TapPos) : State := withOn (lane5 (tapping pos)) 40 srcRec src49On

theorem tapSlot_inRing (pos : TapPos) (a : Addr) (k j : Nat) (h : classify (tapSlot pos) (lineAddr a) = .ring 40 k j) :
    InRing (tapSlot pos) a 40 k j srcRec src49On :=
  ⟨h, by simp [tapSlot, withOn_lane], by simp [tapSlot, withOn_lane]⟩

theorem tapSlot_on (pos : TapPos) : ((tapSlot pos).lane 5).on = some (tapping pos) := by
  simp [tapSlot, lane5, withOn_lane]

/-- An ingest with the tap placed and waiting; a write that loses sync; and the splice-in of a LIVE order. -/
theorem witness_TapsFollowTheirSource_ingest :
    Completes (tapSlot (.placed 10 55)) 0x200140#36 0 40 1 srcRec src49On (setSlotLine src49On.track.assembly 2 0) ∧
    srcRec.role = .source ∧ (5 : LaneId) ≠ 40 ∧ ((tapSlot (.placed 10 55)).lane 5).on = some (tapping (.placed 10 55)) ∧
    ((tapSlot .waiting).lane 5).on = some (tapping .waiting) ∧
    Completes (tapSlot .waiting) 0x200140#36 0 40 1 srcRec src49On (setSlotLine src49On.track.assembly 2 0) ∧
    (InRing (tapSlot (.placed 10 55)) 0x200000#36 40 0 0 srcRec src49On ∧
      ¬ (src49On.track.ingest = .synchronised 0 0 ∧ BitVec.allOnes 64 = BitVec.allOnes 64)) :=
  ⟨⟨tapSlot_inRing _ _ _ _ (by decide), rfl, rfl⟩, rfl, by decide, tapSlot_on _, tapSlot_on _,
    ⟨tapSlot_inRing _ _ _ _ (by decide), rfl, rfl⟩, tapSlot_inRing _ _ _ _ (by decide), by decide⟩

/-- 4.9: at distance 56 the tap slips to distance 21, slot 45, with a flush. -/
theorem test_tap_slips : after (exec (.ringWrite 0x200140#36 0 (BitVec.allOnes 64) false) (tapSlot (.placed 10 55)))
    (fun t => ((t.lane 5).count .slip, (t.lane 5).on.map fun o => (o.fetch.queue.length, (o.tapOn 40).map Tap.pos))) =
      some (1, some (0, some (.placed 45 21))) := by decide

/-- A line not expected, the expected line with a byte enable clear, and a line while UNSYNCHRONISED. -/
theorem witness_UnexpectedWriteResynchronises :
    let o := tracked fun t => { t with ingest := .synchronised 8 0, play := some 8 }
    (InRing (lane5 o) 0x1006C0#36 5 9 0 outRec o ∧
      ¬ (o.track.ingest = .synchronised 9 0 ∧ BitVec.allOnes 64 = BitVec.allOnes 64)) ∧
    (InRing (lane5 o) 0x100600#36 5 8 0 outRec o ∧
      ¬ (o.track.ingest = .synchronised 8 0 ∧ 0x7FFFFFFFFFFFFFFF#64 = BitVec.allOnes 64)) ∧
    (InRing (lane5 live) 0x1006C0#36 5 9 0 outRec live ∧
      ¬ (live.track.ingest = .synchronised 9 0 ∧ BitVec.allOnes 64 = BitVec.allOnes 64)) :=
  ⟨⟨inRing (by decide), by decide⟩, ⟨inRing (by decide), by decide⟩, ⟨inRing (by decide), by decide⟩⟩

theorem witness_WatchedWriteDisturbsClips : classify (withClip base 9 4 1) (lineAddr 0x4002C0#36) = .watched := by decide

/-- The first and the last go word; slot 15 IDLE, slot 3 PENDING. -/
theorem witness_GoWritePostsOrDoubles :
    (classify base (lineAddr 0x100000C0#36) = .window (256 * (0 : PostSlotId).val + 0xC0) ∧
      classify base (lineAddr 0x10000FC0#36) = .window (256 * (15 : PostSlotId).val + 0xC0)) ∧
    (0x0100000000000000#64).getLsbD 56 = true ∧ (base.slot 15).state = .idle ∧
    classify queued (lineAddr 0x100003C0#36) = .window (256 * (3 : PostSlotId).val + 0xC0) ∧
    (queued.slot 3).state = .pending := by decide

/-- No index byte, some of them, all of them while UNSET; and while SET the greatest V accepted and one past W. -/
theorem witness_ReadIndexWriteMovesH :
    classify base (lineAddr 0x10001040#36) = .window 0x1040 ∧
    (¬ ((0xF0#64).getLsbD 0 = true ∨ (0xF0#64).getLsbD 1 = true ∨ (0xF0#64).getLsbD 2 = true ∨
      (0xF0#64).getLsbD 3 = true)) ∧
    ((0x7#64).getLsbD 0 = true ∧ ¬ (0x7#64).getLsbD 3 = true) ∧
    ((0xF#64).getLsbD 0 = true ∧ (0xF#64).getLsbD 1 = true ∧ (0xF#64).getLsbD 2 = true ∧ (0xF#64).getLsbD 3 = true) ∧
    base.report.setup = none ∧
    (let s := ring105 1 2 (some 2) (.running 0)
     s.report.setup.isSome = true ∧ classify s (lineAddr 0x10001040#36) = .window 0x1040 ∧
       (1 < 16 ∧ ringDiff 1 s.report.h 16 ≤ s.report.unread) ∧ ¬ (2 < 16 ∧ ringDiff 2 1 16 ≤ ringDiff 0 0 16)) := by decide

/-- A re-read, a stray read, a status line, a go word's line, a line without an overlay, and the plain classes. -/
theorem witness_UpstreamReadsWithoutDecision :
    (let o := tracked fun t => { t with play := some 8, lastDecided := some 7 }
     (InRing (lane5 o) 0x100540#36 5 7 0 outRec o ∧ outRec.role = .output ∧ o.track.lastDecided = some 7) ∧
     (InRing (lane5 o) 0x1004C0#36 5 6 1 outRec o ∧ o.track.lastDecided ≠ some 6 ∧ 1 ≠ 0)) ∧
    classify base (lineAddr 0x10001000#36) = .window 0x1000 ∧ (overlayBytes 0x1000).isSome = true ∧
    (overlayBytes 0).isSome = false ∧ classify base (lineAddr 0x100000#36) = .other ∧
    (InRing (withOn base 40 srcRec live) 0x200000#36 40 0 0 srcRec live ∧ srcRec.role = .source) := by
  refine ⟨⟨⟨inRing (by decide), rfl, rfl⟩, inRing (by decide), by decide, by decide⟩, by decide, by decide, by decide,
    by decide, ⟨by decide, by simp [withOn], by simp [withOn]⟩, rfl⟩

/-- In turn; a jump; a first placement out of sync; and a lead already at N. -/
theorem witness_SlotClaimTakesTheCursorPart :
    (let o := tracked fun t => { t with ingest := .synchronised 6 0, play := some 15, lastDecided := some 14, fill := 7 }
     (InRing (lane5 o) 0x100B40#36 5 15 0 outRec o ∧ outRec.role = .output ∧ o.track.lastDecided ≠ some 15 ∧
       o.track.play = some 15) ∧
     (InRing (lane5 o) 0x100000#36 5 0 0 outRec o ∧ o.track.lastDecided ≠ some 0 ∧ o.track.play ≠ some 0)) ∧
    (InRing (lane5 live) 0x100000#36 5 0 0 outRec live ∧ live.track.lastDecided ≠ some 0 ∧ live.track.play = none) ∧
    (let o := tracked fun t => { t with ingest := .synchronised 6 0, play := some 6, lastDecided := some 5, lead := 16 }
     InRing (lane5 o) 0x100480#36 5 6 0 outRec o ∧ o.track.lastDecided ≠ some 6 ∧ o.track.fill = 0 ∧
       o.track.lead = outRec.slots) :=
  ⟨⟨⟨inRing (by decide), rfl, by decide, rfl⟩, inRing (by decide), by decide, by decide⟩,
    ⟨inRing (by decide), by decide, rfl⟩, inRing (by decide), by decide, rfl, rfl⟩

/-- An upstream read waiting with run count 3 and 4, a record write waiting, and nothing waiting. -/
def contended (n : Nat) : State :=
  { base with
    upOrder := [.read 0 .plain], runCount := n
    report := { Report.reset with
      flight := some
        { kind := .feedLost, gap := 0, addr := 0x2000000, data := 0, enables := 0xFFFFFFFF, granted := false
          abandoned := false } } }

theorem witness_ArbiterGrantsByClass :
    (RunInv (contended 4) ∧ ∃ t, step (contended 4) = .next t) ∧ base.pin = .released 1#8 ∧
    ((contended 3).upOrder = [.read 0 .plain] ∧ (contended 3).runCount < 4) ∧
    ((∃ x, waitingPart (contended 4) = some (.report x)) ∧ (contended 4).runCount = 4) ∧
    (base.upOrder = [] ∧ waitingPart base = none) ∧
    (let s := { base with working := some { slot := 3, granted := 3 } }
     s.working = some { slot := 3, granted := 3 } ∧ 3 < 4 ∧ (∀ a d e, UpTxn.write a d e (some 3) ∉ s.upOrder) ∧
       waitingPart s = some (.posting { slot := 3, granted := 3 })) ∧
    waitingPart { base with fetchWait := some (fetch5 false (.clip 9 7), 2) } = some (.fetch (fetch5 false (.clip 9 7)) 2) ∧
    (∀ w, (contended 4).working = some w →
      ¬ w.granted < 4 ∨ ∃ a d e, UpTxn.write a d e (some w.slot) ∈ (contended 4).upOrder) :=
  ⟨⟨Nat.le_refl 4, exists_next (by decide)⟩, rfl, ⟨rfl, by decide⟩, ⟨⟨_, rfl⟩, rfl⟩, ⟨rfl, by decide⟩,
    ⟨rfl, by decide, by simp [base, State.reset], rfl⟩, rfl, by simp [contended, base, State.reset]⟩

/-- R161: the fourth record line of slot 3 is at 3C0h of the window. -/
theorem test_record_line_address :
    after (exec .arbiterGrant { base with working := some { slot := 3, granted := 3 } }) (fun t => t.memPort) =
      some (some (.read 0x100003C0#36)) := by decide

/-- Lane 5 with a prepared copy whose line 1 passes. -/
def copied5 : State := lane5 (tracked fun t => { t with copy := some { line0 := some 1, line1 := none, line2 := some 3 } })

theorem witness_PortsPassDataAndErrors :
    ({ base with upWrites := 1 } : State).upWrites = 0 + 1 ∧
    nextDue [.posting 0 false, .up 0x100000 .plain, .posting 1 false] = some (.up 0x100000 .plain, [.posting 1 false]) ∧
    nextDue [.up 0x100280 (.copied 5 1)] = some (.up 0x100280 (.copied 5 1), []) ∧
    (copied5.lane 5).on.bind (fun o => o.track.copy) = some { line0 := some 1, line1 := none, line2 := some 3 } := by
  decide

/-- R16: line 1 of that copy passes the memory data, line 2 is the copy's; the error indication goes with either. -/
theorem test_copied_return : after (exec (.upstreamReadReturn 77 true) { copied5 with memReads := [.up 0x100280 (.copied 5 1)] })
      (fun t => t.upPort) = some (some { addr := 0x100280, data := 77, err := true }) ∧
    after (exec (.upstreamReadReturn 77 false) { copied5 with memReads := [.up 0x1002C0 (.copied 5 2)] })
      (fun t => t.upPort) = some (some { addr := 0x1002C0, data := 3, err := false }) := by decide

/-- Lane 5 OFF with a record, clip 9 READY, an alert of its zone in force. -/
def offLane (r : LaneRecord) : State :=
  { (withClip base 9 4 0).setLane 5 { Lane.reset with record := some r } with
    alerts := alertOver.alerts, forceList := [2] }

/-- A go word, the read-index line, the summary line, an alert entry, the entries of lane 5, order 7 and clip 9. -/
theorem witness_OverlayShowsLiveValues :
    (∀ off, nextDue [.up 0x10000FC0 (.overlay off)] = some (.up 0x10000FC0 (.overlay off), [])) ∧
    0xFC0 = 256 * (15 : PostSlotId).val + 0xC0 ∧ base.report.setup = none ∧
    (ring105 1 2 none (.running 0)).report.setup.isSome = true ∧ alertOver.forceList.length ≤ 4 ∧ alertOver.queue.length ≤ 16 ∧
    (alertOver.alert 2).body.isSome = true ∧ 0x10C0 = 0x1080 + 64 * ((2 : AlertId).val / 2) ∧
    ((inBreak.lane 5).record = some outRec ∧ (inBreak.lane 5).on.isSome = true ∧ (inBreak.order 7).body.isSome = true ∧
      (inBreak.order 7).state = .active ∧ (inBreak.order 8).state = .bound ∧ active7.served < 2 ^ 32) ∧
    0x8500 + 64 = 0x8000 + 256 * (5 : LaneId).val + 64 * (Counter.unmapped.place.val / 16) := by
  refine ⟨fun _ => rfl, ?_⟩
  decide

/-- An alert without fields; an OFF lane and an unconfigured one; a map entry and a place beyond the map; no waiting cue, no
insertion, no outage record; and an EMPTY order. -/
theorem witness_OverlayShowsLiveValues_absent :
    (alertOver.alert 3).body = none ∧ 0x10C0 = 0x1080 + 64 * ((3 : AlertId).val / 2) ∧
    ((offLane outRec).lane 5).record = some outRec ∧ ((offLane outRec).lane 5).on = none ∧ (base.lane 63).record = none ∧
    (base.lane 63).on = none ∧ 0xBFC0 = 0x8000 + 256 * (63 : LaneId).val + 192 ∧ outRec.labelMap.length ≤ 8 ∧
    (1 < outRec.labelMap.length ∧ live.sel.continuity[1]?.isSome = true ∧ ¬ 7 < outRec.labelMap.length) ∧
    live.waiting = none ∧ live.active = none ∧ live.feed.outage = none ∧ (base.order 255).body = none := by decide

/-- R170: the detail entry of lane 5 in the break: order 7, event 7001, T, R and served count of the active insertion. -/
theorem test_lane_detail_overlay : after
    (exec (.overlayReadReturn 0 false) { inBreak with memReads := [.up 0x10008540 (.overlay 0x8540)] })
    (fun t => t.upPort.map fun x => (getByte x.data 41, field x.data 44 4, field x.data 48 5, field x.data 53 5)) =
      some (some (7, 7001, 57000, 2757000)) := by decide

/-- The context of a lane with a decision awaiting its content part. -/
def decidingOn (fresh : Bool) : OnLane :=
  tracked fun t => { t with prevStamp := some 4294950000, awaiting := [{ slot := 3, fresh := fresh }] }

/-- Lane 5 with a decision awaiting its content part, the line on the memory port, clip 9 READY, the orders and alerts as given. -/
def atSlot (o : OnLane) (orders : Vector Order 256) (alerts : Vector Alert 4) : State :=
  { withClip (lane5 o) 9 4 1 with orders := orders, alerts := alerts, memReads := [.up 0x100240 (.claim 5)] }

theorem deciding_atSlot {o : OnLane} {orders : Vector Order 256} {alerts : Vector Alert 4} {dec : Decision}
    {decs : List Decision} (h : o.track.awaiting = dec :: decs) :
    Deciding (atSlot o orders alerts) 0x100240 5 [] outRec o dec decs := by
  have e : (atSlot o orders alerts).lane 5 = (lane5 o).lane 5 := rfl
  exact ⟨rfl, by rw [e, lane5, withOn_lane]; rfl, by rw [e, lane5, withOn_lane]; rfl, h⟩

/-- Lane 5 with a decision awaiting its content part and nothing to insert. -/
def deciding (fresh : Bool) : State := atSlot (decidingOn fresh) base.orders base.alerts

theorem witness_ContentPartFixesTheStamp :
    Deciding (deciding false) 0x100240 5 [] outRec (decidingOn false) { slot := 3, fresh := false } [] := deciding_atSlot rfl

/-- A starved slot; and a fresh one whose label, 300h, is in no entry of the map. -/
theorem witness_NetworkOrFillerIsServed :
    (∀ fresh, Deciding (deciding fresh) 0x100240 5 [] outRec (decidingOn fresh) { slot := 3, fresh := fresh } [] ∧
      (decidingOn fresh).stack = [] ∧ (decidingOn fresh).active = none ∧ (decidingOn fresh).waiting = none ∧
      (decidingOn fresh).feed.state = .live ∧ (decidingOn fresh).sel.away = false) ∧
    ∀ en, en ∈ outRec.labelMap →
      en.label ≠ packetLabel (slotPacket (BitVec.setWidth 1536 (BitVec.ofNat 512 0x1000034700000000))) :=
  ⟨fun _ => ⟨deciding_atSlot rfl, rfl, rfl, rfl, rfl, rfl⟩, by decide⟩

/-- A lane that is away with a last count of 9 on its video, its fresh slot undecided. -/
def awayOn : OnLane :=
  { decidingOn true with
    sel := { live.sel with
      away := true
      continuity := [{ last := some 9, delta := 2, pending := false }, { last := none, delta := 0, pending := false }] } }

/-- Line 0 of a packet on label 102h with payload and count 7. -/
def line102 : Line := slotLine (makeSlot 5 (packet 0x41 0x02 0x17)) 0

/-- A packet on the label of the first map entry, the lane away and not, its last count none. -/
theorem witness_NetworkOrFillerIsServed_mapped :
    (∀ o, o = awayOn ∨ o = decidingOn true →
      Deciding (atSlot o base.orders base.alerts) 0x100240 5 [] outRec o { slot := 3, fresh := true } [] ∧ o.stack = [] ∧
        o.active = none ∧ o.waiting = none ∧ o.feed.state = .live ∧ (∃ c, o.sel.continuity[0]? = some c) ∧
        ∃ c, o.sel.continuity[1]? = some c) ∧
    getByte line102 4 = 0x47#8 ∧
    outRec.labelMap[0]? = some { kind := .video, label := packetLabel (line0Packet line102) } := by
  refine ⟨?_, by decide, by decide⟩
  rintro o (rfl | rfl) <;> exact ⟨deciding_atSlot rfl, rfl, rfl, rfl, rfl, ⟨_, rfl⟩, _, rfl⟩

/-- R147, R149: the first video packet after the return takes the count 10 after 9, and its entry the difference 3. -/
theorem test_network_mapped : after (exec (.slotContentPart line102 false) (atSlot awayOn base.orders base.alerts))
    (fun t => (t.upPort.map fun u => getByte u.data 7, (t.lane 5).on.map fun o => (o.sel.away, o.sel.continuity.head?))) =
      some (some 0x1A, some (false, some { last := some 10, delta := 3, pending := false })) := by decide

/-- The waiting cue of 3.10 with T = 57,000. -/
def waiting7 : WaitingCue := { order := 7, event := 1, kind := .start, splice := 57000, ret := 2757000 }

/-- The worked case of 3.10: the anchor of the capture, the slot stamped 5,000,000 and a waiting cue. -/
def splicing (w : WaitingCue) : OnLane :=
  { decidingOn true with
    clock := .valid anchor310 0, waiting := some w
    fetch := { live.fetch with queue := [entry9], source := some (.insertion 7) } }

/-- Lane 5 at that slot, order 7 BOUND, clip 9 READY. -/
def toSplice (w : WaitingCue) : State := atSlot (splicing w) (base.orders.set 7 (order5 .bound)) base.alerts

/-- The line 0 of that slot. -/
def line310 : Line := BitVec.ofNat 512 5000000

theorem slot_time {o : OnLane} (clock : o.clock = .valid anchor310 0) (track : o.track = (decidingOn true).track) :
    slotTime outRec o { slot := 3, fresh := true } line310 false = some 57299 := by
  rw [slotTime, slotStampOf, clock, track]; decide

theorem witness_SpliceInStartsTheInsertion : ∃ b,
    Deciding (toSplice waiting7) 0x100240 5 [] outRec (splicing waiting7) { slot := 3, fresh := true } [] ∧
    (splicing waiting7).stack = [] ∧ (splicing waiting7).active = none ∧ (splicing waiting7).waiting = some waiting7 ∧
    ((toSplice waiting7).order 7).body = some b ∧ (∀ pad, b.source ≠ .clips [] pad) ∧
    slotTime outRec (splicing waiting7) { slot := 3, fresh := true } line310 false = some 57299 ∧
    atOrAfter 57299 waiting7.splice = true ∧ atOrAfter 57299 waiting7.ret = false :=
  ⟨{ lane := 5, matchValue := 1, careMask := 1, uses := 0, source := .clips [9] none, maxLength := 5400000 },
    deciding_atSlot rfl, rfl, rfl, rfl, by decide, (fun _ h => by cases h), slot_time rfl rfl, by decide, by decide⟩

/-- 3.10: the splice slot has time in 57,299, and D = 8,589,091,891 is worked there. -/
theorem test_splice_slot : after (exec (.slotContentPart line310 false) (toSplice waiting7))
    (fun t => (t.lane 5).on.bind fun o => o.active.map fun x => (x.timeIn, x.offset, x.served, x.cursor)) =
      some (some (57299, some 8589091891, 1, some (.playlist 0 1))) := by decide

/-- A context with an insertion of order 7 under way and two packets in the queue, the first faulted as said. -/
def serving (x : ActiveInsertion) (fault : Bool) : OnLane :=
  { splicing waiting7 with
    active := some x, waiting := none
    fetch := { live.fetch with
      queue := [{ entry9 with packet := packet 0x02 0x00 0x17, fault := fault }, entry9], source := some (.insertion 7) } }

/-- Orders 7 ACTIVE and 8 BOUND. -/
def inBreakOrders : Vector Order 256 := (base.orders.set 7 (order5 .active)).set 8 (order5 .bound)

/-- Lane 5 with that context, order 7 ACTIVE, clip 9 READY with video on label 200h. -/
def toServe (x : ActiveInsertion) (fault : Bool) : State := atSlot (serving x fault) inBreakOrders base.alerts

theorem not_reached {p : Option Stamp} {q x : Stamp} (h : p = some q) (n : atOrAfter q x = false) : ¬ Reached p x := by
  rintro ⟨y, hy, k⟩; rw [h] at hy; cases hy; rw [n] at k; cases k

/-- Clip 9's video on label 200h is mapped to the first entry of lane 5's map, the video on 102h. -/
theorem mapped9 {s : State} (h : originLabels s (.clip 9 0) = [{ kind := .video, label := 0x200 }]) :
    MapsTo s outRec { entry9 with packet := packet 0x02 0x00 0x17 } 0 { kind := .video, label := 0x102 } := by
  refine ⟨rfl, by decide, by decide, by decide, .video, ?_, rfl, rfl, fun m y n => absurd n (Nat.not_lt_zero m)⟩
  change kindIn (originLabels s (.clip 9 0)) _ = _
  rw [h]; decide

/-- The fields of a LIVE order of lane 5 on lane 40. -/
def live40 : OrderBody :=
  { lane := 5, matchValue := 1, careMask := 1, uses := 0, source := .live 40 .rebase 20, maxLength := 5400000 }

/-- A good packet that is mapped and a faulted one, at 57,299 with R = 2,757,000. -/
theorem witness_InsertionServesTheQueue :
    (∀ fault, Deciding (toServe active7 fault) 0x100240 5 [] outRec (serving active7 fault) { slot := 3, fresh := true } [] ∧
      (serving active7 fault).stack = [] ∧ (serving active7 fault).active = some active7 ∧
      (serving active7 fault).waiting = none ∧ active7.suspended = false ∧ active7.cursor ≠ some .exhausted ∧
      ((toServe active7 fault).order 7).abort = false ∧
      ¬ Reached (slotTime outRec (serving active7 fault) { slot := 3, fresh := true } line310 false) active7.ret ∧
      ∃ e es, (serving active7 fault).fetch.queue = e :: es ∧ e.fault = fault) ∧
    (∀ pos b, pos = .playlist 0 0 ∨ pos = .playlist 0 3 →
      ((toServe { active7 with cursor := some pos } false).order 7).body = some b → (cursorClip b pos).isSome = true) ∧ ((toServe active7 false).clip 9).body.isSome = true ∧
    MapsTo (toServe active7 false) outRec { entry9 with packet := packet 0x02 0x00 0x17 } 0 { kind := .video, label := 0x102 } ∧
    ∀ n en, ¬ MapsTo (toServe active7 true) outRec { entry9 with packet := packet 0x02 0x00 0x17, fault := true } n en := by
  refine ⟨fun fault => ⟨deciding_atSlot rfl, rfl, rfl, rfl, rfl, by decide, rfl, not_reached (slot_time rfl rfl) (by decide),
    _, _, rfl, rfl⟩, ?_, rfl, mapped9 rfl, ?_⟩
  · rintro pos b (rfl | rfl) h <;> cases h <;> decide
  · rintro n en ⟨h, -⟩; cases h

/-- A LIVE order on lane 40 in REBASE mode, its queue head a run start of that lane's slot 3. -/
theorem witness_InsertionServesTheQueue_live :
    let x := { active7 with cursor := none, offset := none, entered := [] }
    let e := { entry9 with packet := packet 0x02 0x00 0x17, origin := .tap 40 3 }
    let o := { serving x false with fetch := { live.fetch with queue := [e], source := some (.insertion 7) } }
    let s := withOn (atSlot o (base.orders.set 7 { order5 .active with body := some live40 }) base.alerts) 40 srcRec timed
    Deciding s 0x100240 5 [] outRec o { slot := 3, fresh := true } [] ∧ o.stack = [] ∧ o.active = some x ∧ o.waiting = none ∧
      x.suspended = false ∧ x.cursor ≠ some .exhausted ∧ (s.order 7).abort = false ∧
      ¬ Reached (slotTime outRec o { slot := 3, fresh := true } line310 false) x.ret ∧ o.fetch.queue = e :: [] ∧
      (s.order 7).body = some live40 ∧ live40.source = .live 40 .rebase 20 ∧ (s.lane 40).record = some srcRec ∧
      (s.lane 40).on = some timed ∧ e.origin = .tap 40 3 := by
  refine ⟨⟨rfl, ?_, ?_, rfl⟩, rfl, rfl, rfl, rfl, by decide, rfl, not_reached (slot_time rfl rfl) (by decide), rfl, by decide, rfl,
    by simp [withOn_lane], by simp [withOn_lane], rfl⟩ <;>
    · rw [withOn_lane, if_neg (by decide)]
      first
        | exact (deciding_atSlot rfl).record
        | exact (deciding_atSlot rfl).on

/-- An insertion past its R; one of an order with an abort mark; one exhausted; a waiting cue of order 8 not reached. -/
theorem witness_InsertionEndsByItsCause :
    (let x := { active7 with ret := 57000 }
     let o := { serving x false with waiting := some waiting8 }
     Deciding (atSlot o inBreakOrders base.alerts) 0x100240 5 [] outRec o { slot := 3, fresh := true } [] ∧ o.active = some x ∧
       (∃ b, ((atSlot o inBreakOrders base.alerts).order 7).body = some b) ∧
       (∀ w, o.waiting = some w → ¬ Reached (slotTime outRec o { slot := 3, fresh := true } line310 false) w.splice) ∧
       Reached (slotTime outRec o { slot := 3, fresh := true } line310 false) x.ret ∧ x.cursor ≠ none ∧
       ¬ ((∃ k, x.cursor = some (.pad k)) ∨ x.cursor = some .exhausted)) ∧
    ({ order5 .active with abort := true } : Order).abort = true ∧
    ({ active7 with cursor := some .exhausted } : ActiveInsertion).cursor = some .exhausted := by
  refine ⟨⟨deciding_atSlot rfl, rfl, ⟨_, rfl⟩, ?_, ⟨57299, slot_time rfl rfl, by decide⟩, by decide, ?_⟩, rfl, rfl⟩
  · intro w h; cases h; exact not_reached (slot_time rfl rfl) (by decide)
  · rintro (⟨k, h⟩ | h) <;> cases h

/-- R86, R90: the return slot truncates the playlist and makes the unlimited order ARMED again. -/
theorem test_return_slot : after (exec (.slotContentPart line310 false) (toServe { active7 with ret := 57000 } false))
    (fun t => ((t.lane 5).on.map fun o => (o.active.isNone, o.sel.served), (t.order 7).state, (t.clip 9).locks, t.report.gap)) =
      some (some (true, some .network), .armed, 0, 1) := by decide

/-- Orders 7 ACTIVE, with an abort mark where said, and 8 BOUND. -/
def chainOrders (abort : Bool) : Vector Order 256 :=
  (base.orders.set 7 { order5 .active with abort := abort }).set 8 (order5 .bound)

/-- The waiting cue of order 8 reached on the slot, its R not reached and reached, under any insertion of order 7, aborted or
not; and the cue of 3.10 with R = T and no insertion. -/
theorem witness_ChainingAndZeroLengthBreaks :
    (∀ (abort : Bool) (x : ActiveInsertion) (r : Stamp), x.order = 7 →
     let w := { waiting8 with splice := 57000, ret := r }
     let o := { serving x false with waiting := some w }
     let s := atSlot o (chainOrders abort) base.alerts
     ∃ b bw, Deciding s 0x100240 5 [] outRec o { slot := 3, fresh := true } [] ∧ o.active = some x ∧
       (s.order x.order).body = some b ∧ o.waiting = some w ∧ w.order ≠ x.order ∧ (s.order w.order).body = some bw ∧
       (∀ pad, bw.source ≠ .clips [] pad) ∧ slotTime outRec o { slot := 3, fresh := true } line310 false = some 57299 ∧
       (s.order 7).abort = abort ∧ (s.order w.order).abort = false ∧ atOrAfter 57299 w.splice = true) ∧
    (atOrAfter 57299 4000000 = false ∧ atOrAfter 57299 57299 = true ∧ atOrAfter 57299 active7.ret = false) ∧
    (let w := { waiting7 with ret := 57000 }
     ∃ b, Deciding (toSplice w) 0x100240 5 [] outRec (splicing w) { slot := 3, fresh := true } [] ∧ (splicing w).active = none ∧
       (splicing w).waiting = some w ∧ ((toSplice w).order 7).body = some b ∧ (∀ pad, b.source ≠ .clips [] pad) ∧
       slotTime outRec (splicing w) { slot := 3, fresh := true } line310 false = some 57299 ∧
       ((toSplice w).order 7).abort = false ∧ atOrAfter 57299 w.splice = true ∧ atOrAfter 57299 w.ret = true) := by
  refine ⟨?_, by decide, _, deciding_atSlot rfl, rfl, rfl, rfl, (fun _ h => by cases h), slot_time rfl rfl, rfl, by decide,
    by decide⟩
  intro abort x r h
  refine ⟨_, _, deciding_atSlot rfl, rfl, by rw [h]; rfl, rfl, by rw [h]; exact (by decide : (8 : OrderId) ≠ 7), rfl,
    (fun _ h => by cases h), slot_time rfl rfl, rfl, rfl, (by decide : atOrAfter 57299 57000 = true)⟩

/-- R83, R86: the insertion whose order is aborted ends by that on the slot that splices order 8 in, and its order is EMPTY;
R90: a cue of order 8 with R reached there ends at once, with two records. -/
theorem test_chain_causes : after (exec (.slotContentPart line310 false)
      (atSlot { serving active7 false with waiting := some { waiting8 with splice := 57000 } } (chainOrders true) base.alerts))
    (fun t => ((t.lane 5).on.bind fun o => o.active.map ActiveInsertion.order, (t.order 7).state)) = some (some 8, .empty) ∧
    after (exec (.slotContentPart line310 false)
      (atSlot { serving active7 false with waiting := some { waiting8 with splice := 57000, ret := 57299 } } (chainOrders false)
        base.alerts))
    (fun t => ((t.lane 5).on.map fun o => o.active.isNone, (t.order 7).state, (t.order 8).state, t.report.gap)) =
      some (some true, .armed, .armed, 2) := by decide

/-- R85: the chain makes order 8 the active insertion, its first slot an underrun after the flush. -/
theorem test_chain : after (exec (.slotContentPart line310 false)
      (atSlot { serving active7 false with waiting := some { waiting8 with splice := 57000 } } inBreakOrders base.alerts))
    (fun t => ((t.lane 5).on.bind fun o => o.active.map fun x => (x.order, x.timeIn, x.underrun), (t.order 7).state,
      (t.order 8).state)) = some (some (8, 57299, 1), .armed, .active) := by decide

/-- Alert 2 in force, OVERRIDE, on clip 9; alert 3 in force, INTERJECT on label 1FFEh every 3 slots. -/
def twoAlerts : Vector Alert 4 :=
  (base.alerts.set 2 { Alert.reset with
    inForce := true, body := some { zones := 8, mode := .override, clip := 9, duration := 0 } }).set 3
    { Alert.reset with
      inForce := true, body := some { zones := 8, mode := .interject 0x1FFE 3, clip := 9, duration := 0 } }

/-- A stack entry of an alert. -/
def entryOf (a : AlertId) : StackEntry :=
  { id := a, cursor := 3, offset := some 5, lastCount := 15, countdown := 1, due := false, wait := 0, clash := false }

/-- A lane under both alerts, its insertion suspended. -/
def overridden : OnLane :=
  { serving { active7 with suspended := true } false with stack := [entryOf 2, entryOf 3] }

theorem witness_OverrideServesTheAlert : ∃ b c,
    Deciding (atSlot overridden inBreakOrders twoAlerts) 0x100240 5 [] outRec overridden { slot := 3, fresh := true } [] ∧
    effectiveEntry (atSlot overridden inBreakOrders twoAlerts) overridden.stack = some (entryOf 2) ∧
    ((atSlot overridden inBreakOrders twoAlerts).alert 2).body = some b ∧ b.mode = .override ∧
    ((atSlot overridden inBreakOrders twoAlerts).clip b.clip).body = some c ∧ overridden.waiting = none ∧
    overridden.active = some { active7 with suspended := true } ∧ (inBreakOrders[7]).abort = false ∧
    ¬ Reached (slotTime outRec overridden { slot := 3, fresh := true } line310 false) active7.ret ∧
    active7.cursor ≠ some .exhausted ∧ overridden.fetch.queue ≠ [] ∧
    MapsTo (atSlot overridden inBreakOrders twoAlerts) outRec { entry9 with packet := packet 0x02 0x00 0x17 } 0
      { kind := .video, label := 0x102 } :=
  ⟨{ zones := 8, mode := .override, clip := 9, duration := 0 },
    { address := 0x400000, length := 4, first := 900000, labels := [{ kind := .video, label := 0x200 }] },
    deciding_atSlot rfl, by decide, by decide, rfl, by decide, rfl, rfl, by decide, not_reached (slot_time rfl rfl) (by decide),
    by decide, by decide, mapped9 rfl⟩

/-- The same with an empty queue and no insertion, at packet 0 of the clip. -/
theorem witness_OverrideServesTheAlert_underrun :
    let e := { entryOf 2 with cursor := 0 }
    let o := { decidingOn true with stack := [e] }
    Deciding (atSlot o base.orders twoAlerts) 0x100240 5 [] outRec o { slot := 3, fresh := true } [] ∧
    effectiveEntry (atSlot o base.orders twoAlerts) o.stack = some e ∧ o.waiting = none ∧ o.active = none ∧
    o.fetch.queue = [] := ⟨deciding_atSlot rfl, by decide, rfl, rfl, rfl⟩

/-- R127, R89: the alert's last packet is served and its cursor wraps; the insertion passes the slot in shadow. -/
theorem test_override : after (exec (.slotContentPart line310 false) (atSlot overridden inBreakOrders twoAlerts))
    (fun t => ((t.lane 5).on.bind fun o => o.active.map fun x => (x.shadow, x.cursor), (t.alert 2).served,
      (t.lane 5).on.bind fun o => o.stack.head?.map StackEntry.cursor)) = some (some (1, some (.playlist 0 2)), 1, some 0) := by decide

/-- A lane under the INTERJECT alert alone, with packet 0 of clip 9 in its buffer. -/
def interjected : OnLane :=
  { decidingOn true with
    stack := [entryOf 3], clock := .valid anchor310 0
    fetch := { live.fetch with interject := [{ entry9 with packet := packet 0x02 0x00 0x17 }] } }

/-- A slot of the network's own filler: the packet falls due and goes out in its place. -/
theorem witness_InterjectPacketsTakeTheirTurn : ∃ b,
    Deciding (atSlot interjected base.orders twoAlerts) 0x100240 5 [] outRec interjected { slot := 3, fresh := true } [] ∧
    interjected.active = none ∧ interjected.waiting = none ∧ interjected.feed.state = .live ∧
    effectiveEntry (atSlot interjected base.orders twoAlerts) interjected.stack = some (entryOf 3) ∧
    ((atSlot interjected base.orders twoAlerts).alert 3).body = some b ∧ b.mode = .interject 0x1FFE 3 ∧
    packetLabel (line0Packet (BitVec.ofNat 512 0x10FF1F4700000000)) = fillerLabel ∧ (entryOf 3).countdown ≤ 1 ∧
    (∃ q qs, interjected.fetch.interject = q :: qs ∧ q.origin = .clip 9 0) ∧
    ((atSlot interjected base.orders twoAlerts).clip 9).body.isSome = true :=
  ⟨{ zones := 8, mode := .interject 0x1FFE 3, clip := 9, duration := 0 },
    deciding_atSlot rfl, rfl, rfl, rfl, by decide, by decide, rfl, by decide, by decide, ⟨_, _, rfl, rfl⟩, rfl⟩

/-- Not due yet; due with the deadline reached on a packet of the network's video, and one short of it. -/
theorem witness_InterjectPacketsTakeTheirTurn_waiting : ∀ e : StackEntry, e.id = 3 →
    let o := { interjected with stack := [e] }
    (Deciding (atSlot o base.orders twoAlerts) 0x100240 5 [] outRec o { slot := 3, fresh := true } [] ∧ o.active = none ∧
      o.waiting = none ∧ o.feed.state = .live ∧ effectiveEntry (atSlot o base.orders twoAlerts) o.stack = some e ∧
      ((atSlot o base.orders twoAlerts).alert e.id).body =
        some { zones := 8, mode := .interject 0x1FFE 3, clip := 9, duration := 0 }) ∧
    packetLabel (line0Packet line102) = 0x102 ∧ hasClockRef (line0Packet line102) = false ∧ outRec.cueLabel ≠ some 0x102 ∧
    outRec.deadline ≤ 3 ∧ ¬ outRec.deadline ≤ 2 ∧ bearsPayload (line0Packet line102) = true ∧
    outRec.labelMap[0]? = some { kind := .video, label := 0x102 } ∧ ∃ c, o.sel.continuity[0]? = some c := by
  intro e h
  have b : ((atSlot { interjected with stack := [e] } base.orders twoAlerts).alert e.id).body =
      some { zones := 8, mode := .interject 0x1FFE 3, clip := 9, duration := 0 } := by rw [h]; rfl
  refine ⟨⟨deciding_atSlot rfl, rfl, rfl, rfl, ?_, b⟩, by decide, by decide, by decide, by decide, by decide, by decide, rfl,
    _, rfl⟩
  have n : isOverride (atSlot { interjected with stack := [e] } base.orders twoAlerts) e.id = false := by
    unfold isOverride; rw [b]; rfl
  simp [effectiveEntry, n]

/-- R131, R133: the interject packet goes out on 1FFEh with count 0 after 15. -/
theorem test_interject : after (exec (.slotContentPart (BitVec.ofNat 512 0x10FF1F4700000000) false)
      (atSlot interjected base.orders twoAlerts))
    (fun t => (t.upPort.map fun u => (getByte u.data 5, getByte u.data 6),
      (t.lane 5).on.bind fun o => o.stack.head?.map fun e => (e.countdown, e.due, e.lastCount))) =
      some (some (0x1F, 0xFE), some (3, false, 0)) := by decide

/-- A LOST context with an outage record open and nothing in its queue. -/
def lostOn : OnLane :=
  { decidingOn true with
    feed := { state := .lost, lossTimer := none, good := 0, captureSeen := false
              outage := some { start := 77, served := 5, underrun := 1 } } }

/-- With NONE as loss source. A slate or a backup is the same context under another record. -/
theorem witness_LossSourceIsServed :
    Deciding (atSlot lostOn base.orders base.alerts) 0x100240 5 [] outRec lostOn { slot := 3, fresh := true } [] ∧
    lostOn.stack = [] ∧ lostOn.active = none ∧ lostOn.feed.state ≠ .live ∧ lostOn.waiting = none ∧
    outRec.lossSource = .filler := ⟨deciding_atSlot rfl, rfl, rfl, by decide, rfl, rfl⟩

/-- The same with a VALID model, a loss-source run and the packets `q` in its queue. -/
def outage (q : List QueueEntry) : OnLane :=
  { lostOn with
    clock := .valid anchor310 0
    sel := { live.sel with lossRun := some { cursor := 3, offset := none } }
    fetch := { live.fetch with queue := q } }

/-- Lane 5 LOST with a record `r` and a loss-source run. -/
def lossSlot (r : LaneRecord) (q : List QueueEntry) : State :=
  { withOn (withClip (withOn base 40 srcRec timed) 9 4 1) 5 r (outage q) with memReads := [.up 0x100240 (.claim 5)] }

/-- With a slate and an empty queue, a slate and a packet, and a backup in REBASE mode. -/
theorem witness_LossSourceIsServed_queue :
    (∀ r q, Deciding (lossSlot r q) 0x100240 5 [] r (outage q) { slot := 3, fresh := true } [] ∧ (outage q).stack = [] ∧
      (outage q).active = none ∧ (outage q).waiting = none ∧ (outage q).feed.state = .lost ∧
      (outage q).sel.lossRun.isSome = true) ∧
    (outage [entry9]).fetch.queue = entry9 :: [] ∧
    ((lossSlot { outRec with lossSource := .slate 9 } []).clip 9).body.isSome = true ∧
    ((lossSlot { outRec with lossSource := .backup 40 .rebase 2 } []).lane 40).record = some srcRec ∧
    ({ entry9 with origin := .tap 40 3 } : QueueEntry).origin = .tap 40 3 ∧
    MapsTo (lossSlot { outRec with lossSource := .slate 9 } []) outRec { entry9 with packet := packet 0x02 0x00 0x17 } 0
      { kind := .video, label := 0x102 } := by
  refine ⟨fun r q => ⟨⟨rfl, ?_, ?_, rfl⟩, rfl, rfl, rfl, rfl, rfl⟩, rfl, rfl, rfl, rfl, mapped9 rfl⟩ <;>
    simp [lossSlot, State.lane, withOn, State.setLane]

/-- R111, R115: the slate's last packet counts as served and the slate cursor wraps. -/
theorem test_slate : after (exec (.slotContentPart line310 false) (lossSlot { outRec with lossSource := .slate 9 } [entry9]))
    (fun t => (t.lane 5).on.map fun o => (o.sel.lossRun.map LossRun.cursor, o.feed.outage.map fun y => (y.served, y.underrun))) =
      some (some (some 0, some (6, 1))) := by decide

/-- R53, R111: with no run state yet, the first slate packet begins it: the cursor past packet 0, D worked as in 3.10. -/
theorem test_slate_begins : after (exec (.slotContentPart line310 false)
      (withOn (lossSlot { outRec with lossSource := .slate 9 } []) 5 { outRec with lossSource := .slate 9 }
        { outage [entry9] with sel := live.sel }))
    (fun t => (t.lane 5).on.bind fun o => o.sel.lossRun) = some (some { cursor := 1, offset := some 8589091891 }) := by decide

/-- The splice-in of a LIVE order on lane 40, whose tap is placed at its splice slot. -/
theorem witness_TapsFollowTheirSource_splice :
    (let o := { splicing waiting7 with fetch := live.fetch }
     let body : OrderBody :=
       { lane := 5, matchValue := 1, careMask := 1, uses := 0, source := .live 40 .rebase 20, maxLength := 5400000 }
     let s := withOn (atSlot o (base.orders.set 7 { order5 .bound with body := some body }) base.alerts) 40 srcRec src49On
     (s.order 7).body = some body ∧ (s.lane 40).record = some srcRec ∧ (s.lane 40).on = some src49On ∧
       Deciding s 0x100240 5 [] outRec o { slot := 3, fresh := true } [] ∧ outRec.role = .output ∧ o.stack = [] ∧
       o.active = none ∧ o.waiting = some waiting7 ∧
       Reached (slotTime outRec o { slot := 3, fresh := true } line310 false) waiting7.splice ∧
       ¬ Reached (slotTime outRec o { slot := 3, fresh := true } line310 false) waiting7.ret ∧
       o.fetch.source ≠ some (.insertion 7)) := by
  refine ⟨by decide, by simp [withOn_lane], by simp [withOn_lane], ⟨rfl, ?_, ?_, rfl⟩, rfl, rfl, rfl, rfl,
    ⟨57299, slot_time rfl rfl, by decide⟩, not_reached (slot_time rfl rfl) (by decide), by decide⟩ <;>
    · rw [withOn_lane, if_neg (by decide)]
      first
        | exact (deciding_atSlot rfl).record
        | exact (deciding_atSlot rfl).on

/-- Clip video 200h goes out as lane video 102h, with the lane's count 0 after a last count of none (R147). -/
theorem test_served_packet : after (exec (.slotContentPart line310 false) (toServe active7 false))
    (fun t => t.upPort.map fun u => (line0Stamp u.data, (List.range 4).map fun j => getByte u.data (4 + j))) =
      some (some (5000000, [0x47, 0x01, 0x02, 0x10])) := by decide

/-! ## Witnesses: the postings -/

/-- A posting record of the listed fields `(offset, size, value)`. -/
def record (fs : List (Nat × Nat × Nat)) : RecordData := packFields 2048 fs

theorem witness_PostingTakeWorksTheHead : (queued.working = none ∧ queued.queue = 3 :: []) ∧ base.queue = [] := by decide

/-- Line 3 alone faulted, slot 5 next in the queue, and a new go write of slot 3. -/
theorem witness_MemoryFaultCompletesPosting :
    let s := { posted base 4 with queue := [5] }
    s.working = some { slot := 3, granted := 4 } ∧ nextDue s.memReads = some (.posting 3 false, []) ∧ 3 < 4 ∧
      (8#4).getLsbD 3 = true ∧ (∀ m, m < 3 → (8#4).getLsbD m = false) ∧ s.queue = 5 :: [] ∧
      classify s (lineAddr 0x100003C0#36) = .window (256 * (3 : PostSlotId).val + 0xC0) ∧
      (0x0100000000000000#64).getLsbD 56 = true := by decide

/-- A LANE ENABLE of an unconfigured lane is refused. -/
theorem witness_RefusedPostingChangesNothing : Due (posted base 2) 3 2 [] ∧
    after (exec (.laneEnable (record [(0, 1, 63)])) (posted base 2)) (fun t => (t.slot 3).result) = some .badState :=
  ⟨due_posted base 2, by decide⟩

/-- A LANE CONFIGURE record for lane 6, its ring right behind lane 5's, at the bounds of its fields. -/
def configure6 : RecordData :=
  record [(0, 1, 6), (2, 1, 15), (8, 5, 0x100C00), (0x10, 4, 65536), (0x14, 2, 0x1FFE), (0x16, 2, 0xFFFF), (0x18, 4, 900000),
    (0x1C, 4, 2700), (0x20, 2, 10), (0x22, 2, 5000), (0x24, 1, 1), (0x25, 1, 255), (0x26, 2, 45000), (0x30, 1, 1), (0x34, 1, 8),
    (0x36, 2, 0x1FFE)]

/-- Lane 5 configured, clip 9 READY behind the ring of lane 6, and a report ring. -/
def besideLane6 : State :=
  { ring105 0 0 none .stopped with
    lanes := (lane5 live).lanes
    clips := base.clips.set 9
      { body := some { address := 0x100C00 + 192 * 65536, length := 1, first := 0, labels := [] }, locks := 0
        disturbed := false, readFault := false } }

/-- No area meets where none of the four kinds does. -/
theorem meets_none {s : State} {but : Option LaneId} {a n : Nat} (h1 : ¬ Meets s but a n 1) (h2 : ¬ Meets s but a n 2)
    (h3 : ¬ Meets s but a n 3) (h4 : ¬ Meets s but a n 4) (k : Nat) : ¬ Meets s but a n k := by
  match k with
  | 0 => exact id
  | 1 => exact h1
  | 2 => exact h2
  | 3 => exact h3
  | 4 => exact h4
  | _ + 5 => exact id

theorem witness_LoadsSetTheirEntry_laneConfigure :
    let s := posted besideLane6 1
    Due s 3 1 [] ∧ field configure6 0 1 = (6 : LaneId).val ∧ (s.lane 6).on = none ∧ (∀ n, ¬ LaneFieldBad configure6 n) ∧
      ∀ n, ¬ Meets s (some 6) (field configure6 8 5) (192 * field configure6 16 4) n := by
  refine ⟨due_posted _ 1, by decide, by decide, (laneChecks_iff _).1.1 (by decide), meets_none ?_ ?_ ?_ ?_⟩
  · rintro ⟨m, q, -, h, k⟩
    have h' : ((lane5 live).lane m).record = some q := h
    rw [(lane5_record h').2] at k; revert k; decide
  · rintro ⟨b, h, k⟩; cases h; revert k; decide
  · rintro ⟨g, h, k⟩; cases h; revert k; decide
  · rintro ⟨c, b, h, k⟩
    by_cases e : (9 : Nat) = c.val
    · obtain rfl : c = 9 := Fin.ext e.symm
      cases h; revert k; decide
    · change ((base.clips.set 9 _)[c.val]).body = some b at h
      rw [Vector.getElem_set_ne _ _ e] at h
      simp [base, State.reset, Clip.reset] at h

/-- A lane of 64, an ON lane, a ring of 15 slots, and rings that begin one line too low: in lane 5's ring, the control window,
the report ring and a clip; a locked clip, an address that is no multiple of 64, and a report ring of 15 records. -/
theorem witness_LoadsSetTheirEntry_refusals :
    let s := posted besideLane6 1
    63 < field (record [(0, 1, 64)]) 0 1 ∧ (s.lane 5).on.isSome = true ∧
      FirstAt (LaneFieldBad (configure6 &&& ~~~record [(0x10, 4, 2 ^ 32 - 1)] ||| record [(0x10, 4, 15)])) 5 ∧
      FirstAt (Meets s (some 6) 0x100BC0 3072) 1 ∧ Meets s (some 6) 0x1000FFC0 3072 2 ∧ Meets s (some 6) (0x2000000 - 3008) 3072 3 ∧
      Meets s (some 6) (0x100C00 + 192 * 65536 + 128) 3072 4 ∧ ¬ Meets s (some 5) 0x100BC0 3072 1 ∧
      (511 < field (record [(0, 2, 512)]) 0 2 ∧ 0 < ((withClip base 9 4 1).clip 9).locks ∧
        FirstAt (ClipFieldBad (record [(0, 2, 511), (8, 5, 32)])) 2) ∧
      FirstAt (ReportFieldBad (record [(8, 4, 15)])) 2 := by
  refine ⟨by decide, by decide, ((laneChecks_iff _).2 5).1 (by decide), ⟨⟨5, outRec, by decide, rfl, by decide⟩, ?_⟩,
    ⟨0x10000000, rfl, by decide⟩, ⟨_, rfl, by decide⟩, ⟨9, _, rfl, by decide⟩, ?_,
    ⟨by decide, by decide, ((clipChecks_iff _).2 2).1 (by decide)⟩, ((reportChecks_iff _).2 2).1 (by decide)⟩
  · intro m h
    obtain rfl : m = 0 := by omega
    exact id
  rintro ⟨m, q, n, h, -⟩
  have h' : ((lane5 live).lane m).record = some q := h
  exact n (congrArg some (lane5_record h').1)

/-- Table 8-5: a lane enabled with a SLATE under no alert has it as its fetch source and no loss-source run state. -/
theorem test_enable_starts_no_run : after (exec (.laneEnable (record [(0, 1, 5)]))
      (posted { offLane { outRec with lossSource := .slate 9 } with forceList := [] } 2))
    (fun t => (t.lane 5).on.map fun o => (o.fetch.source, o.sel.lossRun)) = some (some (some .loss, none)) := by decide

/-- An OFF lane with a slate under an alert of its zone; a SOURCE lane; a lane with a backup. -/
theorem witness_LaneEnableStartsTheLane :
    (let r := { outRec with lossSource := .slate 9 }
     let s := posted (offLane r) 2
     Due s 3 2 [] ∧ field (record [(0, 1, 5)]) 0 1 = (5 : LaneId).val ∧ (s.lane 5).record = some r ∧ (s.lane 5).on = none ∧
       (∀ c, r.lossSource = .slate c → (s.clip c).body.isSome = true) ∧
       (∀ b m n, r.lossSource = .backup b m n → s.isOnSource b = true) ∧ s.forceList = [2] ∧ s.forceList.Nodup ∧
       (s.alert 2).body = some { zones := 8, mode := .override, clip := 9, duration := 20 } ∧
       (8 : BitVec 16).getLsbD r.zone = true) ∧
    (let s := posted (offLane srcRec) 2
     Due s 3 2 [] ∧ (s.lane 5).record = some srcRec ∧ (s.lane 5).on = none ∧ srcRec.role ≠ .output) ∧
    (let r := { outRec with lossSource := .backup 40 .rebase 20 }
     let s := posted (withOn (offLane r) 40 srcRec live) 2
     Due s 3 2 [] ∧ (s.lane 5).record = some r ∧ (s.lane 5).on = none ∧ (s.lane 40).record = some srcRec ∧
       (s.lane 40).on = some live ∧ ∀ b m n, r.lossSource = .backup b m n → s.isOnSource b = true) := by
  refine ⟨⟨due_posted _ 2, by decide, by decide, by decide, ?_, ?_, rfl, by decide, by decide, by decide⟩,
    ⟨due_posted _ 2, by decide, by decide, by decide⟩, due_posted _ 2, by decide, by decide, by decide, by decide, ?_⟩
  · intro c h; cases h; decide
  · intro b m n h; cases h
  · intro b m n h; cases h; decide

/-- A lane of 64, an unconfigured lane, an ON lane, a slate on an EMPTY clip and a backup that is no ON SOURCE lane; and a lane
under an INTERJECT alert that clashes with its video label. -/
theorem witness_LaneEnableStartsTheLane_refusals :
    63 < field (record [(0, 1, 64)]) 0 1 ∧ ((posted base 2).lane 63).record = none ∧
    ((posted (lane5 live) 2).lane 5).on.isSome = true ∧ ((posted (offLane outRec) 2).clip 77).body = none ∧
    (posted (offLane outRec) 2).isOnSource 40 = false ∧ ∃ en, en ∈ outRec.labelMap ∧ en.label = 0x102 :=
  ⟨by decide, by decide, by decide, by decide, by decide, _, List.mem_cons_self, rfl⟩

/-- R124, R125: the lane enabled stands under the OVERRIDE alert in force, which counts it and is its fetch source. -/
theorem test_enable_joins : after (exec (.laneEnable (record [(0, 1, 5)])) (posted (offLane outRec) 2))
    (fun t => ((t.alert 2).laneCount, (t.lane 5).on.map fun o => (o.fetch.source, o.stack.map StackEntry.id))) =
      some (((posted (offLane outRec) 2).alert 2).laneCount + 1, some (some (.alert 2), [2])) := by decide

/-- Without and with an active insertion and a waiting cue, and a SOURCE lane that nothing names. -/
theorem witness_LaneDisableStopsTheLane :
    (let s := posted (lane5 live) 3
     Due s 3 3 [] ∧ field (record [(0, 1, 5)]) 0 1 = (5 : LaneId).val ∧ (s.lane 5).record = some outRec ∧
       (s.lane 5).on = some live ∧ outRec.role = .output ∧ live.active = none ∧ live.waiting = none) ∧
    (let o := { live with active := some active7, waiting := some waiting8 }
     let s := posted inBreak 3
     Due s 3 3 [] ∧ (s.lane 5).record = some outRec ∧ (s.lane 5).on = some o ∧ o.active = some active7 ∧
       o.waiting = some waiting8 ∧ active7.order ≠ waiting8.order) ∧
    (let s := posted (withOn base 40 srcRec live) 3
     Due s 3 3 [] ∧ (s.lane 40).record = some srcRec ∧ (s.lane 40).on = some live ∧ srcRec.role = .source ∧
       ¬ ∃ i b mode lag, ((s.order i).state = .bound ∨ (s.order i).state = .active) ∧ (s.order i).body = some b ∧
         b.source = .live 40 mode lag) := by
  refine ⟨⟨due_posted _ 3, by decide, by decide, by decide, rfl, rfl, rfl⟩,
    ⟨due_posted _ 3, by decide, by decide, rfl, rfl, by decide⟩, due_posted _ 3, by decide, by decide, rfl, ?_⟩
  rintro ⟨i, b, mode, lag, h, -⟩
  have e : (posted (withOn base 40 srcRec live) 3).order i = Order.reset := base_order i
  rw [e] at h; rcases h with h | h <;> cases h

/-- A lane of 64, an OFF lane, and a SOURCE lane named as the backup of an ON lane and as the source of a BOUND LIVE order. -/
theorem witness_LaneDisableStopsTheLane_refusals :
    63 < field (record [(0, 1, 64)]) 0 1 ∧ ((posted base 3).lane 5).on = none ∧
    (let r := { outRec with lossSource := .backup 40 .rebase 20 }
     let s := posted (withOn (withOn base 5 r live) 40 srcRec live) 3
     (s.lane 40).record = some srcRec ∧ (s.lane 40).on = some live ∧ srcRec.role = .source ∧ (s.lane 5).record = some r ∧
       (s.lane 5).on = some live ∧ r.role = .output ∧ r.lossSource = .backup 40 .rebase 20) ∧
    ({ order5 .bound with body := some live40 } : Order).body = some live40 := by decide

/-- R4: a SOURCE lane that an ON lane names as its backup stays ON, IN_USE. -/
theorem test_disable_in_use : after (exec (.laneDisable (record [(0, 1, 40)]))
      (posted (withOn (withOn base 5 { outRec with lossSource := .backup 40 .rebase 20 } live) 40 srcRec live) 3))
    (fun t => ((t.slot 3).result, (t.lane 40).on.isSome)) = some (.inUse, true) := by decide

/-- A CLIP DECLARE record for clip 511 that ends at the end of the address space. -/
def declare511 : RecordData :=
  record [(0, 2, 511), (8, 5, 2 ^ 36 - 192), (0x18, 5, 2 ^ 33 - 1), (0x20, 1, 1), (0x24, 1, 1), (0x26, 2, 0)]

theorem witness_LoadsSetTheirEntry_clipDeclare :
    let s := posted besideLane6 4
    Due s 3 4 [] ∧ field declare511 0 2 = (511 : ClipId).val ∧ (s.clip 511).locks = 0 ∧
      (∀ n, ¬ ClipFieldBad declare511 n) ∧
      ∀ n, n ≠ 4 → ¬ Meets s none (field declare511 8 5) (192 * (field declare511 16 3 + 1)) n := by
  refine ⟨due_posted _ 4, by decide, by decide, (clipChecks_iff _).1.1 (by decide), ?_⟩
  rintro (_ | _ | _ | _ | _ | n) hn k
  · exact k
  · obtain ⟨m, q, -, h, k⟩ := k
    have h' : ((lane5 live).lane m).record = some q := h
    rw [(lane5_record h').2] at k; revert k; decide
  · obtain ⟨b, h, k⟩ := k; cases h; revert k; decide
  · obtain ⟨g, h, k⟩ := k; cases h; revert k; decide
  · exact hn rfl
  · exact k

/-- An id of 512; an EMPTY entry; a locked one; and a READY unlocked one that an order names. -/
theorem witness_ClipClearEmptiesTheEntry :
    (Due (posted base 5) 3 5 [] ∧ 511 < field (record [(0, 2, 512)]) 0 2) ∧
    (field (record [(0, 2, 511)]) 0 2 = (511 : ClipId).val ∧ ((posted base 5).clip 511).body = none) ∧
    (((posted (withClip base 9 4 1) 5).clip 9).body.isSome = true ∧ 0 < ((posted (withClip base 9 4 1) 5).clip 9).locks) ∧
    (let s := posted (withClip inBreak 9 4 0) 5
     field (record [(0, 2, 9)]) 0 2 = (9 : ClipId).val ∧ (s.clip 9).body.isSome = true ∧ (s.clip 9).locks = 0 ∧
       ∃ b, (s.order 7).body = some b ∧ 9 ∈ b.clips) := by
  refine ⟨⟨due_posted _ 5, by decide⟩, by decide, by decide, by decide, by decide, by decide, ?_⟩
  exact ⟨_, rfl, by decide⟩

/-- An ORDER LOAD record of order 255 for lane 5: clip 9, padded with it, the longest maximum length. -/
def load255 : RecordData :=
  record [(0, 1, 255), (1, 1, 5), (2, 1, 255), (4, 4, 1), (8, 4, 1), (0xC, 4, 54000000), (0x10, 1, 1), (0x12, 2, 9), (0x20, 2, 9)]

theorem witness_LoadsSetTheirEntry_orderLoad :
    let s := posted (withClip (lane5 live) 9 4 0) 6
    Due s 3 6 [] ∧ field load255 0 1 = (255 : OrderId).val ∧ (s.order 255).state ≠ .bound ∧ (s.order 255).state ≠ .active ∧
      (∀ n, ¬ OrderFieldBad s load255 n) ∧ (orderBodyOf load255).source = .clips [9] (some 9) ∧
      (s.clip 9).body.isSome = true :=
  ⟨due_posted _ 6, by decide, by decide, by decide, (orderChecks_iff _ _).1.1 (by decide), by decide, by decide⟩

/-- An ACTIVE order; a lane that is not configured; a playlist, and a pad alone, on a clip that is not READY. -/
theorem witness_LoadsSetTheirEntry_orderLoad_refusals :
    ((posted inBreak 6).order 7).state = .active ∧ FirstAt (OrderFieldBad (posted base 6) load255) 2 ∧
    ((posted (lane5 live) 6).clip 9).body = none ∧
    (let x := record [(0, 1, 255), (1, 1, 5), (0xC, 4, 90000), (0x10, 1, 1), (0x12, 2, 9), (0x20, 2, 77)]
     let s := posted (withClip (lane5 live) 9 4 0) 6
     (∀ n, ¬ OrderFieldBad s x n) ∧ (orderBodyOf x).source = .clips [9] (some 77) ∧ (s.clip 9).body.isSome = true ∧
       (s.clip 77).body = none) :=
  ⟨by decide, ((orderChecks_iff _ _).2 2).1 (by decide), by decide, (orderChecks_iff _ _).1.1 (by decide), by decide⟩

/-- An ARMED order, the ACTIVE order 7 and the BOUND order 8 of lane 5. -/
theorem witness_OrderCancelActsByState :
    (let s := posted { base with orders := base.orders.set 0 (order5 .armed) } 7
     Due s 3 7 [] ∧ field (record [(0, 1, 0)]) 0 1 = (0 : OrderId).val ∧ (s.order 0).state = .armed) ∧
    (let s := posted inBreak 7
     Due s 3 7 [] ∧ field (record [(0, 1, 7)]) 0 1 = (7 : OrderId).val ∧ (s.order 7).state = .active ∧
       (s.order 7).abort = false ∧ field (record [(0, 1, 8)]) 0 1 = (8 : OrderId).val ∧ (s.order 8).state = .bound ∧
       ∃ b o w, (s.order 8).body = some b ∧ (s.lane b.lane).on = some o ∧ o.waiting = some w ∧ w.order = 8 ∧
         (s.lane b.lane).record = some outRec ∧ ∀ y, o.active = some y → y.order ≠ 8) := by
  refine ⟨⟨due_posted _ 7, by decide, by decide⟩, due_posted _ 7, by decide, by decide, by decide, by decide, by decide, ?_⟩
  exact ⟨{ lane := 5, matchValue := 1, careMask := 1, uses := 0, source := .clips [9] none, maxLength := 5400000 },
    { live with active := some active7, waiting := some waiting8 }, waiting8, by decide, by decide, rfl, rfl, by decide,
    fun y h => by cases h; decide⟩

/-- R94, R63: the order of a primed waiting cue cancelled, the lane has no fetch source left. -/
theorem test_cancel_unprimes : after (exec (.orderCancel (record [(0, 1, 8)]))
      (posted { lane5 { live with
          waiting := some waiting8, fetch := { live.fetch with source := some (.insertion 8), queue := [entry9] } } with
        orders := base.orders.set 8 (order5 .bound) } 7))
    (fun t => ((t.lane 5).queueGen, (t.lane 5).on.map fun o => (o.fetch.source, o.fetch.queue.length))) =
      some (1, some (none, 0)) := by decide

/-- An EMPTY order, and an ACTIVE one already marked. -/
theorem witness_OrderCancelActsByState_refusals :
    ((posted base 7).order 0).state = .empty ∧
    (let s := posted { base with orders := chainOrders true } 7
     (s.order 7).state = .active ∧ (s.order 7).abort = true) := by decide

/-- Lane 5 LIVE with the anchor of 3.10 and a decided stamp, order 7 ARMED, clip 9 READY. -/
def toSchedule : State :=
  { withClip (lane5 { live with
      track := { live.track with prevStamp := some 27704 }, clock := .valid anchor310 0 }) 9 4 0 with
    orders := base.orders.set 7 (order5 .armed) }

/-- With the posting's splice time and duration, and immediate. -/
theorem witness_ScheduleBindsTheOrder : ∃ r o b,
    let s := posted toSchedule 8
    Due s 3 8 [] ∧ (s.lane 5).record = some r ∧ (s.lane 5).on = some o ∧ r.role = .output ∧ o.clock.isValid = true ∧
      o.waiting = none ∧ (s.order 7).state = .armed ∧ (s.order 7).body = some b ∧ b.lane = 5 ∧ orderReady s b = true ∧
      (let x := record [(0, 1, 5), (1, 1, 7), (3, 1, 1), (8, 5, 57000), (16, 5, 2700000)]
       (∀ n, ¬ ScheduleFieldBad x n) ∧ field x 0 1 = (5 : LaneId).val ∧ field x 1 1 = (7 : OrderId).val ∧
         (if field x 2 1 = 1 then presentation o.clock r.playDelay o.track.prevStamp
           else some (BitVec.ofNat 33 (field x 8 5))) = some 57000) ∧
      (let x := record [(0, 1, 5), (1, 1, 7), (2, 1, 1)]
       (∀ n, ¬ ScheduleFieldBad x n) ∧
         (if field x 2 1 = 1 then presentation o.clock r.playDelay o.track.prevStamp
           else some (BitVec.ofNat 33 (field x 8 5))) = some 40725) :=
  ⟨outRec, { live with track := { live.track with prevStamp := some 27704 }, clock := .valid anchor310 0 },
    { lane := 5, matchValue := 1, careMask := 1, uses := 0, source := .clips [9] none, maxLength := 5400000 },
    due_posted _ 8, by decide, by decide, by decide, by decide, by decide, by decide, by decide, by decide, by decide,
    ⟨(scheduleChecks_iff _).1.1 (by decide), by decide⟩, ⟨(scheduleChecks_iff _).1.1 (by decide), by decide⟩⟩

/-- A mode byte of 2, an OFF lane, an order that is not ARMED, and an order whose clip is EMPTY. -/
theorem witness_ScheduleBindsTheOrder_refusals :
    FirstAt (ScheduleFieldBad (record [(2, 1, 2)])) 3 ∧ ((posted base 8).lane 5).on = none ∧
    ((posted toSchedule 8).order 0).state ≠ .armed ∧
    orderReady { posted toSchedule 8 with clips := base.clips }
      { lane := 5, matchValue := 1, careMask := 1, uses := 0, source := .clips [9] none, maxLength := 5400000 } = false :=
  ⟨((scheduleChecks_iff _).2 3).1 (by decide), by decide⟩

/-- R95: an immediate SCHEDULE of a lane without a decided stamp is BAD_STATE; of an order that is EMPTY, IN_USE. -/
theorem test_schedule_refusals :
    after (exec (.schedule (record [(0, 1, 5), (1, 1, 7), (2, 1, 1)]))
      (posted { withClip (lane5 { live with clock := .valid anchor310 0 }) 9 4 0 with orders := toSchedule.orders } 8))
      (fun t => (t.slot 3).result) = some .badState ∧
    after (exec (.schedule (record [(0, 1, 5), (1, 1, 0), (8, 5, 57000)])) (posted toSchedule 8)) (fun t => (t.slot 3).result) =
      some .inUse := by decide

/-- An id of 4, an alert in force, an empty zone set, and a clip that is EMPTY. -/
theorem witness_AlertStartPutsInForce_refusals :
    3 < field (record [(0, 1, 4)]) 0 1 ∧ ((posted alertOver 9).alert 2).inForce = true ∧
    FirstAt (AlertFieldBad (record [(0, 1, 3), (4, 2, 9)])) 3 ∧
    (let x := record [(0, 1, 3), (2, 2, 8), (4, 2, 9)]
     (∀ n, ¬ AlertFieldBad x n) ∧ (posted base 9).clipReady (alertBodyOf x).clip = false) :=
  ⟨by decide, by decide, ((alertChecks_iff _).2 3).1 (by decide), (alertChecks_iff _).1.1 (by decide), by decide⟩

theorem witness_AlertStartPutsInForce :
    let x := record [(0, 1, 3), (1, 1, 1), (2, 2, 8), (4, 2, 9), (6, 2, 0x1FFE), (8, 1, 1), (0xC, 4, 3600000)]
    let s := posted (withClip (lane5 live) 9 4 0) 9
    Due s 3 9 [] ∧ field x 0 1 = (3 : AlertId).val ∧ (s.alert 3).inForce = false ∧ (∀ n, ¬ AlertFieldBad x n) ∧
      s.clipReady (alertBodyOf x).clip = true ∧
      ((s.lane 5).record = some outRec ∧ (s.lane 5).on = some live ∧ outRec.role = .output ∧
        (alertBodyOf x).zones.getLsbD outRec.zone = true) :=
  ⟨due_posted _ 9, by decide, by decide, (alertChecks_iff _).1.1 (by decide), by decide, by decide, by decide, rfl, by decide⟩

/-- An id of 4, an IDLE alert, an alert in force. -/
theorem witness_AlertEndEndsTheAlert :
    let s := posted alertOver 10
    Due s 3 10 [] ∧ 3 < field (record [(0, 1, 4)]) 0 1 ∧
      (field (record [(0, 1, 3)]) 0 1 = (3 : AlertId).val ∧ (s.alert 3).inForce = false) ∧
      (field (record [(0, 1, 2)]) 0 1 = (2 : AlertId).val ∧ (s.alert 2).inForce = true ∧
        (s.alert 2).body = some { zones := 8, mode := .override, clip := 9, duration := 20 }) :=
  ⟨due_posted _ 10, by decide, by decide, by decide⟩

/-- A REPORT SETUP record at the bounds of its fields, its ring right behind lane 5's. -/
def setup16 : RecordData := record [(0, 5, 0x100C00), (8, 4, 16), (0xC, 1, 15), (0xE, 2, 1000), (0x10, 1, 1)]

theorem witness_LoadsSetTheirEntry_reportSetup :
    let s := posted (withClip (lane5 live) 9 4 0) 11
    Due s 3 11 [] ∧ (∀ n, ¬ ReportFieldBad setup16 n) ∧
      ∀ n, n ≠ 3 → ¬ Meets s none (field setup16 0 5) (32 * field setup16 8 4) n := by
  refine ⟨due_posted _ 11, (reportChecks_iff _).1.1 (by decide), ?_⟩
  rintro (_ | _ | _ | _ | _ | n) hn k
  · exact k
  · obtain ⟨m, q, -, h, k⟩ := k
    have h' : ((lane5 live).lane m).record = some q := h
    rw [(lane5_record h').2] at k; revert k; decide
  · obtain ⟨b, h, k⟩ := k; cases h; revert k; decide
  · exact hn rfl
  · obtain ⟨c, b, h, k⟩ := k
    have h' : ((withClip (lane5 live) 9 4 0).clip c).body = some b := h
    obtain ⟨-, h1, h2⟩ := withClip_body rfl h'
    rw [h1, h2] at k; revert k; decide
  · exact k

/-- The clip mark clear and set. -/
theorem witness_CountersClearClearsMarkedLanes : Due (posted base 12) 3 12 [] ∧
    field (record [(0, 8, 2 ^ 63)]) 8 1 ≤ 1 ∧ field (record [(0, 8, 1), (8, 1, 1)]) 8 1 ≤ 1 :=
  ⟨due_posted _ 12, by decide, by decide⟩

theorem witness_ResetsEmptyThePart : Due (posted { base with queue := [11] } 15) 3 15 [] := due_posted _ 15

/-! ## Witnesses: the part's own events, timers, packets and time -/

/-- The context of lane 5 serving its slate of clip 9 and filling an interject buffer from it. -/
def fetching (last : Option Bool) (n : Nat) : OnLane :=
  { live with
    fetch :=
      { source := some .loss, cursor := some (.loop 9 3 false), queue := List.replicate n entry9, interject := []
        interjectCursor := some { clip := 9, packet := 0, fresh := true }, lastWasInterject := last } }

/-- That lane, with the scan position at 63: it is the seventh lane looked at. -/
def toFetch (last : Option Bool) (n : Nat) : State := { withClip (lane5 (fetching last n)) 9 4 0 with scanPos := 63 }

theorem toFetch_on (last : Option Bool) (n : Nat) : ((toFetch last n).lane 5).on = some (fetching last n) := by
  have e : (toFetch last n).lane 5 = (lane5 (fetching last n)).lane 5 := rfl
  rw [e, lane5, withOn_lane]; rfl

/-- Both kinds to make, the prefetch first; the interject fetch in its turn; a full queue; a read already waiting. -/
theorem witness_FetchScanIssuesTheNext :
    ({ base with fetchWait := some (fetch5 false (.clip 9 0), 1) } : State).fetchWait.isSome = true ∧
    (∃ f, (toFetch none 7).fetchWait = none ∧ 6 < 64 ∧ 5 = (toFetch none 7).scanPos + Fin.ofNat 64 6 ∧
      (∀ m, m < 6 → prefetchToMake (toFetch none 7) ((toFetch none 7).scanPos + Fin.ofNat 64 m) = none ∧
        interjectToMake (toFetch none 7) ((toFetch none 7).scanPos + Fin.ofNat 64 m) = none) ∧
      prefetchToMake (toFetch none 7) 5 = some f ∧ ((toFetch none 7).lane 5).on = some (fetching none 7) ∧
      (fetching none 7).fetch.lastWasInterject ≠ some false) ∧
    (∃ f, interjectToMake (toFetch (some false) 7) 5 = some f ∧
      (fetching (some false) 7).fetch.lastWasInterject = some false) ∧
    prefetchToMake (toFetch none 8) 5 = none ∧
    (((toFetch none 7).lane 5).record = some outRec ∧ outRec.role = .output ∧ (base.lane 0).on = none ∧
      ((tapSlot .waiting).lane 40).record = some srcRec ∧ ((tapSlot .waiting).lane 40).on = some src49On ∧
      srcRec.role = .source) := by
  refine ⟨rfl, ⟨(.clip 9 3, 0x400000 + 192 * 3, false, .loop 9 0 false), rfl, by decide, by decide, by decide, by decide,
    toFetch_on none 7, by decide⟩, ⟨(.clip 9 0, 0x400000, true, { clip := 9, packet := 1, fresh := false }), by decide, rfl⟩,
    by decide, by decide, rfl, rfl, by simp [tapSlot, withOn_lane], by simp [tapSlot, withOn_lane], rfl⟩

/-- An insertion at the last packet of its last playlist clip, padded and not, and at the last packet of its pad. -/
theorem witness_FetchScanIssuesTheNext_clips :
    (let body : OrderBody := { live40 with source := .clips [9] (some 9) }
     let s := { withClip base 9 4 1 with orders := base.orders.set 7 { order5 .active with body := some body } }
     (s.order 7).body = some body ∧ ([9] : List ClipId)[0]? = some 9 ∧ (s.clip 9).body.isSome = true ∧
       nextFetch s (.insertion 7 (.playlist 0 3) false) =
         some (.clip 9 3, 0x400000 + 192 * 3, false, .insertion 7 (.pad 0) false) ∧
       nextFetch s (.insertion 7 (.pad 3) false) =
         some (.clip 9 3, 0x400000 + 192 * 3, false, .insertion 7 (.pad 0) false)) ∧
    (let s := { withClip base 9 4 1 with orders := base.orders.set 7 (order5 .active) }
     nextFetch s (.insertion 7 (.playlist 0 3) false) =
       some (.clip 9 3, 0x400000 + 192 * 3, false, .insertion 7 .exhausted false)) := by decide

/-- Lane 5 under alert 3, INTERJECT, at the last packet of clip 9, whose fetch is the next data to return. -/
def interjectFetch : State :=
  { withClip (lane5 { live with stack := [{ entryOf 3 with cursor := 3 }] }) 9 4 1 with
    alerts := twoAlerts, memReads := [.fetch (fetch5 true (.clip 9 3)) true] }

/-- A faulted interject fetch with no alert on the lane, and one under an alert. -/
theorem witness_FetchCompleteJoinsTheQueue_fault :
    (let s := { fullQueue with memReads := [.fetch (fetch5 true (.clip 9 0)) true] }
     (s.lane 5).on = some fullQueueOn ∧ effectiveEntry s fullQueueOn.stack = none) ∧
    (let s := interjectFetch
     nextDue s.memReads = some (.fetch (fetch5 true (.clip 9 3)) true, []) ∧
       (s.lane 5).on = some { live with stack := [{ entryOf 3 with cursor := 3 }] } ∧
       (fetch5 true (.clip 9 3)).gen = (s.lane 5).interjectGen ∧ (1#3 : BitVec 3) ≠ 0 ∧
       effectiveEntry s [{ entryOf 3 with cursor := 3 }] = some { entryOf 3 with cursor := 3 } ∧
       (s.clip 9).body.isSome = true) := by decide

/-- R73, R134: the faulted fetch marks the alert and the clip, and the cursor wraps past the clip's last packet. -/
theorem test_interject_fault : after (exec (.fetchComplete 0 1) interjectFetch)
    (fun t => ((t.alert 3).fetchFault, (t.clip 9).readFault, (t.lane 5).flag .fetchFault,
      (t.lane 5).on.map fun o => o.stack.map StackEntry.cursor)) = some (true, true, true, some [0]) := by decide

/-- A completion for an OFF lane, one from before a reset, one of an older generation; and one that joins each buffer. -/
theorem witness_FetchCompleteJoinsTheQueue :
    nextDue fullQueue.memReads = some (.fetch (fetch5 false (.clip 9 7)) true, []) ∧ (base.lane 5).on = none ∧
    { fetch5 false (.clip 9 7) with dead := true }.dead = true ∧
    (1#8 ≠ (fullQueue.lane 5).queueGen) ∧
    ((fullQueue.lane 5).on = some fullQueueOn ∧ (fetch5 false (.clip 9 7)).dead = false ∧
      (fetch5 false (.clip 9 7)).interject = false ∧ (fetch5 false (.clip 9 7)).gen = (fullQueue.lane 5).queueGen) ∧
    (let s := { fullQueue with memReads := [.fetch (fetch5 true (.clip 9 0)) true] }
     nextDue s.memReads = some (.fetch (fetch5 true (.clip 9 0)) true, []) ∧ (fetch5 true (.clip 9 0)).interject = true ∧
       (fetch5 true (.clip 9 0)).gen = (s.lane 5).interjectGen ∧ (4#3 : BitVec 3) ≠ 0 ∧
       (fetch5 true (.clip 9 0)).origin = .clip 9 0) := by
  exact ⟨rfl, by decide, rfl, by decide, ⟨by decide, rfl, rfl, by decide⟩, by decide⟩

/-- A record for the tests. -/
def lostRecord : AsRun :=
  { kind := .feedLost, lane := 5, flags := 0, order := 0, firstClip := 0xFFFF, event := 0, timeIn := 1, timeOut := 0, served := 0
    underrun := 0, ms := 2 }

/-- The ring of 10.5 with one record waiting, at odd and even places, W at the end, and full. -/
theorem witness_RecordWritesFillTheRing_issue :
    (let s := { ring105 15 2 none (.running 0) with report := { (ring105 15 2 none (.running 0)).report with queue := [lostRecord] } }
     s.report.setup.isSome = true ∧ s.report.queue = lostRecord :: [] ∧ s.report.flight = none ∧
       (s.report.w + 16 - s.report.h) % 16 ≠ 15) ∧
    ((ring105 1 2 none (.running 0)).report.w + 16 - (ring105 1 2 none (.running 0)).report.h) % 16 = 16 - 1 ∧
    base.report.setup = none ∧ (ring105 1 2 none (.running 0)).report.queue = [] := by decide

/-- Table 12-8: the record of FEED_LOST at an odd place fills the high half of its line, and only that half is enabled. -/
theorem test_record_line : after (exec .recordWriteIssue
      { ring105 15 2 none (.running 0) with report := { (ring105 15 2 none (.running 0)).report with queue := [lostRecord] } })
    (fun t => t.report.flight.map fun x => [field x.data 32 1, field x.data 33 1, field x.data 42 5, field x.data 60 4,
      field x.data 0 32, x.enables.toNat]) = some (some [6, 5, 1, 2, 0, 0xFFFFFFFF00000000]) := by decide

/-- A write of a record in flight at place 15, the granted and abandoned marks as given. -/
def inFlight105 (abandoned : Bool) : State :=
  { ring105 15 15 none .stopped with
    report := { (ring105 15 15 none .stopped).report with
      gap := 65534
      queue := [lostRecord]
      flight := some
        { kind := .feedLost, gap := 3, addr := 0x20001C0, data := 0, enables := 0xFFFFFFFF00000000, granted := true
          abandoned := abandoned } } }

theorem witness_RecordWritesFillTheRing_completion :
    (let s := inFlight105 false
     s.report.orphans = 0 ∧ s.report.setup.isSome = true ∧ s.report.flight.isSome = true ∧ s.report.unread = 0 ∧
       s.report.w = 15) ∧
    ((inFlight105 true).report.orphans = 0 ∧ (inFlight105 true).report.flight.map RecordWrite.abandoned = some true) ∧
    { (inFlight105 true).report with orphans := 1 }.orphans = 0 + 1 := by decide

/-- The record of 10.5 written at place 15: W wraps to 0, the urgent position is 15, the timer runs, the line is asserted. -/
theorem test_record_write_wraps : after (exec (.recordWriteComplete false) (inFlight105 false))
    (fun t => (t.report.w, t.report.urgentPos, t.report.timer, t.report.attention)) =
      some (0, some 15, .running 0, true) := by decide

theorem witness_FailedRecordWriteKeepsGaps :
    let s := inFlight105 false
    s.report.orphans = 0 ∧ s.report.setup.isSome = true ∧
      s.report.flight.map (fun x => (x.granted, x.abandoned)) = some (true, false) ∧
      s.report.queue = lostRecord :: [] ∧ s.report.unread ≠ 16 - 1 := by decide

/-- The gap count 65,534 and the carried 3 and 1 are held at 65,535. -/
theorem test_failed_record_write : after (exec (.recordWriteComplete true) (inFlight105 false))
    (fun t => (t.report.w, t.report.gap, t.report.flight.isNone)) = some (15, 65535, true) := by decide

/-- Lane 5 with a VALID model captured at millisecond 5, at the millisecond `now`. -/
def staleAt (now : Millis) : State := { lane5 { live with clock := .valid anchor310 5 } with stationMs := now }

/-- Past the stale limit of 100, across the wrap too, and exactly at it. -/
theorem witness_StaleAndCoalesceTimersExpire_stale : ((staleAt 106).lane 5).record = some outRec ∧
    ((staleAt 106).lane 5).on = some { live with clock := .valid anchor310 5 } ∧
    outRec.staleLimit < ((staleAt 106).stationMs - 5).toNat ∧
    (∀ r o an cap, ((staleAt 105).lane 5).record = some r → ((staleAt 105).lane 5).on = some o → o.clock = .valid an cap →
      ((staleAt 105).stationMs - cap).toNat ≤ r.staleLimit) := by
  refine ⟨by decide, by decide, by decide, ?_⟩
  intro r o an cap h k e
  have h' : ((lane5 { live with clock := .valid anchor310 5 }).lane 5).record = some r := h
  have k' : ((lane5 { live with clock := .valid anchor310 5 }).lane 5).on = some o := k
  obtain ⟨-, rfl⟩ := lane5_record h'
  obtain ⟨-, rfl⟩ := lane5_on k'
  cases e; decide

theorem test_stale_at_2_7 : after (exec (.staleTimerExpiry 5) (staleAt 106)) (fun t => ((t.lane 5).count .stale,
    (t.lane 5).on.map fun o => o.clock.isStale)) = some (1, some true) := by decide

/-- The context of a lane whose loss timer runs from 0, in a feed state. -/
def losing (st : FeedState) : OnLane :=
  { live with feed := { state := st, lossTimer := some 0, good := 1, captureSeen := false, outage := none } }

theorem witness_LossTimerTakesTheFeedToLost :
    (let s := { lane5 (losing .live) with stationMs := 51 }
     (s.lane 5).record = some outRec ∧ (s.lane 5).on = some (losing .live) ∧ (losing .live).feed.lossTimer = some 0 ∧
       outRec.lossLimit < (s.stationMs - 0).toNat ∧ (losing .live).feed.state = .live) ∧
    (let s := { lane5 (losing .recovering) with stationMs := 51 }
     (s.lane 5).record = some outRec ∧ (s.lane 5).on = some (losing .recovering) ∧
       (losing .recovering).feed.lossTimer = some 0 ∧ outRec.lossLimit < (s.stationMs - 0).toNat ∧
       (losing .recovering).feed.state = .recovering) := by decide

/-- At the loss limit, in LOST, and on an OFF lane the expiry is not due. -/
theorem witness_LossTimerTakesTheFeedToLost_undue :
    (∀ st : FeedState, ∀ now : Millis, (now = 50 ∨ st = .lost) → ∀ r o start,
      (({ lane5 (losing st) with stationMs := now } : State).lane 5).record = some r →
      (({ lane5 (losing st) with stationMs := now } : State).lane 5).on = some o → o.feed.lossTimer = some start →
      o.feed.state = .lost ∨ (now - start).toNat ≤ r.lossLimit) ∧ (base.lane 5).on = none := by
  refine ⟨?_, by decide⟩
  intro st now h r o start hr ho ht
  have hr' : ((lane5 (losing st)).lane 5).record = some r := hr
  have ho' : ((lane5 (losing st)).lane 5).on = some o := ho
  obtain ⟨-, rfl⟩ := lane5_record hr'
  obtain ⟨-, rfl⟩ := lane5_on ho'
  cases ht
  rcases h with rfl | rfl
  · right; decide
  · left; rfl

/-- R63: the loss of the feed selects the slate as fetch source and flushes the queue. -/
theorem test_loss_selects : after (exec (.lossTimerExpiry 5)
      { withOn (withClip base 9 4 1) 5 { outRec with lossSource := .slate 9 } (losing .live) with stationMs := 51 })
    (fun t => ((t.lane 5).queueGen, (t.lane 5).on.map fun o => (o.fetch.source, o.sel.lossRun))) =
      some (1, some (some .loss, none)) := by decide

/-- At its loss limit of 50 the timer has not expired; at 51 it has. -/
theorem test_loss_timer : after (exec (.lossTimerExpiry 5) { lane5 (losing .live) with stationMs := 50 })
      (fun t => (t.lane 5).on.map fun o => o.feed.state) = some (some .live) ∧
    after (exec (.lossTimerExpiry 5) { lane5 (losing .live) with stationMs := 51 })
      (fun t => (t.lane 5).on.map fun o => o.feed.state) = some (some .lost) := by decide

theorem witness_AlertDurationEndsTheAlert :
    ((alertOver.alert 2).body = some { zones := 8, mode := .override, clip := 9, duration := 20 } ∧
      (alertOver.alert 2).timer = true ∧ 20 < (alertOver.stationMs - (alertOver.alert 2).start).toNat) ∧
    (∀ b, (alertOver.alert 3).body = some b → (alertOver.alert 3).timer = true →
      (alertOver.stationMs - (alertOver.alert 3).start).toNat ≤ b.duration) := by
  refine ⟨by decide, ?_⟩
  intro b h
  have : (alertOver.alert 3).body = none := by decide
  rw [this] at h; cases h

theorem witness_StaleAndCoalesceTimersExpire_coalesce :
    (let s := { ring105 2 0 none (.running 1002) with stationMs := 1053 }
     s.report.setup.isSome = true ∧ s.report.timer = .running 1002 ∧ 50 < (s.stationMs - 1002).toNat ∧ 0 < s.report.unread) ∧
    (∀ g start, base.report.setup = some g → base.report.timer = .running start →
      (base.stationMs - start).toNat ≤ g.coalesce) := by
  refine ⟨by decide, ?_⟩
  intro g start h; cases h

theorem witness_RefreshKeepsTheRelation : anchor310.clock < clockModulus ∧
    arrivalDiff 27704 anchor310.stamp + arrivalDiff 5000000 27704 = arrivalDiff 5000000 anchor310.stamp := by decide

theorem witness_RewritesChangeTheirBitsOnly : 183 + 5 ≤ 188 := by decide

theorem witness_ContinuityRunsUnbroken : entry88.last = some 9 ∧ entry88.pending = true ∧
    ∀ i (h : i < [14#4, 15#4, 0#4].length), [14#4, 15#4, 0#4][i] = 14#4 + BitVec.ofNat 4 i := by decide

/-! ## More commands on small states -/

/-- 9.8: slot 9's PART RESET drops slot 11, PENDING, and completes OK; slot 3's result stands. -/
theorem test_part_reset_drops : after
    (exec (.partReset 0)
      (let s := { posted base 15 with queue := [11] }
       { s with slots := s.slots.set 11 { PostSlot.reset with state := .pending, kind := 2, tag := 103 } }))
    (fun t => ((t.slot 3).result, (t.slot 11).state, (t.slot 11).result, (t.slot 11).tag, t.queue)) =
      some (.ok, .done, .dropped, 103, []) := by decide

/-- R161: a kind of 0Dh is not in Table 9-4. -/
theorem test_bad_kind : after (exec .postingTake
      { base with slots := base.slots.set 3 { PostSlot.reset with state := .pending, kind := 0x0D }, queue := [3] })
    (fun t => ((t.slot 3).state, (t.slot 3).result, t.working.isNone, t.queue)) = some (.done, .badKind, true, []) := by decide

/-- R162: lines 1 and 3 faulted: detail 1. -/
theorem test_memory_fault_detail : after (exec (.postingMemoryFault 0xA#4) (posted base 4))
    (fun t => ((t.slot 3).result, (t.slot 3).detail)) = some (.memoryFault, 1) := by decide

/-- R1, R2: N of 15 is field 5; a ring over the control window is area 2. -/
theorem test_lane_configure_refusals :
    after (exec (.laneConfigure (configure6 &&& ~~~record [(0x10, 4, 2 ^ 32 - 1)] ||| record [(0x10, 4, 15)])) (posted base 1))
      (fun t => ((t.slot 3).result, (t.slot 3).detail)) = some (.badField, 5) ∧
    after (exec (.laneConfigure (configure6 &&& ~~~record [(8, 5, 2 ^ 40 - 1)] ||| record [(8, 5, 0x10000000 - 64)]))
      (posted base 1)) (fun t => ((t.slot 3).result, (t.slot 3).detail)) = some (.overlap, 2) := by decide

/-- R113: a slate on an EMPTY clip is NOT_READY, field 16. -/
theorem test_lane_enable_not_ready :
    after (exec (.laneEnable (record [(0, 1, 5)]))
      (posted (base.setLane 5 { Lane.reset with record := some { outRec with lossSource := .slate 9 } }) 2))
      (fun t => ((t.slot 3).result, (t.slot 3).detail)) = some (.notReady, 16) := by decide

/-- R97: the active insertion's record at LANE DISABLE; with the ring UNSET it is counted as a gap. -/
theorem test_lane_disable : after (exec (.laneDisable (record [(0, 1, 5)])) (posted inBreak 3))
    (fun t => ((t.lane 5).on.isNone, (t.order 7).state, (t.order 8).state, t.report.gap)) =
      some (true, .armed, .armed, 1) := by decide

/-- R59: the fields of the record; R60: a locked clip. -/
theorem test_clip_postings :
    after (exec (.clipDeclare declare511) (posted base 4)) (fun t => (t.clip 511).body) =
      some (some { address := 2 ^ 36 - 192, length := 1, first := 8589934591, labels := [{ kind := .video, label := 0 }] }) ∧
    after (exec (.clipClear (record [(0, 2, 9)])) (posted (withClip base 9 4 1) 5)) (fun t => (t.slot 3).result) =
      some .locked := by decide

/-- R79: an order whose clip is EMPTY is NOT_READY, field 9; R94: an EMPTY order. -/
theorem test_order_postings :
    after (exec (.orderLoad load255) (posted (lane5 live) 6)) (fun t => ((t.slot 3).result, (t.slot 3).detail)) =
      some (.notReady, 9) ∧
    after (exec (.orderCancel (record [(0, 1, 7)])) (posted base 7)) (fun t => (t.slot 3).result) = some .badState := by decide

/-- R95, R50: T of 57,000 and a duration of 2,700,000 give R = 2,757,000 (3.10); the clip is locked once. -/
theorem test_schedule : after
    (exec (.schedule (record [(0, 1, 5), (1, 1, 7), (3, 1, 1), (8, 5, 57000), (16, 5, 2700000)])) (posted toSchedule 8))
    (fun t => ((t.lane 5).on.bind fun o => o.waiting.map fun w => (w.splice, w.ret), (t.clip 9).locks)) =
      some (some (57000, 2757000), 1) := by decide

/-- R120: zone 3 is bit 3 of the zone set; the lane count is 1. R122: an IDLE alert. -/
theorem test_alert_postings :
    after (exec (.alertStart (record [(0, 1, 2), (2, 2, 8), (4, 2, 9)])) (posted (withClip (lane5 live) 9 4 0) 9))
      (fun t => ((t.alert 2).laneCount, t.forceList, (t.clip 9).locks)) = some (1, [2], 1) ∧
    after (exec (.alertEnd (record [(0, 1, 2)])) (posted base 10)) (fun t => (t.slot 3).result) = some .badState := by decide

/-- R172: a threshold of 16 on a ring of 16 is field 3. -/
theorem test_report_setup : after (exec (.reportSetup (record [(8, 4, 16), (0xC, 1, 16), (0xE, 2, 50)])) (posted base 11))
    (fun t => ((t.slot 3).result, (t.slot 3).detail)) = some (.badField, 3) := by decide

/-- R167: lane 5 is bit 5 of the lane set. -/
theorem test_counters_clear :
    let s := posted ((lane5 live).note 5 .jump .jump) 12
    after (exec (.countersClear (record [(0, 8, 0x20)])) s) (fun t => (t.lane 5).count .jump) = some 0 ∧
      after (exec (.countersClear (record [(0, 8, 0xDF)])) s) (fun t => (t.lane 5).count .jump) = some 1 := by decide

/-- R62: the line after the clip is not watched. -/
theorem test_watch_window : after (exec (.watchWindowWrite 0x4002C0#36 0 1#64) (withClip base 9 4 1))
      (fun t => (t.clip 9).disturbed) = some true ∧
    after (exec (.watchWindowWrite 0x400300#36 0 1#64) (withClip base 9 4 1)) (fun t => (t.clip 9).disturbed) =
      some false := by decide

/-- R7: with the run count at 4 the report write is granted before the waiting upstream read. -/
theorem test_arbiter : after (exec .arbiterGrant (contended 4)) (fun t => (t.upOrder.length, t.runCount)) = some (1, 0) ∧
    after (exec .arbiterGrant (contended 3)) (fun t => (t.upOrder.length, t.runCount)) = some (0, 4) := by decide

/-- R16: a starved slot's stamp is synthetic (3.10). -/
theorem test_synthetic_decision : after (exec (.slotContentPart 0 false) (deciding false))
    (fun t => (t.tracker 5).bind fun x => x.prevStamp) = some (some 27704) := by decide

/-- R164: the go word of a DONE slot with kind 04h and result LOCKED. -/
theorem test_go_word_overlay : after
    (exec (.overlayReadReturn 0 true)
      { base with
        slots := base.slots.set 3
          { state := .done, kind := 4, tag := 0x1234, result := .locked, detail := 0, doubled := true }
        memReads := [.up 0x100003C0 (.overlay 0x3C0)] })
    (fun t => t.upPort.map fun x => ((List.range 8).map (fun k => getByte x.data (56 + k)), x.err)) =
      some (some ([0x04, 0x83, 0x34, 0x12, 0x05, 0, 0, 0], true)) := by decide

/-- R8: completions and data. -/
theorem test_returns : after (exec (.writeCompletion true) { base with upWrites := 2 }) (fun t => t.upWrites) = some 1 ∧
    after (exec (.upstreamReadReturn 7 true) { base with memReads := [.up 0x40 .plain] }) (fun t => t.upPort) =
      some (some { addr := 0x40, data := 7, err := true }) := by decide

/-- 4.9: the fetch reads slot 9 and the tap goes to 10 with b = 20. -/
theorem test_tap_fetch : nextFetch (src49 30 64) (.tap { source := 40, lag := 20, pos := .placed 9 21, fresh := true }) =
    some (.tap 40 9, 0x200000 + 192 * 9, true,
      .tap { source := 40, lag := 20, pos := .placed 10 20, fresh := false }) := by decide

end Sys2Proof.Tests
end

section
/-! PROOF. The slot claim (R13): what the line-0 read of a new slot does to its lane, and O25. -/

namespace Sys2Proof.Machine

/-! ## The lane a claim leaves -/

theorem State.setLane_setLane (s : State) (l : LaneId) (x y : Lane) : (s.setLane l x).setLane l y = s.setLane l y := by
  simp [State.setLane]

/-- A counter raised on a lane and then its context changed, or the context changed alone, is one write of the lane. -/
theorem State.modOn_note_if (s : State) (l : LaneId) (b : Bool) (c : Counter) (f : Flag) (g : OnLane → OnLane) :
    (if b then s.note l c f else s).modOn l g =
      s.setLane l { (if b then (s.lane l).note c f else s.lane l) with on := (s.lane l).on.map g } := by
  cases b
  · rfl
  · change ((s.note l c f).setLane l _) = _
    simp [State.note, State.modLane, State.setLane_setLane]

/-! ## The cursor part of the tracker -/

theorem heldAt_eq_min (limit n : Nat) : heldAt limit n = min limit n := Nat.min_comm n limit

/-- A jump is a synchronised play cursor that expects another slot. -/
theorem Tracker.jumps_iff (t : Tracker) (k : Nat) : t.jumps k = true ↔ t.play.isSome ∧ ¬ t.play = some k := by
  unfold Tracker.jumps
  cases t.play <;> simp

/-- The expected slot is judged on the tracker as it stands. -/
theorem Tracker.claim_of_play_eq {t : Tracker} {k : Nat} (n : Nat) (h : t.play = some k) :
    t.claim n k = { t with
      fill := t.fill - 1
      lead := if t.fill = 0 then min n (t.lead + 1) else t.lead
      play := some ((k + 1) % n)
      lastDecided := some k
      awaiting := t.awaiting ++ [{ slot := k, fresh := decide (0 < t.fill) }] } := by
  simp only [Tracker.claim, if_pos h, heldAt_eq_min]

/-- Any other slot is judged on the tracker placed at it. -/
theorem Tracker.claim_of_play_ne {t : Tracker} {k : Nat} (n : Nat) (h : ¬ t.play = some k) :
    t.claim n k = { t with
      fill := (t.place n k).fill - 1
      lead := if (t.place n k).fill = 0 then min n (0 + 1) else 0
      play := some ((k + 1) % n)
      lastDecided := some k
      awaiting := t.awaiting ++ [{ slot := k, fresh := decide (0 < (t.place n k).fill) }] } := by
  simp only [Tracker.claim, if_neg h, heldAt_eq_min]
  rfl

/-! ## The claim -/

/-- A line-0 read of a slot other than the last decided one is a claim, after the jump it may be (R13). -/
theorem ringRead_of_ne_lastDecided (l : LaneId) (r : LaneRecord) {o : OnLane} {k : Nat} (a : Addr) (s : State)
    (undecided : o.track.lastDecided ≠ some k) :
    ringRead l r o k 0 a s = forwardRead a (.claim l) ((if o.track.jumps k then s.note l .jump .jump else s).modOn l
      fun x => { x with track := x.track.claim r.slots k }) := by
  rw [ringRead, if_neg undecided, if_pos rfl]

/-- A line-0 read of a slot not yet decided joins the upstream order as a claim and writes its lane once. -/
theorem exec_slotClaim_of_ne_lastDecided {a : Addr} {s : State} {l : LaneId} {i : Nat} {r : LaneRecord} {o : OnLane}
    (ring : InRing s a l i 0 r o) (output : r.role = .output) (undecided : o.track.lastDecided ≠ some i) :
    exec (.slotClaim a) s = .next (forwardRead a (.claim l) (s.setLane l
      { (if o.track.jumps i then (s.lane l).note .jump .jump else s.lane l) with
        on := some { o with track := o.track.claim r.slots i } })) := by
  have claims := State.modOn_note_if s l (o.track.jumps i) .jump .jump
    fun x => { x with track := x.track.claim r.slots i }
  rw [ring.on, Option.map_some] at claims
  calc exec (.slotClaim a) s
      = .next (arriveRead a s) := rfl
    _ = .next (ringRead l r o i 0 a s) := by
        simp only [arriveRead, ring.class_, onOutput_spec.2 ⟨ring.record, ring.on, output⟩]
    _ = .next (forwardRead a (.claim l) _) := by rw [ringRead_of_ne_lastDecided l r a s undecided, claims]

/-- Settles O25, by whether the play cursor expects the slot: then the tracker is judged as it stands and nothing jumps;
else it is first placed, and the lane is noted exactly where the cursor was synchronised. -/
theorem slotClaimTakesTheCursorPart : Obligations.SlotClaimTakesTheCursorPart := by
  unfold Obligations.SlotClaimTakesTheCursorPart
  intro a s l i r o ring output undecided
  rw [exec_slotClaim_of_ne_lastDecided ring output undecided]
  simp only [Tracker.jumps_iff]
  by_cases inTurn : o.track.play = some i
  · simp only [Tracker.claim_of_play_eq _ inTurn, if_pos inTurn]
    rfl
  · simp only [Tracker.claim_of_play_ne _ inTurn, if_neg inTurn]
    rfl

end Sys2Proof.Machine
end

section
/-! PROOF. CLIP CLEAR (R60): what the posting does to a clip entry, what an EMPTY entry no longer takes part in, and O44. -/

namespace Sys2Proof.Machine

/-! ## A posting that is due -/

/-- A posting that is due is carried out on the state with its record data taken. -/
theorem carryOut_of_due {s : State} {k : PostSlotId} {code : BitVec 8} {rest : List MemRead} (act : State → Carried)
    (due : Due s k code rest) :
    carryOut code act s = .next (finishPosting k (act { s with memReads := rest }).2.1
      (act { s with memReads := rest }).2.2 (act { s with memReads := rest }).1) := by
  obtain ⟨line, dead, returns⟩ := due.returns
  exact carryOut_intro (recordReturns_intro due.working rfl returns) due.kind

theorem withClip_of_field_eq {x : RecordData} {c : ClipId} (named : field x 0 2 = c.val) (act : ClipId → State → Carried)
    (s : State) : withClip x act s = act c s := by
  have small : field x 0 2 < 512 := named ▸ c.isLt
  rw [withClip, dif_pos small]
  exact congrArg (act · s) (Fin.ext named)

theorem withClip_of_field_gt {x : RecordData} (above : 511 < field x 0 2) (act : ClipId → State → Carried) (s : State) :
    withClip x act s = (s, .badField, 1) := by
  rw [withClip, dif_neg (by omega)]

/-! ## CLIP CLEAR of an entry -/

theorem clearClip_of_empty {s : State} {c : ClipId} (empty : (s.clip c).body = none) :
    clearClip c s = (s, .badState, 0) := by
  simp [clearClip, empty]

theorem clearClip_of_locked {s : State} {c : ClipId} (ready : (s.clip c).body.isSome = true) (locked : 0 < (s.clip c).locks) :
    clearClip c s = (s, .locked, 0) := by
  obtain ⟨b, body⟩ := Option.isSome_iff_exists.1 ready
  simp [clearClip, body, locked]

theorem clearClip_of_unlocked {s : State} {c : ClipId} (ready : (s.clip c).body.isSome = true)
    (unlocked : (s.clip c).locks = 0) : clearClip c s = (s.modClip c fun _ => Clip.reset, .ok, 0) := by
  obtain ⟨b, body⟩ := Option.isSome_iff_exists.1 ready
  simp [clearClip, body, unlocked]

theorem exec_clipClear_of_due {x : RecordData} {s : State} {k : PostSlotId} {rest : List MemRead} {t : State}
    {res : PostResult} {detail : Nat} (due : Due s k 0x05#8 rest)
    (answer : withClip x clearClip { s with memReads := rest } = (t, res, detail)) :
    exec (.clipClear x) s = .next (finishPosting k res detail t) := by
  change carryOut 0x05#8 (withClip x clearClip) s = _
  rw [carryOut_of_due _ due, answer]

/-! ## What an EMPTY entry takes no part in -/

/-- The overlap check of the clips counts exactly the entries with a body. -/
theorem meetsClip_iff {s : State} {a n : Nat} :
    meetsClip s a n = true ↔ ∃ c b, (s.clip c).body = some b ∧ rangesMeet a n b.address (192 * b.length) = true := by
  rw [meetsClip, List.any_eq_true]
  constructor
  · rintro ⟨x, stands, meets⟩
    obtain ⟨i, hi, rfl⟩ := List.mem_iff_getElem.1 stands
    split at meets
    · next b body => exact ⟨⟨i, by simpa using hi⟩, b, by simpa [State.clip] using body, meets⟩
    · cases meets
  · rintro ⟨c, b, body, meets⟩
    exact ⟨s.clip c, by simp [State.clip], by simpa [body] using meets⟩

theorem Clip.watches_of_empty {x : Clip} (empty : x.body = none) (a : Nat) : x.watches a = false := by
  simp [Clip.watches, empty]

/-- An order with an EMPTY clip among its clips is a CLIPS order, and not every clip of it is READY. -/
theorem orderReady_of_clip_empty {s : State} {b : OrderBody} {c : ClipId} (named : c ∈ b.clips)
    (empty : (s.clip c).body = none) : orderReady s b = false := by
  unfold orderReady
  split
  · exact List.all_eq_false.2 ⟨c, named, by simp [State.clipReady, empty]⟩
  · next live => simp [OrderBody.clips, live] at named

/-- Settles O44, by the checks of CLIP CLEAR in their order; what follows a clear follows from the entry having no body. -/
theorem clipClearEmptiesTheEntry : Obligations.ClipClearEmptiesTheEntry := by
  unfold Obligations.ClipClearEmptiesTheEntry
  intro x s k rest due
  refine ⟨fun above => exec_clipClear_of_due due (withClip_of_field_gt above _ _), fun c named => ?_⟩
  have answers := withClip_of_field_eq named clearClip { s with memReads := rest }
  refine ⟨fun empty => ?_, fun ready locked => ?_, fun ready unlocked => ?_⟩
  · exact exec_clipClear_of_due due (answers.trans (clearClip_of_empty empty))
  · exact exec_clipClear_of_due due (answers.trans (clearClip_of_locked ready locked))
  · intro t
    have cleared (m : ClipId) : t.clip m = if m = c then Clip.reset else s.clip m :=
      State.clip_modClip { s with memReads := rest } c m fun _ => Clip.reset
    have empty : (t.clip c).body = none := by rw [cleared, if_pos rfl]; rfl
    refine ⟨exec_clipClear_of_due due (answers.trans (clearClip_of_unlocked ready unlocked)),
      Clip.watches_of_empty empty, fun a n counted => ?_, rfl, fun _ _ _ uses => orderReady_of_clip_empty uses empty⟩
    obtain ⟨m, b, body, meets⟩ := meetsClip_iff.1 counted
    have other : m ≠ c := by rintro rfl; simp [empty] at body
    rw [cleared, if_neg other] at body
    exact ⟨m, b, other, body, meets⟩

end Sys2Proof.Machine
end

section
/-! PROOF. POSTING_MEMORY_FAULT (R162): which line it reports, the go write its DONE slot takes next, and O39. -/

namespace Sys2Proof.Machine

/-! ## The slot written -/

/-- The state of a slot is that of the slot written last, whatever else was written with it. -/
theorem State.slot_state_of_slots_eq_set {s t : State} {k : PostSlotId} {x : PostSlot} {st : PostState}
    (wrote : t.slots = s.slots.set k x) (state : x.state = st) : (t.slot k).state = st := by
  rw [State.slot, wrote]
  exact (congrArg PostSlot.state (vec_get_set_self s.slots k x)).trans state

/-! ## The fault of a record -/

/-- The line reported is the one marked below which none is marked. -/
theorem lowestFault_eq {errs : BitVec 4} {n : Nat} (inRecord : n < 4) (marked : errs.getLsbD n = true)
    (lowest : ∀ m, m < n → errs.getLsbD m = false) : lowestFault errs = n := by
  have found : ((List.range 4).find? fun m => errs.getLsbD m) = some n :=
    List.find?_range_eq_some.2 ⟨marked, List.mem_range.2 inRecord, fun m below => by simp [lowest m below]⟩
  rw [lowestFault, found, Option.getD_some]

/-- Where a line is marked and the record is due, the posting completes on the state with the record data taken: no kind's
action is run. -/
theorem exec_postingMemoryFault_of_recordReturns {errs : BitVec 4} {n : Nat} {s t : State} {k : PostSlotId}
    (marked : errs.getLsbD n = true) (returns : recordReturns s = some (k, t)) :
    exec (.postingMemoryFault errs) s = .next (finishPosting k .memoryFault (lowestFault errs) t) := by
  have faulted : errs ≠ 0 := by rintro rfl; simp at marked
  change execPostingMemoryFault errs s = _
  rw [execPostingMemoryFault, if_neg faulted, returns]

/-! ## POSTING_TAKE -/

/-- With no slot WORKING, the head of the queue is taken. -/
theorem exec_postingTake_of_idle {s : State} {k : PostSlotId} {q : List PostSlotId} (idle : s.working = none)
    (queue : s.queue = k :: q) : exec .postingTake s = .next (takePosting k q s) := by
  change execPostingTake s = _
  rw [execPostingTake, idle, queue]

/-! ## The go write of a DONE slot -/

/-- The go word of slot `k` stands in line 0xC0 of its 256 bytes of the window. -/
theorem goWriteSlot_of_goWord (k : PostSlotId) {e : Enables} (enabled : e.getLsbD 56 = true) :
    goWriteSlot (256 * k.val + 0xC0) e = some k := by
  have inWindow : 256 * k.val + 0xC0 < 0x1000 ∧ (256 * k.val + 0xC0) % 256 = 0xC0 := by omega
  have slot : (256 * k.val + 0xC0) / 256 = k.val := by omega
  rw [goWriteSlot, if_pos enabled, goSlotAt, if_pos inWindow, slot]
  exact congrArg some (Fin.ofNat_val_eq_self k)

/-- The go write goes to the slot it names, whatever the slot's state. -/
theorem exec_goWrite_of_goWriteSlot {a : Addr} {d : Line} {e : Enables} {s : State} {off : Nat} {k : PostSlotId}
    (inWindow : classify s (lineAddr a) = .window off) (names : goWriteSlot off e = some k) :
    exec (.goWrite a d e) s =
      .next (forwardWrite a d e (if goWritePosts s k then some k else none) (takeGoWrite k d e s)) := by
  change Host.Outcome.next (arriveWrite a d e false s) = _
  rw [arriveWrite, inWindow]
  simp only [windowWrite, names]

/-- A DONE slot takes a go write as an IDLE one does: PENDING, at the tail of the queue (R158). -/
theorem takeGoWrite_of_done {s : State} {k : PostSlotId} (done : (s.slot k).state = .done) (d : Line) (e : Enables) :
    ((takeGoWrite k d e s).slot k).state = .pending ∧ (takeGoWrite k d e s).queue = s.queue ++ [k] := by
  simp only [takeGoWrite, done, and_true]
  exact State.slot_state_of_slots_eq_set (s := s) rfl rfl

/-- Settles O39: the record is due, so the slot completes with no action carried out; the state reached has no slot WORKING,
its window stands where it stood, and its slot is DONE, which is all that the next take and the next go write ask. -/
theorem memoryFaultCompletesPosting : Obligations.MemoryFaultCompletesPosting := by
  unfold Obligations.MemoryFaultCompletesPosting
  intro errs n s k rest line dead working returns inRecord marked lowest t
  have finished : finishPosting k .memoryFault n { s with memReads := rest } = t := rfl
  refine ⟨?_, fun h q queue => exec_postingTake_of_idle rfl queue, fun a d e inWindow enabled => ?_⟩
  · have due := recordReturns_intro working rfl returns
    rw [exec_postingMemoryFault_of_recordReturns marked due, lowestFault_eq inRecord marked lowest, finished]
  · have stays : classify t (lineAddr a) = .window (256 * k.val + 0xC0) := inWindow
    have done : (t.slot k).state = .done := State.slot_state_of_slots_eq_set (s := s) rfl rfl
    exact ⟨_, exec_goWrite_of_goWriteSlot stays (goWriteSlot_of_goWord k enabled), takeGoWrite_of_done done d e⟩

end Sys2Proof.Machine
end

section
/-! PROOF. RECORD_WRITE_COMPLETE with the error indication (R177): the completion that is due, the issue that follows it, and
O53. -/

namespace Sys2Proof.Machine

/-! ## The completion of a record write -/

/-- With no completion owed to a write from before a reset, a completion is that of the write in flight: a granted write that
is not abandoned fails or is written as the error indication says. -/
theorem Report.complete_of_granted {r : Report} {g : RingSetup} {x : RecordWrite} (owed : r.orphans = 0)
    (ring : r.setup = some g) (inFlight : r.flight = some x) (granted : x.granted = true) (kept : x.abandoned = false)
    (err : Bool) (now : Millis) :
    r.complete err now = some (if err then r.failed x else r.written g x now) := by
  simp [Report.complete, owed, ring, inFlight, granted, kept]

theorem exec_recordWriteComplete_of_complete {s : State} {err : Bool} {r : Report}
    (completes : s.report.complete err s.stationMs = some r) :
    exec (.recordWriteComplete err) s = .next { s with report := r } := by
  change execRecordWriteComplete err s = _
  rw [execRecordWriteComplete, completes]

theorem Report.failed_eq (r : Report) (x : RecordWrite) :
    r.failed x = { r with flight := none, gap := min 65535 (r.gap + x.gap + 1) } := by
  rw [Report.failed, heldAt_eq_min]

/-- The unread count is read off the ring, W and H alone: a failed write does not change it. -/
@[simp] theorem Report.unread_failed (r : Report) (x : RecordWrite) : (r.failed x).unread = r.unread := rfl

/-! ## The issue of a record write -/

theorem exec_recordWriteIssue (s : State) :
    exec .recordWriteIssue s = .next { s with report := s.report.issue } := rfl

/-- With a free place in the ring and nothing in flight, the head record is written to place W with the gap count. -/
theorem Report.issue_of_room {r : Report} {g : RingSetup} {y : AsRun} {q : List AsRun} (ring : r.setup = some g)
    (queue : r.queue = y :: q) (idle : r.flight = none) (room : r.unread ≠ g.size - 1) :
    r.issue = { r with queue := q, gap := 0, flight := some (recordWrite g r.w r.gap y) } := by
  simp only [Report.issue, ring, queue, idle, if_neg room]

/-- The head record after a failed write goes to the place of that write, with the gap count the failure left. -/
theorem Report.issue_failed_of_room {r : Report} {g : RingSetup} {y : AsRun} {q : List AsRun} (ring : r.setup = some g)
    (queue : r.queue = y :: q) (room : r.unread ≠ g.size - 1) (x : RecordWrite) :
    (r.failed x).issue =
      { r with queue := q, gap := 0, flight := some (recordWrite g r.w (min 65535 (r.gap + x.gap + 1)) y) } := by
  rw [Report.issue_of_room (r := r.failed x) ring queue rfl (by rwa [Report.unread_failed]), Report.failed_eq]

/-- Settles O53: the completion is due, so the write fails; what it leaves has the ring, the queue and the unread count of
before and nothing in flight, so the next head is issued at the same W with the gap count the failure left. -/
theorem failedRecordWriteKeepsGaps : Obligations.FailedRecordWriteKeepsGaps := by
  unfold Obligations.FailedRecordWriteKeepsGaps
  intro s g x owed ring inFlight granted kept t
  have failed : { s with report := s.report.failed x } = t := by rw [Report.failed_eq]
  rw [← failed]
  refine ⟨?_, fun y q queue room => ?_⟩
  · exact exec_recordWriteComplete_of_complete (Report.complete_of_granted owed ring inFlight granted kept true _)
  · have issued := exec_recordWriteIssue { s with report := s.report.failed x }
    rw [Report.issue_failed_of_room ring queue room] at issued
    exact ⟨_, recordWrite g s.report.w (min 65535 (s.report.gap + x.gap + 1)) y, issued, rfl, rfl, rfl, rfl, rfl, rfl⟩

end Sys2Proof.Machine
end

section
/-! PROOF. What a command can do, said once for all commands (`Event`), and O1. -/

namespace Sys2Proof.Machine

/-! ## The commands that are postings -/

/-- The posting a command carries out: its kind code and its action (Table 9-4). -/
def postingOf : Instr → Option (BitVec 8 × (State → Carried))
  | .laneConfigure x => some (0x01#8, withLane x (configureLane x))
  | .laneEnable x => some (0x02#8, withLane x enableLane)
  | .laneDisable x => some (0x03#8, withLane x disableLane)
  | .clipDeclare x => some (0x04#8, withClip x (declareClip x))
  | .clipClear x => some (0x05#8, withClip x clearClip)
  | .orderLoad x => some (0x06#8, loadOrder x)
  | .orderCancel x => some (0x07#8, cancelOrder x)
  | .schedule x => some (0x08#8, schedule x)
  | .alertStart x => some (0x09#8, withAlert x (alertStartOn x))
  | .alertEnd x => some (0x0A#8, withAlert x alertEndOn)
  | .reportSetup x => some (0x0B#8, setUpReport x)
  | .countersClear x => some (0x0C#8, clearCounters x)
  | .partReset _ => some (0x0F#8, resetPart)
  | _ => none

theorem exec_of_postingOf {c : Instr} {code : BitVec 8} {act : State → Carried} (posting : postingOf c = some (code, act))
    (s : State) : exec c s = carryOut code act s := by
  cases c <;> cases posting <;> rfl

/-- The five names of an upstream write (R5, log entry 3). -/
def writeNames (a : Addr) (d : Line) (e : Enables) (ff : Bool) : List Instr :=
  [.ringWrite a d e ff, .watchWindowWrite a d e, .goWrite a d e, .readIndexWrite a d e, .upstreamWrite a d e]

theorem exec_of_mem_writeNames {c : Instr} {a : Addr} {d : Line} {e : Enables} {ff : Bool} (name : c ∈ writeNames a d e ff)
    (s : State) : ∃ ff', exec c s = .next (arriveWrite a d e ff' s) := by
  simp only [writeNames, List.mem_cons, List.not_mem_nil, or_false] at name
  rcases name with rfl | rfl | rfl | rfl | rfl
  · exact ⟨ff, rfl⟩
  all_goals exact ⟨false, rfl⟩

/-- The four names of an upstream read. -/
def readNames (a : Addr) : List Instr := [.slotClaim a, .slotLineRead a, .controlWindowRead a, .upstreamRead a]

theorem exec_of_mem_readNames {c : Instr} {a : Addr} (name : c ∈ readNames a) (s : State) :
    exec c s = .next (arriveRead a s) := by
  simp only [readNames, List.mem_cons, List.not_mem_nil, or_false] at name
  rcases name with rfl | rfl | rfl | rfl <;> rfl

/-- The three names of the return of an upstream read. -/
def returnNames (d : Line) (err : Bool) : List Instr :=
  [.upstreamReadReturn d err, .overlayReadReturn d err, .slotContentPart d err]

theorem exec_of_mem_returnNames {c : Instr} {d : Line} {err : Bool} (name : c ∈ returnNames d err) (s : State) :
    exec c s = returnUp d err s := by
  simp only [returnNames, List.mem_cons, List.not_mem_nil, or_false] at name
  rcases name with rfl | rfl | rfl <;> rfl

/-! ## What a command can do -/

/-- What command `c` can make of `s`, where it answers a next state. -/
inductive Event : Instr → State → State → Prop where
  | pinReset (s : State) : Event .pinReset s (pinResetState s)
  | pinRelease (straps : BitVec 8) (s : State) (held : s.pin = .held) :
      Event (.pinResetRelease straps) s { s with pin := .released straps }
  | write (c : Instr) (a : Addr) (d : Line) (e : Enables) (ff : Bool) (s : State) (name : c ∈ writeNames a d e ff) :
      Event c s (arriveWrite a d e ff s)
  | writeCompletion (err : Bool) (s : State) : Event (.writeCompletion err) s { s with upWrites := s.upWrites - 1 }
  | read (c : Instr) (a : Addr) (s : State) (name : c ∈ readNames a) : Event c s (arriveRead a s)
  | grant (s : State) : Event .arbiterGrant s (grant s)
  | readReturn (c : Instr) (d : Line) (err : Bool) (s : State) (a : Addr) (sv : Serve) (rest : List MemRead)
      (name : c ∈ returnNames d err) (due : nextDue s.memReads = some (.up a sv, rest)) :
      Event c s (serveReturn a sv d err { s with memReads := rest })
  | postingTake (s : State) (k : PostSlotId) (rest : List PostSlotId) (idle : s.working = none) (queue : s.queue = k :: rest) :
      Event .postingTake s (takePosting k rest s)
  | memoryFault (errs : BitVec 4) (s t : State) (k : PostSlotId) (due : recordReturns s = some (k, t)) :
      Event (.postingMemoryFault errs) s (finishPosting k .memoryFault (lowestFault errs) t)
  | posting (c : Instr) (code : BitVec 8) (act : State → Carried) (s t : State) (k : PostSlotId)
      (posting : postingOf c = some (code, act)) (due : recordReturns s = some (k, t)) (kind : (s.slot k).kind = code) :
      Event c s (finishPosting k (act t).2.1 (act t).2.2 (act t).1)
  | fetchIssue (s t : State) (l : LaneId) (idle : s.fetchWait = none) (issued : scanFetch s = some (l, t)) :
      Event .fetchIssue s { t with scanPos := l + 1 }
  | fetchComplete (d : SlotData) (errs : BitVec 3) (s : State) (f : FetchTag) (last : Bool) (rest : List MemRead)
      (due : nextDue s.memReads = some (.fetch f last, rest)) :
      Event (.fetchComplete d errs) s (completeFetch f d errs { s with memReads := rest })
  | recordWriteIssue (s : State) : Event .recordWriteIssue s (s.modReport Report.issue)
  | recordWriteComplete (err : Bool) (s : State) (r : Report) (completes : s.report.complete err s.stationMs = some r) :
      Event (.recordWriteComplete err) s { s with report := r }
  | staleExpiry (s : State) (l : LaneId) (r : LaneRecord) (o : OnLane) (an : Anchor) (cap : Millis)
      (on : s.onLane l = some (r, o)) (valid : o.clock = .valid an cap) :
      Event (.staleTimerExpiry l) s ((s.modOn l fun o => { o with clock := .stale an cap }).note l .stale .stale)
  | feedLost (s : State) (l : LaneId) (r : LaneRecord) (o : OnLane) (on : s.onLane l = some (r, o)) :
      Event (.lossTimerExpiry l) s (feedLost l r o s)
  | feedFlap (s : State) (l : LaneId) (r : LaneRecord) (o : OnLane) (on : s.onLane l = some (r, o)) :
      Event (.lossTimerExpiry l) s (feedFlap l s)
  | alertExpiry (s : State) (a : AlertId) (b : AlertBody) (body : (s.alert a).body = some b) :
      Event (.alertDurationExpiry a) s (endAlert a b .expired s)
  | coalesceExpiry (s : State) : Event .coalesceTimerExpiry s (s.modReport fun r => r.coalesceExpiry s.stationMs)
  | nothing (c : Instr) (s : State) : Event c s s

/-- The return of an upstream read serves the oldest returning read as it was classified. -/
theorem event_of_returnUp {c : Instr} {d : Line} {err : Bool} {s t : State} (name : c ∈ returnNames d err)
    (next : returnUp d err s = .next t) : Event c s t := by
  unfold returnUp at next
  split at next
  · next a sv rest due => cases next; exact .readReturn c d err s a sv rest name due
  · cases next

theorem event_of_fetchIssue {s t : State} (next : execFetchIssue s = .next t) : Event .fetchIssue s t := by
  unfold execFetchIssue at next
  split at next
  · cases next; exact .nothing _ s
  · next idle =>
    split at next
    · cases next; exact .nothing _ s
    · next l u issued => cases next; exact .fetchIssue s u l (by simpa using idle) issued

theorem event_of_staleTimer {l : LaneId} {s t : State} (next : execStaleTimerExpiry l s = .next t) :
    Event (.staleTimerExpiry l) s t := by
  unfold execStaleTimerExpiry at next
  split at next
  · cases next; exact .nothing _ s
  · next r o on =>
    split at next
    · next an cap valid =>
      split at next
      · cases next; exact .staleExpiry s l r o an cap on valid
      · cases next; exact .nothing _ s
    · cases next; exact .nothing _ s

theorem event_of_lossTimer {l : LaneId} {s t : State} (next : execLossTimerExpiry l s = .next t) :
    Event (.lossTimerExpiry l) s t := by
  unfold execLossTimerExpiry at next
  split at next
  · cases next; exact .nothing _ s
  · next r o on =>
    split at next
    · cases next; exact .nothing _ s
    · split at next
      · split at next
        · cases next; exact .feedLost s l r o on
        · cases next; exact .feedFlap s l r o on
        · cases next; exact .nothing _ s
      · cases next; exact .nothing _ s

theorem event_of_alertDuration {a : AlertId} {s t : State} (next : execAlertDurationExpiry a s = .next t) :
    Event (.alertDurationExpiry a) s t := by
  unfold execAlertDurationExpiry at next
  split at next
  · cases next; exact .nothing _ s
  · next b body =>
    split at next
    · injection next with reached; subst reached; exact .alertExpiry s a b body
    · cases next; exact .nothing _ s

/-- Every command that answers a next state makes one of the events of its kind. -/
theorem event_of_exec {c : Instr} {s t : State} (next : exec c s = .next t) : Event c s t := by
  cases h : postingOf c with
  | some p =>
    obtain ⟨code, act⟩ := p
    rw [exec_of_postingOf h] at next
    obtain ⟨k, u, due, kind, rfl⟩ := carryOut_next next
    exact .posting c code act s u k h due kind
  | none =>
    cases c with
    | pinReset => cases next; exact .pinReset s
    | pinResetRelease straps =>
      change execPinResetRelease straps s = _ at next
      unfold execPinResetRelease at next
      split at next
      · next held => cases next; exact .pinRelease straps s held
      · cases next
    | ringWrite a d e ff => cases next; exact .write _ a d e ff s (by simp [writeNames])
    | watchWindowWrite a d e => cases next; exact .write _ a d e false s (by simp [writeNames])
    | goWrite a d e => cases next; exact .write _ a d e false s (by simp [writeNames])
    | readIndexWrite a d e => cases next; exact .write _ a d e false s (by simp [writeNames])
    | upstreamWrite a d e => cases next; exact .write _ a d e false s (by simp [writeNames])
    | writeCompletion err =>
      change execWriteCompletion err s = _ at next
      unfold execWriteCompletion at next
      split at next
      · cases next
      · cases next; exact .writeCompletion err s
    | slotClaim a => cases next; exact .read _ a s (by simp [readNames])
    | slotLineRead a => cases next; exact .read _ a s (by simp [readNames])
    | controlWindowRead a => cases next; exact .read _ a s (by simp [readNames])
    | upstreamRead a => cases next; exact .read _ a s (by simp [readNames])
    | arbiterGrant => cases next; exact .grant s
    | slotContentPart d err => exact event_of_returnUp (d := d) (err := err) (by simp [returnNames]) next
    | overlayReadReturn d err => exact event_of_returnUp (d := d) (err := err) (by simp [returnNames]) next
    | upstreamReadReturn d err => exact event_of_returnUp (d := d) (err := err) (by simp [returnNames]) next
    | postingTake =>
      change execPostingTake s = _ at next
      unfold execPostingTake at next
      split at next
      · next k rest idle queue => cases next; exact .postingTake s k rest idle queue
      · cases next; exact .nothing _ s
    | postingMemoryFault errs =>
      change execPostingMemoryFault errs s = _ at next
      unfold execPostingMemoryFault at next
      split at next
      · cases next
      · split at next
        · next k u due => cases next; exact .memoryFault errs s u k due
        · cases next
    | fetchIssue => exact event_of_fetchIssue next
    | fetchComplete d errs =>
      change execFetchComplete d errs s = _ at next
      unfold execFetchComplete at next
      split at next
      · next f last rest due => cases next; exact .fetchComplete d errs s f last rest due
      · cases next
    | recordWriteIssue => cases next; exact .recordWriteIssue s
    | recordWriteComplete err =>
      change execRecordWriteComplete err s = _ at next
      unfold execRecordWriteComplete at next
      split at next
      · next r completes => cases next; exact .recordWriteComplete err s r completes
      · cases next
    | staleTimerExpiry l => exact event_of_staleTimer next
    | lossTimerExpiry l => exact event_of_lossTimer next
    | alertDurationExpiry a => exact event_of_alertDuration next
    | coalesceTimerExpiry => cases next; exact .coalesceExpiry s
    | _ => cases h

/-- Settles O1. -/
theorem stepTakesFrontCommand : Obligations.StepTakesFrontCommand := by
  unfold Obligations.StepTakesFrontCommand
  intro c rest s front
  rw [step, front]

/-- A step is a tick of the station reference or the event of the front command. -/
theorem step_cases {s t : State} (next : step s = .next t) :
    t = tick s ∨ ∃ c rest, s.pending = c :: rest ∧ Event c { s with pending := rest } t := by
  cases pending : s.pending with
  | nil =>
    rw [step, pending] at next
    cases next
    exact .inl rfl
  | cons c rest =>
    rw [stepTakesFrontCommand c rest s pending] at next
    exact .inr ⟨c, rest, rfl, event_of_exec next⟩

/-- An invariant that reads neither the queue of commands nor the clock is kept by every step where every event keeps it. -/
theorem step_keeps {P : State → Prop} (queue : ∀ s q, P s → P { s with pending := q })
    (clock : ∀ s a b c, P s → P { s with stationTime := a, msPhase := b, stationMs := c })
    (event : ∀ c s t, P s → Event c s t → P t) (s t : State) (holds : P s) (next : step s = .next t) : P t := by
  obtain rfl | ⟨c, rest, -, ev⟩ := step_cases next
  · unfold tick
    split
    · exact holds
    · exact clock s _ _ _ holds
  · exact event c _ t (queue s rest holds) ev

end Sys2Proof.Machine
end

section
/-! PROOF. What every event leaves alone: the queue of commands, the latched straps and the bound of the run count (O3, O11). -/

namespace Sys2Proof.Machine

variable {s t : State} {c : Instr}

/-! ## The postings -/

/-- A posting's action but PART RESET's leaves everything outside its blocks alone. -/
theorem outer_of_postingOf {code : BitVec 8} {act : State → Carried} (posting : postingOf c = some (code, act))
    (other : ∀ x, c ≠ .partReset x) (s : State) : Outer s (act s).1 := by
  cases c with
  | laneConfigure x => cases posting; exact outer_withLane (outer_configureLane x) s
  | laneEnable x => cases posting; exact outer_withLane outer_enableLane s
  | laneDisable x => cases posting; exact outer_withLane outer_disableLane s
  | clipDeclare x => cases posting; exact outer_withClip (outer_declareClip x) s
  | clipClear x => cases posting; exact outer_withClip outer_clearClip s
  | orderLoad x => cases posting; exact (inner_loadOrder (g := fun _ => ()) x s).outer
  | orderCancel x => cases posting; exact (inner_cancelOrder blind_unit x s).outer
  | schedule x => cases posting; exact (inner_schedule blind_unit x s).outer
  | alertStart x => cases posting; exact outer_withAlert (outer_alertStartOn x) s
  | alertEnd x => cases posting; exact outer_withAlert outer_alertEndOn s
  | reportSetup x => cases posting; exact outer_setUpReport x s
  | countersClear x => cases posting; exact outer_clearCounters x s
  | partReset x => exact absurd rfl (other x)
  | _ => cases posting

/-! ## The events -/

/-- A scan's choice is one fetch issued. -/
theorem scanFetch_spec {l : LaneId} (issued : scanFetch s = some (l, t)) : issueFor l s = some t := by
  obtain ⟨m, -, found⟩ := List.exists_of_findSome?_eq_some issued
  obtain ⟨u, hu, pair⟩ := Option.map_eq_some_iff.1 found
  cases pair
  exact hu

/-- What an arriving read leaves alone: it writes one lane at most, and joins the upstream order. -/
theorem arriveRead_spec (a : Addr) (s : State) :
    ∃ sv l ln, arriveRead a s = { s.setLane l ln with upOrder := s.upOrder ++ [.read a sv] } ∧
      ln.record = (s.lane l).record := by
  obtain ⟨sv, h⟩ | ⟨l, k, r, o, -, -, -, h⟩ | ⟨l, k, line, r, o, -, -, -, -, h⟩ := arriveRead_cases a s
  · refine ⟨sv, 0, s.lane 0, ?_, rfl⟩
    have same : s.setLane 0 (s.lane 0) = s := by simp [State.setLane, State.lane]
    rw [h, same]
    rfl
  · rw [State.modOn_note_if] at h
    refine ⟨_, l, _, h, ?_⟩
    split <;> rfl
  · exact ⟨_, l, _, h, rfl⟩

/-- What the return of an upstream read leaves alone beside the port. -/
theorem inner_serveReturn {α : Type} {g : OnLane → α} (hg : Blind g) (ht : ∀ o x, g { o with track := x } = g o) (a : Addr)
    (sv : Serve) (d : Line) (err : Bool) (s : State) :
    ∃ t p, Inner g s t ∧ serveReturn a sv d err s = { t with upPort := p } := by
  cases sv with
  | plain => exact ⟨s, _, Inner.refl s, rfl⟩
  | claim l => exact ⟨_, _, inner_contentPart hg ht l d err s, rfl⟩
  | copied l j => exact ⟨s, _, Inner.refl s, rfl⟩
  | overlay off => exact ⟨s, _, Inner.refl s, rfl⟩

/-- A grant of the memory port leaves the queue of commands, the pin and the station clock alone, and a run count of at most 4
at most 4. -/
theorem grant_frame (s : State) :
    (grant s).pending = s.pending ∧ (grant s).pin = s.pin ∧ (s.runCount ≤ 4 → (grant s).runCount ≤ 4) := by
  have raised : raisedRun s ≤ 4 := by
    unfold raisedRun
    split
    · exact Nat.zero_le 4
    · exact Nat.min_le_right _ _
  have up (x : UpTxn) (rest : List UpTxn) : (grantUp x rest s).pending = s.pending ∧ (grantUp x rest s).pin = s.pin := by
    cases x <;> exact ⟨rfl, rfl⟩
  have part (p : PartTxn) : (grantPart p s).pending = s.pending ∧ (grantPart p s).pin = s.pin := by
    cases p <;> exact ⟨rfl, rfl⟩
  unfold grant
  split
  · next x rest _ _ => exact ⟨(up x rest).1, (up x rest).2, fun _ => raised⟩
  · next p _ _ => exact ⟨(part p).1, (part p).2, fun _ => Nat.zero_le 4⟩
  · next x rest p _ _ =>
    split
    · next low => exact ⟨(up x rest).1, (up x rest).2, fun _ => low⟩
    · exact ⟨(part p).1, (part p).2, fun _ => Nat.zero_le 4⟩
  · exact ⟨rfl, rfl, id⟩

/-- No event changes the queue of commands; none but those of the reset pin changes the pin; and none takes the run count
above 4. -/
theorem event_frame (ev : Event c s t) :
    t.pending = s.pending ∧ (c ≠ .pinReset → (∀ x, c ≠ .pinResetRelease x) → t.pin = s.pin) ∧
      (s.runCount ≤ 4 → t.runCount ≤ 4) := by
  have inner {u : State} (i : Inner (fun _ => ()) s u) :
      u.pending = s.pending ∧ (c ≠ .pinReset → (∀ x, c ≠ .pinResetRelease x) → u.pin = s.pin) ∧
        (s.runCount ≤ 4 → u.runCount ≤ 4) :=
    ⟨i.pending, fun _ _ => i.pin, i.runCount.le.trans⟩
  cases ev with
  | pinReset => exact ⟨rfl, fun h => absurd rfl h, fun _ => Nat.zero_le 4⟩
  | pinRelease straps _ _ => exact ⟨rfl, fun _ h => absurd rfl (h straps), id⟩
  | write _ a d e ff =>
    obtain ⟨pending, pin, -, -, -, -, -, run, -⟩ := arriveWrite_frame a d e ff s
    exact ⟨pending, fun _ _ => pin, run.le.trans⟩
  | writeCompletion => exact ⟨rfl, fun _ _ => rfl, id⟩
  | read _ a =>
    obtain ⟨sv, l, ln, h, -⟩ := arriveRead_spec a s
    rw [h]
    exact ⟨rfl, fun _ _ => rfl, id⟩
  | grant =>
    obtain ⟨pending, pin, run⟩ := grant_frame s
    exact ⟨pending, fun _ _ => pin, run⟩
  | readReturn _ d err _ a sv rest _ _ =>
    obtain ⟨u, p, i, h⟩ := inner_serveReturn blind_unit (fun _ _ => rfl) a sv d err { s with memReads := rest }
    rw [h]
    exact ⟨i.pending, fun _ _ => i.pin, i.runCount.le.trans⟩
  | postingTake _ k rest _ _ =>
    unfold takePosting
    split <;> exact ⟨rfl, fun _ _ => rfl, id⟩
  | memoryFault _ _ u _ due =>
    obtain ⟨w, line, dead, rest, -, -, -, -, rfl⟩ := recordReturns_spec due
    exact ⟨rfl, fun _ _ => rfl, id⟩
  | posting _ code act _ u k posting due kind =>
    obtain ⟨w, line, dead, rest, -, -, -, -, rfl⟩ := recordReturns_spec due
    by_cases reset : ∃ x, c = .partReset x
    · obtain ⟨x, rfl⟩ := reset
      cases posting
      exact ⟨rfl, fun _ _ => rfl, fun _ => Nat.zero_le 4⟩
    · have i := outer_of_postingOf posting (fun x h => reset ⟨x, h⟩) { s with memReads := rest }
      exact ⟨i.pending, fun _ _ => i.pin, i.runCount.le.trans⟩
  | fetchIssue _ u l _ issued =>
    have i := inner_issueFor blind_unit l s u (scanFetch_spec issued)
    exact ⟨i.pending, fun _ _ => i.pin, i.runCount.le.trans⟩
  | fetchComplete d errs _ f _ rest _ =>
    have i := inner_completeFetch blind_unit f d errs { s with memReads := rest }
    exact ⟨i.pending, fun _ _ => i.pin, i.runCount.le.trans⟩
  | recordWriteIssue => exact ⟨rfl, fun _ _ => rfl, id⟩
  | recordWriteComplete => exact ⟨rfl, fun _ _ => rfl, id⟩
  | staleExpiry _ l _ _ an cap _ _ => exact inner (Inner.note (inner_modOn l (fun o => { o with clock := .stale an cap }) fun _ => rfl))
  | feedLost _ l r o _ => exact inner (inner_feedLost blind_unit l r o s)
  | feedFlap _ l _ _ _ => exact inner (inner_feedFlap blind_unit l s)
  | alertExpiry _ a b _ =>
    have i := outer_endAlert a b .expired s
    exact ⟨i.pending, fun _ _ => i.pin, i.runCount.le.trans⟩
  | coalesceExpiry => exact ⟨rfl, fun _ _ => rfl, id⟩
  | nothing => exact ⟨rfl, fun _ _ => rfl, id⟩

/-- Settles O3. -/
theorem execKeepsPendingQueue : Obligations.ExecKeepsPendingQueue := by
  unfold Obligations.ExecKeepsPendingQueue
  exact fun c s t next => (event_frame (event_of_exec next)).1

/-- No step takes the run count above 4 (R7). -/
theorem runInv_step (s t : State) (run : RunInv s) (next : step s = .next t) : RunInv t :=
  step_keeps (P := RunInv) (fun _ _ h => h) (fun _ _ _ _ h => h) (fun _ _ _ h ev => (event_frame ev).2.2 h) s t run next

/-- Settles O11: a release of a pin already released is refused, so past PIN_RESET no event changes the latched straps. -/
theorem pinReleaseLatchesStraps : Obligations.PinReleaseLatchesStraps := by
  unfold Obligations.PinReleaseLatchesStraps
  refine ⟨fun x s held => ⟨?_, rfl, ?_⟩, fun c x s t released next other => ?_⟩
  · change execPinResetRelease x s = _
    rw [execPinResetRelease, held]
  · have := x.isLt
    omega
  · have ev := event_of_exec next
    by_cases release : ∃ y, c = .pinResetRelease y
    · obtain ⟨y, rfl⟩ := release
      cases ev with
      | pinRelease _ _ held => rw [held] at released; cases released
      | nothing => exact released
      | write _ _ _ _ _ _ name => simp [writeNames] at name
      | read _ _ _ name => simp [readNames] at name
      | readReturn _ _ _ _ _ _ _ name => simp [returnNames] at name
      | posting _ _ _ _ _ _ posting => cases posting
    · exact ((event_frame ev).2.1 other fun y h => release ⟨y, h⟩).trans released

end Sys2Proof.Machine
end

section
/-! PROOF. What a posting can do: nothing where it is refused, or its accepted action (Table 9-4). -/

namespace Sys2Proof.Machine

/-- What the action of the posting command `cmd` can make of `s` (Table 9-4). -/
inductive Posted (cmd : Instr) : State → State → Prop where
  | refused (s : State) : Posted cmd s s
  | configure (s : State) (l : LaneId) (x : RecordData) (off : (s.lane l).on = none) (fields : firstBad (laneChecks x) = none) :
      Posted cmd s (s.modLane l fun ln => { ln.clearCounts with record := some (laneRecordOf x) })
  | enable (s : State) (l : LaneId) (r : LaneRecord) (record : (s.lane l).record = some r) (off : (s.lane l).on = none) :
      Posted cmd s (enableAccepted l r s)
  | disable (s : State) (l : LaneId) (r : LaneRecord) (o : OnLane) (on : s.onLane l = some (r, o)) :
      Posted cmd s (disableAccepted l r s)
  | declare (s : State) (c : ClipId) (b : ClipBody) (free : (s.clip c).locks = 0) :
      Posted cmd s (s.modClip c fun y => { y with body := some b, disturbed := false, readFault := false })
  | clear (s : State) (c : ClipId) (free : (s.clip c).locks = 0) : Posted cmd s (s.modClip c fun _ => Clip.reset)
  | load (s : State) (i : OrderId) (b : OrderBody) (bound : (s.order i).state ≠ .bound) (active : (s.order i).state ≠ .active) :
      Posted cmd s (s.setOrder i
        { state := .armed, body := some b, remaining := b.uses, unlimited := b.uses == 0, abort := false })
  | discard (s : State) (i : OrderId) (state : (s.order i).state = .armed ∨ (s.order i).state = .spent) :
      Posted cmd s (s.setOrder i Order.reset)
  | unbind (s : State) (i : OrderId) (bound : (s.order i).state = .bound) : Posted cmd s ((unbind i s).setOrder i Order.reset)
  | abort (s : State) (i : OrderId) (active : (s.order i).state = .active) :
      Posted cmd s (s.modOrder i fun y => { y with abort := true })
  | bind (s : State) (l : LaneId) (r : LaneRecord) (o : OnLane) (i : OrderId) (b : OrderBody) (e : BitVec 32) (t : Stamp)
      (d : Option Stamp) (on : s.onOutput l = some (r, o)) (free : o.waiting = none) (armed : (s.order i).state = .armed)
      (body : (s.order i).body = some b) (lane : b.lane = l) : Posted cmd s (bindOrder l i e .scheduled t d s)
  | start (s : State) (a : AlertId) (b : AlertBody) (idle : (s.alert a).inForce = false) : Posted cmd s (startAlert a b s)
  | ending (s : State) (a : AlertId) (b : AlertBody) (force : (s.alert a).inForce = true) (body : (s.alert a).body = some b) :
      Posted cmd s (endAlert a b .ended s)
  | setUp (s : State) (x : RecordData) (fields : firstBad (reportChecks x) = none) :
      Posted cmd s (s.modReport (Report.setUp (ringSetupOf x)))
  | clearCounters (s : State) (x : RecordData) : Posted cmd s (clearCounters x s).1
  | reset (s : State) (x : RecordData) (is : cmd = .partReset x) : Posted cmd s (resetPart s).1

variable {cmd : Instr}

theorem posted_configureLane (x : RecordData) (l : LaneId) (s : State) : Posted cmd s (configureLane x l s).1 := by
  unfold configureLane
  split
  · exact .refused s
  · next off =>
    split
    · exact .refused s
    · next fields =>
      dsimp only
      repeat' split
      iterate 4 exact .refused s
      exact .configure s l x (by simpa using off) fields

theorem posted_enableLane (l : LaneId) (s : State) : Posted cmd s (enableLane l s).1 := by
  unfold enableLane
  split
  · exact .refused s
  · next r record =>
    split
    · exact .refused s
    · next off =>
      split
      · exact .refused s
      · exact .enable s l r record (by simpa using off)

theorem posted_disableLane (l : LaneId) (s : State) : Posted cmd s (disableLane l s).1 := by
  unfold disableLane
  split
  · exact .refused s
  · next r o on =>
    split
    · exact .refused s
    · exact .disable s l r o on

theorem posted_declareClip (x : RecordData) (c : ClipId) (s : State) : Posted cmd s (declareClip x c s).1 := by
  unfold declareClip
  split
  · exact .refused s
  · next free =>
    split
    · exact .refused s
    · dsimp only
      repeat' split
      iterate 3 exact .refused s
      exact .declare s c _ (Nat.eq_zero_of_not_pos free)

theorem posted_clearClip (c : ClipId) (s : State) : Posted cmd s (clearClip c s).1 := by
  unfold clearClip
  split
  · exact .refused s
  · split
    · exact .refused s
    · next free => exact .clear s c (Nat.eq_zero_of_not_pos free)

theorem posted_loadOrder (x : RecordData) (s : State) : Posted cmd s (loadOrder x s).1 := by
  unfold loadOrder
  dsimp only
  split
  · exact .refused s
  · next free =>
    split
    · exact .refused s
    · split
      · exact .refused s
      · exact .load s _ _ (fun h => free (.inl h)) fun h => free (.inr h)

theorem posted_cancelOrder (x : RecordData) (s : State) : Posted cmd s (cancelOrder x s).1 := by
  unfold cancelOrder
  dsimp only
  split
  · exact .refused s
  · next armed => exact .discard s _ (.inl armed)
  · next spent => exact .discard s _ (.inr spent)
  · next bound => exact .unbind s _ bound
  · next active =>
    split
    · exact .refused s
    · exact .abort s _ active

theorem posted_schedule (x : RecordData) (s : State) : Posted cmd s (schedule x s).1 := by
  unfold schedule
  split
  · exact .refused s
  · unfold scheduleOn
    split
    · exact .refused s
    · next r o on =>
      split
      · next t valid _ =>
        dsimp only
        split
        · next b armed body =>
          split
          · exact .refused s
          · next lane =>
            split
            · exact .refused s
            · exact .bind s _ r o _ b _ t _ on (by simpa using (Bool.and_eq_true_iff.1 valid).2) (by simpa using armed) body
                (Decidable.not_not.1 lane)
        · exact .refused s
      · exact .refused s

theorem posted_alertStartOn (x : RecordData) (a : AlertId) (s : State) : Posted cmd s (alertStartOn x a s).1 := by
  unfold alertStartOn
  split
  · exact .refused s
  · next idle =>
    split
    · exact .refused s
    · dsimp only
      split
      · exact .start s a _ (by simpa using idle)
      · exact .refused s

theorem posted_alertEndOn (a : AlertId) (s : State) : Posted cmd s (alertEndOn a s).1 := by
  unfold alertEndOn
  split
  · next b force body => exact .ending s a b force body
  · exact .refused s

theorem posted_setUpReport (x : RecordData) (s : State) : Posted cmd s (setUpReport x s).1 := by
  unfold setUpReport
  split
  · exact .refused s
  · next fields =>
    dsimp only
    repeat' split
    iterate 3 exact .refused s
    exact .setUp s x fields

/-- Every posting does one of the listed things. -/
theorem posted_of_postingOf {c : Instr} {code : BitVec 8} {act : State → Carried} (posting : postingOf c = some (code, act))
    (s : State) : Posted c s (act s).1 := by
  have withLane {x : RecordData} {f : LaneId → State → Carried} (h : ∀ l, Posted c s (f l s).1) : Posted c s (withLane x f s).1 := by
    unfold Machine.withLane
    split
    · exact h _
    · exact .refused s
  have withClip {x : RecordData} {f : ClipId → State → Carried} (h : ∀ l, Posted c s (f l s).1) : Posted c s (withClip x f s).1 := by
    unfold Machine.withClip
    split
    · exact h _
    · exact .refused s
  have withAlert {x : RecordData} {f : AlertId → State → Carried} (h : ∀ l, Posted c s (f l s).1) :
      Posted c s (withAlert x f s).1 := by
    unfold Machine.withAlert
    split
    · exact h _
    · exact .refused s
  cases c with
  | laneConfigure x => cases posting; exact withLane fun l => posted_configureLane x l s
  | laneEnable x => cases posting; exact withLane fun l => posted_enableLane l s
  | laneDisable x => cases posting; exact withLane fun l => posted_disableLane l s
  | clipDeclare x => cases posting; exact withClip fun c => posted_declareClip x c s
  | clipClear x => cases posting; exact withClip fun c => posted_clearClip c s
  | orderLoad x => cases posting; exact posted_loadOrder x s
  | orderCancel x => cases posting; exact posted_cancelOrder x s
  | schedule x => cases posting; exact posted_schedule x s
  | alertStart x => cases posting; exact withAlert fun a => posted_alertStartOn x a s
  | alertEnd x => cases posting; exact withAlert fun a => posted_alertEndOn a s
  | reportSetup x => cases posting; exact posted_setUpReport x s
  | countersClear x => cases posting; exact .clearCounters s x
  | partReset x => cases posting; exact .reset s x rfl
  | _ => cases posting

end Sys2Proof.Machine
end

section
/-! PROOF. The posting queue, the force list and the recent-cue lists under every event (R160, R161, R118, R37), and O5. -/

namespace Sys2Proof.Machine

variable {s t : State} {c : Instr}

/-! ## The posting queue -/

/-- The posting queue's invariant reads the slots, the queue and the slot being carried out alone. -/
theorem PostingInv.congr (inv : PostingInv s) (slots : t.slots = s.slots) (queue : t.queue = s.queue)
    (working : t.working.map Working.slot = s.working.map Working.slot) : PostingInv t where
  nodup := queue ▸ inv.nodup
  queued k := by rw [queue, State.slot, slots]; exact inv.queued k
  working k := by rw [working, State.slot, slots]; exact inv.working k

theorem PostingInv.inner {α : Type} {g : OnLane → α} (inv : PostingInv s) (i : Inner g s t) : PostingInv t :=
  inv.congr i.slots i.queue (congrArg _ i.working)

/-- The WORKING slot is not in the queue. -/
theorem PostingInv.not_mem_of_working (inv : PostingInv s) {w : Working} (working : s.working = some w) : w.slot ∉ s.queue := by
  have state : (s.slot w.slot).state = .working := (inv.working _).2 (by rw [working]; rfl)
  rw [inv.queued, state]
  exact PostState.noConfusion

/-- The posting slots of a state that has set one of them. -/
theorem State.slot_of_set {k : PostSlotId} {x : PostSlot} (slots : t.slots = s.slots.set k x) (j : PostSlotId) :
    t.slot j = if j = k then x else s.slot j := by
  rw [State.slot, slots]
  split
  · next same => subst same; exact vec_get_set_self _ _ _
  · next other => exact vec_get_set_ne _ _ _ _ other

/-- A posting completed leaves no slot WORKING and every other slot as it was. -/
theorem PostingInv.finish (inv : PostingInv s) {w : Working} (working : s.working = some w) (res : PostResult) (detail : Nat) :
    PostingInv (finishPosting w.slot res detail s) where
  nodup := inv.nodup
  queued j := by
    rw [State.slot_of_set (t := finishPosting w.slot res detail s) rfl j]
    split
    · next same => exact iff_of_false (same ▸ inv.not_mem_of_working working) PostState.noConfusion
    · exact inv.queued j
  working j := by
    rw [State.slot_of_set (t := finishPosting w.slot res detail s) rfl j]
    split
    · exact iff_of_false PostState.noConfusion nofun
    · next other =>
      rw [inv.working, working]
      exact iff_of_false (fun same => other (Option.some.inj same).symm) nofun

/-- The head taken leaves the queue, WORKING or DONE (R161). -/
theorem PostingInv.take (inv : PostingInv s) {k : PostSlotId} {rest : List PostSlotId} (idle : s.working = none)
    (queue : s.queue = k :: rest) : PostingInv (takePosting k rest s) := by
  obtain ⟨notHead, nodup⟩ := List.nodup_cons.1 (queue ▸ inv.nodup)
  have idles (j : PostSlotId) : (s.slot j).state ≠ .working := fun h => by
    have := (inv.working j).1 h
    rw [idle] at this
    cases this
  have queued (j : PostSlotId) (other : j ≠ k) : j ∈ rest ↔ (s.slot j).state = .pending := by
    rw [← inv.queued, queue, List.mem_cons, or_iff_right other]
  unfold takePosting
  split
  · refine ⟨nodup, fun j => ?_, fun j => ?_⟩
    · rw [State.slot_of_set (s := s) rfl j]
      split
      · next same => exact iff_of_false (same ▸ notHead) PostState.noConfusion
      · next other => exact queued j other
    · rw [State.slot_of_set (s := s) rfl j]
      split
      · next same => exact iff_of_true rfl (same ▸ rfl)
      · next other => exact iff_of_false (idles j) fun same => other (Option.some.inj same).symm
  · refine ⟨nodup, fun j => ?_, fun j => ?_⟩
    · rw [State.slot_of_set (s := s) rfl j]
      split
      · next same => exact iff_of_false (same ▸ notHead) PostState.noConfusion
      · next other => exact queued j other
    · rw [State.slot_of_set (s := s) rfl j]
      split
      · exact iff_of_false PostState.noConfusion nofun
      · exact iff_of_false (idles j) nofun

/-- A go write of an IDLE or DONE slot makes it PENDING at the tail of the queue (R158). -/
theorem takeGoWrite_of_posts {k : PostSlotId} (d : Line) (e : Enables) (posts : goWritePosts s k = true) :
    ∃ x : PostSlot, x.state = .pending ∧
      takeGoWrite k d e s = { s.modSlot k (fun _ => x) with queue := s.queue ++ [k] } := by
  unfold goWritePosts at posts
  unfold takeGoWrite
  split
  · next pending => simp [pending] at posts
  · next working => simp [working] at posts
  · exact ⟨_, rfl, rfl⟩

/-- A go write of a PENDING or WORKING slot doubles it (R159). -/
theorem takeGoWrite_of_not_posts {k : PostSlotId} (d : Line) (e : Enables) (posts : goWritePosts s k = false) :
    takeGoWrite k d e s = s.modSlot k fun x => { x with doubled := true } := by
  unfold goWritePosts at posts
  unfold takeGoWrite
  cases h : (s.slot k).state <;> first | rfl | simp [h] at posts

theorem PostingInv.goWrite (inv : PostingInv s) (k : PostSlotId) (d : Line) (e : Enables) :
    PostingInv (takeGoWrite k d e s) := by
  cases posts : goWritePosts s k with
  | false =>
    rw [takeGoWrite_of_not_posts d e posts]
    have states (j : PostSlotId) : ((s.modSlot k fun x => { x with doubled := true }).slot j).state = (s.slot j).state := by
      rw [State.slot_modSlot]
      split
      · next same => rw [same]
      · rfl
    exact ⟨inv.nodup, fun j => by rw [states]; exact inv.queued j, fun j => by rw [states]; exact inv.working j⟩
  | true =>
    obtain ⟨x, pending, h⟩ := takeGoWrite_of_posts d e posts
    have free : (s.slot k).state = .idle ∨ (s.slot k).state = .done := by simpa [goWritePosts] using posts
    have notIn : k ∉ s.queue := by
      rw [inv.queued]
      rcases free with h | h <;> rw [h] <;> exact PostState.noConfusion
    have notWorking : s.working.map Working.slot ≠ some k := by
      rw [ne_eq, ← inv.working]
      rcases free with h | h <;> rw [h] <;> exact PostState.noConfusion
    rw [h]
    refine ⟨?_, fun j => ?_, fun j => ?_⟩
    · exact List.nodup_append.2 ⟨inv.nodup, List.nodup_singleton k, fun a ha b hb => by
        rintro rfl
        exact notIn (List.mem_singleton.1 hb ▸ ha)⟩
    · rw [State.slot_of_set (s := s) rfl j]
      change j ∈ s.queue ++ [k] ↔ _
      rw [List.mem_append, List.mem_singleton]
      split
      · next same => exact iff_of_true (.inr same) pending
      · next other => rw [or_iff_left other]; exact inv.queued j
    · rw [State.slot_of_set (s := s) rfl j]
      split
      · next same =>
        subst same
        exact iff_of_false (by rw [pending]; exact PostState.noConfusion) notWorking
      · exact inv.working j

/-- PART RESET drops every PENDING slot and completes its own (R168). -/
theorem PostingInv.partReset (inv : PostingInv s) {w : Working} (working : s.working = some w) (res : PostResult)
    (detail : Nat) : PostingInv (finishPosting w.slot res detail (resetPart s).1) := by
  have dropped (j : PostSlotId) : (resetPart s).1.slot j = (s.slot j).drop := mapEntries_get _ s.slots j
  have states (j : PostSlotId) : ((finishPosting w.slot res detail (resetPart s).1).slot j).state ≠ .pending ∧
      ((finishPosting w.slot res detail (resetPart s).1).slot j).state ≠ .working := by
    rw [State.slot_of_set (s := (resetPart s).1) rfl j]
    split
    · exact ⟨PostState.noConfusion, PostState.noConfusion⟩
    · next other =>
      have idle : (s.slot j).state ≠ .working := fun h => by
        have := (inv.working j).1 h
        rw [working] at this
        exact other (Option.some.inj this).symm
      rw [dropped, PostSlot.drop]
      split
      · simp
      · next notPending => exact ⟨notPending, idle⟩
  refine ⟨List.nodup_nil, fun j => ?_, fun j => ?_⟩
  · exact iff_of_false List.not_mem_nil (states j).1
  · exact iff_of_false (states j).2 nofun

theorem PostingInv.reset (s : State) : PostingInv (pinResetState s) := by
  have idle (j : PostSlotId) : (pinResetState s).slot j = PostSlot.reset := by simp [pinResetState, State.slot]
  refine ⟨List.nodup_nil, fun j => ?_, fun j => ?_⟩
  · exact iff_of_false List.not_mem_nil (by rw [idle]; exact PostState.noConfusion)
  · exact iff_of_false (by rw [idle]; exact PostState.noConfusion) nofun

/-- A grant leaves the posting slots, the queue and the slot being carried out alone. -/
theorem grant_engine (s : State) :
    (grant s).slots = s.slots ∧ (grant s).queue = s.queue ∧
      (grant s).working.map Working.slot = s.working.map Working.slot := by
  have up (x : UpTxn) (rest : List UpTxn) : (grantUp x rest s).slots = s.slots ∧ (grantUp x rest s).queue = s.queue ∧
      (grantUp x rest s).working = s.working := by
    cases x <;> exact ⟨rfl, rfl, rfl⟩
  have part (p : PartTxn) (waits : waitingPart s = some p) : (grantPart p s).slots = s.slots ∧
      (grantPart p s).queue = s.queue ∧ (grantPart p s).working.map Working.slot = s.working.map Working.slot := by
    cases p with
    | posting w =>
      have working : s.working = some w := by
        unfold waitingPart at waits
        split at waits
        · next v found => cases waits; exact (Option.filter_eq_some_iff.1 found).1
        · split at waits
          · cases waits
          · obtain ⟨v, -, h⟩ := Option.map_eq_some_iff.1 waits
            cases h
      exact ⟨rfl, rfl, by rw [working]; rfl⟩
    | report x => exact ⟨rfl, rfl, rfl⟩
    | fetch f line => exact ⟨rfl, rfl, rfl⟩
  unfold grant
  split
  · next x rest _ _ => exact ⟨(up x rest).1, (up x rest).2.1, congrArg _ (up x rest).2.2⟩
  · next p _ waits => exact part p waits
  · next x rest p _ waits =>
    split
    · exact ⟨(up x rest).1, (up x rest).2.1, congrArg _ (up x rest).2.2⟩
    · exact part p waits
  · exact ⟨rfl, rfl, rfl⟩

theorem PostingInv.write (inv : PostingInv s) (a : Addr) (d : Line) (e : Enables) (ff : Bool) :
    PostingInv (arriveWrite a d e ff s) := by
  obtain h | ⟨l, k, line, -, h⟩ | ⟨-, -, h⟩ | ⟨off, k, -, -, h⟩ | ⟨-, -, h⟩ := arriveWrite_cases a d e ff s <;> rw [h]
  · exact inv.congr rfl rfl rfl
  · have i := inner_ringStep blind_unit (fun _ _ => rfl) (fun _ _ => rfl) l k line d e ff s
    exact inv.congr i.slots i.queue (congrArg _ i.working)
  · exact inv.congr rfl rfl rfl
  · exact (inv.goWrite k d e).congr rfl rfl rfl
  · exact inv.congr rfl rfl rfl

theorem PostingInv.event (inv : PostingInv s) (ev : Event c s t) : PostingInv t := by
  cases ev with
  | pinReset => exact .reset s
  | pinRelease => exact inv.congr rfl rfl rfl
  | write _ a d e ff => exact inv.write a d e ff
  | writeCompletion => exact inv.congr rfl rfl rfl
  | read _ a =>
    obtain ⟨sv, l, ln, h, -⟩ := arriveRead_spec a s
    rw [h]
    exact inv.congr rfl rfl rfl
  | grant =>
    obtain ⟨slots, queue, working⟩ := grant_engine s
    exact inv.congr slots queue working
  | readReturn _ d err _ a sv rest _ _ =>
    obtain ⟨u, p, i, h⟩ := inner_serveReturn blind_unit (fun _ _ => rfl) a sv d err { s with memReads := rest }
    rw [h]
    exact inv.congr i.slots i.queue (congrArg _ i.working)
  | postingTake _ k rest idle queue => exact inv.take idle queue
  | memoryFault _ _ u k due =>
    obtain ⟨w, line, dead, rest, working, rfl, -, -, rfl⟩ := recordReturns_spec due
    exact (inv.congr (t := { s with memReads := rest }) rfl rfl rfl).finish working _ _
  | posting _ code act _ u k posting due kind =>
    obtain ⟨w, line, dead, rest, working, rfl, -, -, rfl⟩ := recordReturns_spec due
    have taken := inv.congr (t := { s with memReads := rest }) rfl rfl rfl
    by_cases reset : ∃ x, c = .partReset x
    · obtain ⟨x, rfl⟩ := reset
      cases posting
      exact taken.partReset working _ _
    · have i := outer_of_postingOf posting (fun x h => reset ⟨x, h⟩) { s with memReads := rest }
      exact (taken.congr i.slots i.queue (congrArg _ i.working)).finish (i.working.trans working) _ _
  | fetchIssue _ u l _ issued =>
    have i := inner_issueFor blind_unit l s u (scanFetch_spec issued)
    exact inv.congr i.slots i.queue (congrArg _ i.working)
  | fetchComplete d errs _ f _ rest _ =>
    have i := inner_completeFetch blind_unit f d errs { s with memReads := rest }
    exact inv.congr i.slots i.queue (congrArg _ i.working)
  | recordWriteIssue => exact inv.congr rfl rfl rfl
  | recordWriteComplete => exact inv.congr rfl rfl rfl
  | staleExpiry => exact inv.congr rfl rfl rfl
  | feedLost _ l r o _ => exact inv.inner (inner_feedLost blind_unit l r o s)
  | feedFlap _ l _ _ _ => exact inv.inner (inner_feedFlap blind_unit l s)
  | alertExpiry _ a b _ =>
    have i := outer_endAlert a b .expired s
    exact inv.congr i.slots i.queue (congrArg _ i.working)
  | coalesceExpiry => exact inv.congr rfl rfl rfl
  | nothing => exact inv

/-! ## The force list -/

/-- The force list's invariant reads the list and the IN FORCE marks alone. -/
theorem ForceInv.congr (inv : ForceInv s) (list : t.forceList = s.forceList)
    (marks : ∀ a, (t.alert a).inForce = (s.alert a).inForce) : ForceInv t where
  nodup := list ▸ inv.nodup
  inForce a := by rw [list, marks]; exact inv.inForce a

theorem ForceInv.inner {α : Type} {g : OnLane → α} (inv : ForceInv s) (i : Inner g s t) : ForceInv t :=
  inv.congr i.forceList fun a => (i.alert a).2.1

/-- The alert entries of a state that has set one of them. -/
theorem State.alert_of_set {a : AlertId} {x : Alert} (alerts : t.alerts = s.alerts.set a x) (c : AlertId) :
    t.alert c = if c = a then x else s.alert c := by
  rw [State.alert, alerts]
  split
  · next same => subst same; exact vec_get_set_self _ _ _
  · next other => exact vec_get_set_ne _ _ _ _ other

/-- An IDLE alert put in force at the end of the list. -/
theorem ForceInv.add (inv : ForceInv s) {a : AlertId} {x : Alert} (idle : (s.alert a).inForce = false)
    (list : t.forceList = s.forceList ++ [a]) (alerts : t.alerts = s.alerts.set a x) (force : x.inForce = true) :
    ForceInv t where
  nodup := by
    rw [list]
    refine List.nodup_append.2 ⟨inv.nodup, List.nodup_singleton a, fun c mem d single same => ?_⟩
    rw [same, List.mem_singleton.1 single, inv.inForce, idle] at mem
    cases mem
  inForce c := by
    rw [State.alert_of_set alerts, list, List.mem_append, List.mem_singleton]
    split
    · next same => exact iff_of_true (.inr same) force
    · next other => rw [or_iff_left other]; exact inv.inForce c

/-- An alert taken off the list. -/
theorem ForceInv.drop (inv : ForceInv s) {a : AlertId} {x : Alert} (list : t.forceList = s.forceList.filter fun c => c != a)
    (alerts : t.alerts = s.alerts.set a x) (ended : x.inForce = false) : ForceInv t where
  nodup := list ▸ inv.nodup.filter _
  inForce c := by
    rw [State.alert_of_set alerts, list, List.mem_filter]
    split
    · next same => exact iff_of_false (fun h => by simp [same] at h) (by simp [ended])
    · next other => rw [inv.inForce]; simp [other]

theorem ForceInv.start (inv : ForceInv s) {a : AlertId} (idle : (s.alert a).inForce = false) (b : AlertBody) :
    ForceInv (startAlert a b s) := by
  unfold startAlert
  refine ForceInv.inner (g := fun _ => ()) ?_ (inner_handOver _)
  refine ForceInv.inner ?_ (inner_foldl _ (fun u l => inner_joinAlert blind_unit a b l u) _ _)
  exact inv.add idle rfl rfl rfl

theorem ForceInv.ending (inv : ForceInv s) (a : AlertId) (b : AlertBody) (cause : AlertCause) :
    ForceInv (endAlert a b cause s) := by
  have left := inv.inner (inner_leaveAlert blind_unit a s)
  unfold endAlert
  generalize leaveAlert a s = u at left
  exact left.drop rfl rfl rfl

/-- An alert entry's IN FORCE mark stands while lanes are counted for other reasons. -/
theorem forceInv_countLanes (xs : List (AlertId × AlertBody)) :
    ∀ s, ForceInv s → ForceInv (xs.foldl (fun t x => t.modAlert x.1 Alert.countLane) s) := by
  induction xs with
  | nil => exact fun _ inv => inv
  | cons x xs ih =>
    refine fun s inv => ih _ (inv.congr rfl fun a => ?_)
    rw [State.alert_modAlert]
    split
    · next same => rw [same]; rfl
    · rfl

theorem ForceInv.enable (inv : ForceInv s) (l : LaneId) (r : LaneRecord) : ForceInv (enableAccepted l r s) := by
  unfold enableAccepted
  split
  · exact inv.congr rfl fun _ => rfl
  · dsimp only
    have counted := forceInv_countLanes (joinedAlerts s r) _ (inv.congr (t := s.modLane l fun ln =>
      { (if (OnLane.enabledOutput s r).stack.any StackEntry.clash then ln.setFlag .clash else ln) with
        on := some (setSource s r (wantedSource s r (OnLane.enabledOutput s r)) (OnLane.enabledOutput s r)) })
      rfl fun _ => rfl)
    split
    · exact counted.congr rfl fun _ => rfl
    · exact counted

theorem forceInv_empty (list : t.forceList = []) (alerts : t.alerts = Vector.replicate 4 Alert.reset) : ForceInv t := by
  refine ⟨list ▸ List.nodup_nil, fun a => ?_⟩
  rw [list, State.alert, alerts]
  simp [Alert.reset]

theorem ForceInv.write (inv : ForceInv s) (a : Addr) (d : Line) (e : Enables) (ff : Bool) :
    ForceInv (arriveWrite a d e ff s) := by
  obtain h | ⟨l, k, line, -, h⟩ | ⟨-, -, h⟩ | ⟨off, k, -, -, h⟩ | ⟨-, -, h⟩ := arriveWrite_cases a d e ff s <;> rw [h]
  · exact inv.congr rfl fun _ => rfl
  · exact (inv.inner (inner_ringStep blind_unit (fun _ _ => rfl) (fun _ _ => rfl) l k line d e ff s)).congr rfl fun _ => rfl
  · exact inv.congr rfl fun _ => rfl
  · obtain ⟨x, q, h⟩ := takeGoWrite_spec k d e s
    rw [h]
    exact inv.congr rfl fun _ => rfl
  · exact inv.congr rfl fun _ => rfl

/-- A lane disabled: its endings inside the lanes, then its reads abandoned and the lane OFF (R166). -/
theorem disableAccepted_eq {α : Type} {g : OnLane → α} (hg : Blind g) (l : LaneId) (r : LaneRecord) (s : State) :
    ∃ u, Inner g s u ∧ disableAccepted l r s = (u.abandonReads l).modLane l (Lane.turnOff (s.lane l)) :=
  ⟨_, inner_disableBlocks hg l r s, rfl⟩

theorem ForceInv.posted (inv : ForceInv s) (p : Posted c s t) : ForceInv t := by
  cases p with
  | refused => exact inv
  | configure => exact inv.congr rfl fun _ => rfl
  | enable l r => exact inv.enable l r
  | disable l r =>
    obtain ⟨u, i, h⟩ := disableAccepted_eq blind_unit l r s
    rw [h]
    exact (inv.inner i).congr rfl fun _ => rfl
  | declare => exact inv.congr rfl fun _ => rfl
  | clear => exact inv.congr rfl fun _ => rfl
  | load => exact inv.congr rfl fun _ => rfl
  | discard => exact inv.congr rfl fun _ => rfl
  | unbind i => exact (inv.inner (inner_unbind blind_unit i s)).congr rfl fun _ => rfl
  | abort => exact inv.congr rfl fun _ => rfl
  | bind l _ _ i _ e t d => exact inv.inner (inner_bindOrder blind_unit l i e _ t d s)
  | start a b idle => exact inv.start idle b
  | ending a b => exact inv.ending a b _
  | setUp => exact inv.congr rfl fun _ => rfl
  | clearCounters x =>
    refine inv.congr ?_ fun _ => ?_ <;> unfold Machine.clearCounters <;> dsimp only <;> split <;> rfl
  | reset => exact forceInv_empty rfl rfl

/-- A grant leaves the lanes, the tables and the report ring's places alone. -/
theorem grant_tables (s : State) :
    (grant s).lanes = s.lanes ∧ (grant s).clips = s.clips ∧ (grant s).orders = s.orders ∧ (grant s).alerts = s.alerts ∧
      (grant s).forceList = s.forceList ∧
      ((grant s).report = s.report ∨ ∃ x, s.report.flight = some x ∧
        (grant s).report = { s.report with flight := some { x with granted := true } }) := by
  have up (x : UpTxn) (rest : List UpTxn) : (grantUp x rest s).lanes = s.lanes ∧ (grantUp x rest s).clips = s.clips ∧
      (grantUp x rest s).orders = s.orders ∧ (grantUp x rest s).alerts = s.alerts ∧
      (grantUp x rest s).forceList = s.forceList ∧
      ((grantUp x rest s).report = s.report ∨ ∃ x', s.report.flight = some x' ∧
        (grantUp x rest s).report = { s.report with flight := some { x' with granted := true } }) := by
    cases x <;> exact ⟨rfl, rfl, rfl, rfl, rfl, .inl rfl⟩
  have part (p : PartTxn) (waits : waitingPart s = some p) : (grantPart p s).lanes = s.lanes ∧
      (grantPart p s).clips = s.clips ∧
      (grantPart p s).orders = s.orders ∧ (grantPart p s).alerts = s.alerts ∧
      (grantPart p s).forceList = s.forceList ∧
      ((grantPart p s).report = s.report ∨ ∃ x, s.report.flight = some x ∧
        (grantPart p s).report = { s.report with flight := some { x with granted := true } }) := by
    cases p with
    | posting w => exact ⟨rfl, rfl, rfl, rfl, rfl, .inl rfl⟩
    | fetch f line => exact ⟨rfl, rfl, rfl, rfl, rfl, .inl rfl⟩
    | report x =>
      refine ⟨rfl, rfl, rfl, rfl, rfl, .inr ⟨x, ?_, rfl⟩⟩
      unfold waitingPart at waits
      split at waits
      · cases waits
      · split at waits
        · next y found => cases waits; exact (Option.filter_eq_some_iff.1 found).1
        · obtain ⟨v, -, h⟩ := Option.map_eq_some_iff.1 waits
          cases h
  unfold grant
  split
  · next x rest _ _ => exact up x rest
  · next p _ waits => exact part p waits
  · next x rest p _ waits =>
    split
    · exact up x rest
    · exact part p waits
  · exact ⟨rfl, rfl, rfl, rfl, rfl, .inl rfl⟩

theorem ForceInv.event (inv : ForceInv s) (ev : Event c s t) : ForceInv t := by
  cases ev with
  | pinReset => exact forceInv_empty rfl rfl
  | pinRelease => exact inv.congr rfl fun _ => rfl
  | write _ a d e ff => exact inv.write a d e ff
  | writeCompletion => exact inv.congr rfl fun _ => rfl
  | read _ a =>
    obtain ⟨sv, l, ln, h, -⟩ := arriveRead_spec a s
    rw [h]
    exact inv.congr rfl fun _ => rfl
  | grant =>
    obtain ⟨-, -, -, alerts, list, -⟩ := grant_tables s
    exact inv.congr list fun a => by rw [State.alert, alerts]; rfl
  | readReturn _ d err _ a sv rest _ _ =>
    obtain ⟨u, p, i, h⟩ := inner_serveReturn blind_unit (fun _ _ => rfl) a sv d err { s with memReads := rest }
    rw [h]
    exact ((inv.congr (t := { s with memReads := rest }) rfl fun _ => rfl).inner i).congr rfl fun _ => rfl
  | postingTake _ k rest _ _ =>
    refine inv.congr ?_ fun _ => ?_ <;> unfold takePosting <;> split <;> rfl
  | memoryFault _ _ u _ due =>
    obtain ⟨w, line, dead, rest, -, -, -, -, rfl⟩ := recordReturns_spec due
    exact inv.congr rfl fun _ => rfl
  | posting _ code act _ u k posting due kind =>
    obtain ⟨w, line, dead, rest, -, -, -, -, rfl⟩ := recordReturns_spec due
    have taken := inv.congr (t := { s with memReads := rest }) rfl fun _ => rfl
    exact (taken.posted (posted_of_postingOf posting _)).congr rfl fun _ => rfl
  | fetchIssue _ u l _ issued =>
    exact (inv.inner (inner_issueFor blind_unit l s u (scanFetch_spec issued))).congr rfl fun _ => rfl
  | fetchComplete d errs _ f _ rest _ =>
    exact (inv.congr (t := { s with memReads := rest }) rfl fun _ => rfl).inner
      (inner_completeFetch blind_unit f d errs { s with memReads := rest })
  | recordWriteIssue => exact inv.congr rfl fun _ => rfl
  | recordWriteComplete => exact inv.congr rfl fun _ => rfl
  | staleExpiry => exact inv.congr rfl fun _ => rfl
  | feedLost _ l r o _ => exact inv.inner (inner_feedLost blind_unit l r o s)
  | feedFlap _ l _ _ _ => exact inv.inner (inner_feedFlap blind_unit l s)
  | alertExpiry _ a b _ => exact inv.ending a b _
  | coalesceExpiry => exact inv.congr rfl fun _ => rfl
  | nothing => exact inv

/-! ## The recent-cue lists -/

/-- The recent-cue lists' invariant reads the lists of the ON lanes alone. -/
theorem CueInv.congr (inv : CueInv s) (cues : ∀ l, (t.lane l).on.map OnLane.cues = (s.lane l).on.map OnLane.cues) :
    CueInv t := fun l o on => by
  have same := cues l
  rw [on] at same
  obtain ⟨p, found, eq⟩ := Option.map_eq_some_iff.1 same.symm
  rw [← eq]
  exact inv l p found

theorem CueInv.inner (inv : CueInv s) (i : Inner OnLane.cues s t) : CueInv t := inv.congr i.on

/-- A lane set OFF, or ON with no recent cue, keeps the invariant. -/
theorem CueInv.set (inv : CueInv s) (l : LaneId) (x : Lane) (fresh : ∀ o, x.on = some o → o.cues = []) :
    CueInv (s.setLane l x) := fun k o on => by
  rw [State.lane_setLane] at on
  split at on
  · rw [fresh o on]; exact ⟨Nat.zero_le 8, List.nodup_nil⟩
  · exact inv k o on

/-- A cue of another event number or kind joins a recent-cue list (R37). -/
theorem joinCues_keeps {cues : List RecentCue} {e : RecentCue} (length : cues.length ≤ 8)
    (nodup : (cues.map fun e => (e.event, e.kind)).Nodup) (new : ∀ x ∈ cues, ¬ (x.event = e.event ∧ x.kind = e.kind)) :
    (joinCues cues e).length ≤ 8 ∧ ((joinCues cues e).map fun e => (e.event, e.kind)).Nodup := by
  have joined (xs : List RecentCue) (sub : xs.Sublist cues) : ((xs ++ [e]).map fun e => (e.event, e.kind)).Nodup := by
    rw [List.map_append, List.nodup_append]
    refine ⟨nodup.sublist (sub.map _), List.nodup_singleton _, fun a mem b single same => ?_⟩
    obtain ⟨x, hx, rfl⟩ := List.mem_map.1 mem
    have key := same.trans (List.mem_singleton.1 single)
    exact new x (sub.subset hx) ⟨congrArg Prod.fst key, congrArg Prod.snd key⟩
  unfold joinCues
  split
  · next room => exact ⟨by simpa using room, joined cues (List.Sublist.refl _)⟩
  · refine ⟨?_, joined cues.tail (List.tail_sublist _)⟩
    rw [List.length_append, List.length_tail, List.length_singleton]
    omega

/-- A cue taken: counted as a duplicate, or judged and listed (R37). -/
theorem CueInv.takeCue (inv : CueInv s) (l : LaneId) (c : Cue) (a : Arrival) : CueInv (takeCue l c a s) := by
  unfold Machine.takeCue
  split
  · exact inv
  · next r o on =>
    obtain ⟨-, on⟩ := onLane_spec.1 on
    split
    · exact inv.inner (inner_raise l _)
    · next fresh =>
      dsimp only
      generalize cueTiming o.clock r.lateGrace (presentation o.clock r.playDelay (some a)) c = timing
      have i := inner_decideCue blind_cues l timing c s
      have decided := inv.inner i
      have listed : CueInv ((decideCue l timing c s).2.modOn l fun o =>
          { o with cues := joinCues o.cues { event := c.event, kind := c.kind, outcome := (decideCue l timing c s).1 } }) := by
        intro k p onNow
        rw [State.lane_modOn] at onNow
        split at onNow
        · obtain ⟨q, found, rfl⟩ := Option.map_eq_some_iff.1 onNow
          have same := i.on l
          rw [found, on] at same
          have same : q.cues = o.cues := Option.some.inj same
          obtain ⟨length, nodup⟩ := inv l o on
          simp only [same]
          refine joinCues_keeps length nodup fun x mem eq => fresh (List.any_eq_true.2 ⟨x, mem, ?_⟩)
          simpa using eq
        · exact decided k p onNow
      split
      · exact listed.inner (inner_handOver _)
      · exact listed

theorem CueInv.parseSlot (inv : CueInv s) (l : LaneId) (r : LaneRecord) (x : SlotData) : CueInv (parseSlot l r x s) := by
  have refreshed (c : Counter) (f : Flag) (a : Arrival) : CueInv (refreshStep l a (s.note l c f)) :=
    inv.inner ((inner_note l c f).trans (inner_refreshStep blind_cues l a _))
  unfold Machine.parseSlot
  dsimp only
  split
  · exact refreshed _ _ _
  · split
    · exact refreshed _ _ _
    · exact refreshed _ _ _
    · have clocked := inv.inner (inner_clockStep blind_cues l r (slotPacket x) (slotStamp x) s)
      unfold cueStep
      split
      · split
        · exact clocked.inner (inner_raise l _)
        · split
          · exact clocked.inner (inner_raise l _)
          · exact clocked.inner ((inner_note l _ _).trans (inner_handOver _))
          · exact clocked.takeCue l _ _
      · exact clocked

/-- The tracker's and the taps' part of an ingest (R10, R75), before the feed monitor and the parser. -/
def ingestBase (l : LaneId) (r : LaneRecord) (slot : SlotData) (s : State) : State :=
  let overrun := match (s.lane l).on with
    | some o => o.track.overruns r
    | none => false
  let s := s.modOn l fun o => { o with track := o.track.ingestSlot r (slotStamp slot) }
  let s := if overrun then s.note l .overrun .overrun else s
  if r.role = .source then tapsIngest l r.slots s else s

theorem ingestStep_eq (l : LaneId) (r : LaneRecord) (slot : SlotData) (ff : Bool) (s : State) :
    ingestStep l r slot ff s =
      if ff then parseSlot l r slot (feedIngest l (ingestBase l r slot s))
      else feedIngest l (parseSlot l r slot (ingestBase l r slot s)) := rfl

theorem inner_ingestBase {α : Type} {g : OnLane → α} (hg : Blind g) (ht : ∀ o x, g { o with track := x } = g o) (l : LaneId)
    (r : LaneRecord) (x : SlotData) (s : State) : Inner g s (ingestBase l r x s) := by
  have ingested : Inner g s (s.modOn l fun o => { o with track := o.track.ingestSlot r (slotStamp x) }) :=
    (Inner.refl s).modOn fun o => ht o _
  have noted := Inner.ite (c := (match (s.lane l).on with
    | some o => o.track.overruns r
    | none => false) = true) (ingested.note (l := l) (c := .overrun) (f := .overrun)) ingested
  exact Inner.ite (noted.trans (inner_tapsIngest hg l r.slots _)) noted

theorem CueInv.ingestStep (inv : CueInv s) (l : LaneId) (r : LaneRecord) (x : SlotData) (ff : Bool) :
    CueInv (ingestStep l r x ff s) := by
  have based := inv.inner (inner_ingestBase blind_cues (fun _ _ => rfl) l r x s)
  rw [ingestStep_eq]
  split
  · exact (based.inner (inner_feedIngest blind_cues l _)).parseSlot l r x
  · exact (based.parseSlot l r x).inner (inner_feedIngest blind_cues l _)

theorem CueInv.ringStep (inv : CueInv s) (l : LaneId) (k line : Nat) (d : Line) (e : Enables) (ff : Bool) :
    CueInv (ringStep l k line d e ff s) := by
  unfold Machine.ringStep
  split
  · exact inv
  · split
    · exact inv.inner (inner_resyncStep blind_cues (fun _ _ => rfl) l _ k line d e s)
    · split
      · dsimp only
        have accepted (x : SlotData) (n : IngestCursor) :=
          inv.inner (inner_modOn l (fun o => { o with track := { o.track with assembly := x, ingest := n } }) fun _ => rfl)
        split
        · exact accepted _ _
        · exact (accepted _ _).ingestStep l _ _ ff
      · exact inv.inner ((inner_loseSync blind_cues (fun _ _ => rfl) l _ s).trans
          (inner_resyncStep blind_cues (fun _ _ => rfl) l _ k line d e _))

theorem CueInv.write (inv : CueInv s) (a : Addr) (d : Line) (e : Enables) (ff : Bool) : CueInv (arriveWrite a d e ff s) := by
  obtain h | ⟨l, k, line, -, h⟩ | ⟨-, -, h⟩ | ⟨off, k, -, -, h⟩ | ⟨-, -, h⟩ := arriveWrite_cases a d e ff s <;> rw [h]
  · exact inv
  · exact (inv.ringStep l k line d e ff).congr fun _ => rfl
  · exact inv
  · obtain ⟨x, q, h⟩ := takeGoWrite_spec k d e s
    rw [h]
    exact inv.congr fun _ => rfl
  · exact inv

/-- What an enabled lane is: the lane alone is set, ON with an empty tracker and no recent cue; beside it only clip locks and
alert lane counts move. -/
theorem enableAccepted_lanes (l : LaneId) (r : LaneRecord) (s : State) :
    ∃ ln o, (enableAccepted l r s).lanes = (s.setLane l ln).lanes ∧ ln.on = some o ∧ o.cues = [] ∧
      o.track = Tracker.enabled r ∧ ln.record = (s.lane l).record := by
  have counted (xs : List (AlertId × AlertBody)) (u : State) :
      (xs.foldl (fun t x => t.modAlert x.1 Alert.countLane) u).lanes = u.lanes := by
    induction xs generalizing u with
    | nil => rfl
    | cons x xs ih => exact ih _
  unfold enableAccepted
  split
  · exact ⟨_, _, rfl, rfl, rfl, rfl, rfl⟩
  · dsimp only
    refine ⟨{ (if (OnLane.enabledOutput s r).stack.any StackEntry.clash then (s.lane l).setFlag .clash else s.lane l) with
      on := some (setSource s r (wantedSource s r (OnLane.enabledOutput s r)) (OnLane.enabledOutput s r)) }, _, ?_, rfl,
      rfl, rfl, ?_⟩
    · split
      · exact counted _ _
      · exact counted _ _
    · dsimp only
      split <;> rfl

/-- The counters cleared leave every lane's record and context. -/
theorem clearCounters_lane (x : RecordData) (s : State) (l : LaneId) :
    ((clearCounters x s).1.lane l).on = (s.lane l).on ∧ ((clearCounters x s).1.lane l).record = (s.lane l).record := by
  have lane (lanes : (clearCounters x s).1.lanes =
      mapEntries (fun l ln => if (field x 0 8).testBit l then ln.clearCounts else ln) s.lanes) :
      (clearCounters x s).1.lane l = if (field x 0 8).testBit l then (s.lane l).clearCounts else s.lane l := by
    rw [State.lane, lanes, mapEntries_get]
    rfl
  rw [lane (by unfold clearCounters; dsimp only; split <;> rfl)]
  split <;> exact ⟨rfl, rfl⟩

theorem CueInv.off (lanes : t.lanes = Vector.replicate 64 Lane.reset) : CueInv t := fun l o on => by
  rw [State.lane, lanes] at on
  simp [Lane.reset] at on

theorem CueInv.ending (inv : CueInv s) (a : AlertId) (b : AlertBody) (cause : AlertCause) : CueInv (endAlert a b cause s) := by
  have left := inv.inner (inner_leaveAlert blind_cues a s)
  unfold endAlert
  generalize leaveAlert a s = u at left
  exact left

theorem CueInv.posted (inv : CueInv s) (p : Posted c s t) : CueInv t := by
  cases p with
  | refused => exact inv
  | configure l x off => exact inv.set l _ fun o on => nomatch off.symm.trans on
  | enable l r =>
    obtain ⟨ln, o, lanes, on, cues, -⟩ := enableAccepted_lanes l r s
    refine (inv.set l ln fun p found => ?_).congr fun k => by rw [State.lane, lanes]; rfl
    cases on.symm.trans found
    exact cues
  | disable l r =>
    obtain ⟨u, i, h⟩ := disableAccepted_eq blind_cues l r s
    rw [h]
    have abandoned : CueInv (u.abandonReads l) := (inv.inner i).congr fun _ => rfl
    exact abandoned.set l _ fun o on => nomatch (show none = some o from on)
  | declare => exact inv
  | clear => exact inv
  | load => exact inv
  | discard => exact inv
  | unbind i => exact (inv.inner (inner_unbind blind_cues i s)).congr fun _ => rfl
  | abort => exact inv
  | bind l _ _ i _ e t d => exact inv.inner (inner_bindOrder blind_cues l i e _ t d s)
  | start a b =>
    unfold startAlert
    refine CueInv.inner ?_ (inner_handOver _)
    refine CueInv.inner ?_ (inner_foldl _ (fun u l => inner_joinAlert blind_cues a b l u) _ _)
    exact inv
  | ending a b => exact inv.ending a b _
  | setUp => exact inv
  | clearCounters x => exact inv.congr fun l => by rw [(clearCounters_lane x s l).1]
  | reset => exact .off rfl

theorem CueInv.event (inv : CueInv s) (ev : Event c s t) : CueInv t := by
  cases ev with
  | pinReset => exact .off rfl
  | pinRelease => exact inv
  | write _ a d e ff => exact inv.write a d e ff
  | writeCompletion => exact inv
  | read _ a =>
    obtain h | ⟨l, k, r, o, -, -, -, h⟩ | ⟨l, k, line, r, o, -, -, -, -, h⟩ := arriveRead_cases a s
    · obtain ⟨sv, h⟩ := h
      rw [h]
      exact inv
    · rw [h]
      have jumped : CueInv (if o.track.jumps k then s.note l .jump .jump else s) :=
        inv.inner (Inner.ite (inner_note l _ _) (Inner.refl s))
      exact (jumped.inner (inner_modOn l (fun o => { o with track := o.track.claim r.slots k }) fun _ => rfl)).congr
        fun _ => rfl
    · rw [h]
      exact (inv.inner (inner_note l _ _)).congr fun _ => rfl
  | grant =>
    obtain ⟨lanes, -⟩ := grant_tables s
    exact inv.congr fun l => by rw [State.lane, lanes]; rfl
  | readReturn _ d err _ a sv rest _ _ =>
    obtain ⟨u, p, i, h⟩ := inner_serveReturn blind_cues (fun _ _ => rfl) a sv d err { s with memReads := rest }
    rw [h]
    have taken : CueInv { s with memReads := rest } := inv
    exact (taken.inner i).congr fun _ => rfl
  | postingTake _ k rest _ _ =>
    refine inv.congr fun _ => ?_
    unfold takePosting
    split <;> rfl
  | memoryFault _ _ u _ due =>
    obtain ⟨w, line, dead, rest, -, -, -, -, rfl⟩ := recordReturns_spec due
    exact inv
  | posting _ code act _ u k posting due kind =>
    obtain ⟨w, line, dead, rest, -, -, -, -, rfl⟩ := recordReturns_spec due
    have taken : CueInv { s with memReads := rest } := inv
    exact (taken.posted (posted_of_postingOf posting _)).congr fun _ => rfl
  | fetchIssue _ u l _ issued =>
    exact (inv.inner (inner_issueFor blind_cues l s u (scanFetch_spec issued))).congr fun _ => rfl
  | fetchComplete d errs _ f _ rest _ =>
    have taken : CueInv { s with memReads := rest } := inv
    exact taken.inner (inner_completeFetch blind_cues f d errs _)
  | recordWriteIssue => exact inv
  | recordWriteComplete => exact inv
  | staleExpiry _ l _ _ an cap _ _ =>
    exact inv.inner ((inner_modOn l (fun o => { o with clock := .stale an cap }) fun _ => rfl).note)
  | feedLost _ l r o _ => exact inv.inner (inner_feedLost blind_cues l r o s)
  | feedFlap _ l _ _ _ => exact inv.inner (inner_feedFlap blind_cues l s)
  | alertExpiry _ a b _ => exact inv.ending a b _
  | coalesceExpiry => exact inv
  | nothing => exact inv

/-- Settles O5, each list's invariant over the events of a step. -/
theorem listInvariants : Obligations.ListInvariants := by
  unfold Obligations.ListInvariants
  refine ⟨fun s t inv next => ?_, fun s t inv next => ?_, fun s t inv next => ?_⟩
  · exact step_keeps (P := PostingInv) (fun _ _ h => h.congr rfl rfl rfl) (fun _ _ _ _ h => h.congr rfl rfl rfl)
      (fun _ _ _ h ev => h.event ev) s t inv next
  · exact step_keeps (P := ForceInv) (fun _ _ h => h.congr rfl fun _ => rfl) (fun _ _ _ _ h => h.congr rfl fun _ => rfl)
      (fun _ _ _ h ev => h.event ev) s t inv next
  · exact step_keeps (P := CueInv) (fun _ _ h => h) (fun _ _ _ _ h => h) (fun _ _ _ h ev => h.event ev) s t inv next

end Sys2Proof.Machine
end

section
/-! PROOF. The report writer under every event (R174 to R182): O6, and every invariant at reset, O4. -/

namespace Sys2Proof.Machine

variable {s t : State} {c : Instr} {r q : Report}

/-! ## Places of a ring -/

/-- The distance between two places of a ring, without its remainder. -/
theorem ringDiff_of_lt {a b n : Nat} (ha : a < n) (hb : b < n) : ringDiff a b n = if b ≤ a then a - b else a + n - b := by
  unfold ringDiff
  split
  · rw [show a + n - b = a - b + n by omega, Nat.add_mod_right, Nat.mod_eq_of_lt (by omega)]
  · exact Nat.mod_eq_of_lt (by omega)

theorem ringDiff_lt {a b n : Nat} (hb : b < n) : ringDiff a b n < n := Nat.mod_lt _ (by omega)

/-- The next place of a ring. -/
theorem succ_mod {a n : Nat} (ha : a < n) : (a + 1) % n = if a + 1 = n then 0 else a + 1 := by
  split
  · next full => rw [full, Nat.mod_self]
  · exact Nat.mod_eq_of_lt (by omega)

/-- A ring with a free place: its head moved up is one further from its tail. -/
theorem ringDiff_succ {a b n : Nat} (ha : a < n) (hb : b < n) (room : ringDiff a b n + 1 < n) :
    ringDiff ((a + 1) % n) b n = ringDiff a b n + 1 := by
  have next : (a + 1) % n < n := Nat.mod_lt _ (by omega)
  rw [ringDiff_of_lt ha hb] at room
  rw [ringDiff_of_lt next hb, ringDiff_of_lt ha hb, succ_mod ha]
  split_ifs at room ⊢ <;> omega

/-- A tail moved up to `v`, no further than the head, leaves the rest of the distance. -/
theorem ringDiff_from {a b v n : Nat} (ha : a < n) (hb : b < n) (hv : v < n) (within : ringDiff v b n ≤ ringDiff a b n) :
    ringDiff a v n = ringDiff a b n - ringDiff v b n := by
  rw [ringDiff_of_lt ha hb, ringDiff_of_lt hv hb] at within
  rw [ringDiff_of_lt ha hv, ringDiff_of_lt ha hb, ringDiff_of_lt hv hb]
  split_ifs at within ⊢ <;> omega

theorem heldAt_le (limit n : Nat) : heldAt limit n ≤ limit := Nat.min_le_right _ _

/-! ## The report writer's invariant -/

/-- The report writer's invariant as a property of the report writer alone. -/
def Report.Sound (r : Report) : Prop := ReportRanges r ∧ AttentionInv r

theorem reportInv_iff : ReportInv s ↔ s.report.Sound := ⟨fun h => ⟨h.ranges, h.attention⟩, fun h => ⟨h.1, h.2⟩⟩

theorem Report.unread_of_ring {g : RingSetup} (ring : r.setup = some g) : r.unread = ringDiff r.w r.h g.size := by
  unfold Report.unread
  rw [ring]

/-- A report writer of the same ring, places, timer, urgent position and line, with no other write in flight, keeps the
invariant. -/
theorem AttentionInv.congr (inv : AttentionInv r) (setup : q.setup = r.setup) (w : q.w = r.w) (h : q.h = r.h)
    (urgentPos : q.urgentPos = r.urgentPos) (timer : q.timer = r.timer) (line : q.attention = r.attention)
    (flight : ∀ x, q.flight = some x → x.abandoned = false → ∃ y, r.flight = some y ∧ y.abandoned = false) :
    AttentionInv q := by
  have unread : q.unread = r.unread := by unfold Report.unread; rw [setup, w, h]
  have causes : q.anyCause = r.anyCause := by
    simp only [Report.anyCause, Report.thresholdCause, Report.coalesceCause, Report.urgentCause, unread, setup, urgentPos,
      timer]
  refine ⟨by rw [line, causes]; exact inv.line, ?_, ?_, fun g x ring found kept => ?_⟩
  · rw [setup, timer, unread]; exact inv.timer
  · rw [setup, urgentPos, unread, h]; exact inv.urgent
  · obtain ⟨y, had, notAbandoned⟩ := flight x found kept
    rw [unread]
    exact inv.flight g y (setup ▸ ring) had notAbandoned

theorem ReportRanges.congr (inv : ReportRanges r) (setup : q.setup = r.setup) (w : q.w = r.w) (h : q.h = r.h)
    (gap : q.gap ≤ 65535) (queue : q.queue.length ≤ 32) : ReportRanges q where
  gap := gap
  queue := queue
  ring := by rw [setup, w, h]; exact inv.ring

/-! ## The report writer's own operations -/

theorem Report.Sound.handOver (inv : r.Sound) (x : AsRun) : (r.handOver x).Sound := by
  obtain ⟨setup, w, h, flight, -, urgentPos, timer, -, line⟩ := handOver_frame r x
  refine ⟨inv.1.congr setup w h ?_ ?_,
    inv.2.congr setup w h urgentPos timer line fun y found kept => ⟨y, flight ▸ found, kept⟩⟩
  · unfold Report.handOver
    split
    · exact inv.1.gap
    · exact heldAt_le _ _
  · unfold Report.handOver
    split
    · next room => rw [List.length_append, List.length_singleton]; omega
    · exact inv.1.queue

theorem Report.Sound.handOvers (xs : List AsRun) : ∀ {r : Report}, r.Sound → (xs.foldl Report.handOver r).Sound := by
  induction xs with
  | nil => exact id
  | cons x xs ih => exact fun inv => ih (inv.handOver x)

theorem Report.Sound.issue (inv : r.Sound) : r.issue.Sound := by
  unfold Report.issue
  split
  · next g x rest ring queue idle =>
    have room : rest.length ≤ 32 := by
      have := inv.1.queue
      rw [queue, List.length_cons] at this
      omega
    split
    · refine ⟨inv.1.congr rfl rfl rfl (heldAt_le _ _) room, inv.2.congr rfl rfl rfl rfl rfl rfl fun y found => ?_⟩
      rw [idle] at found
      cases found
    · next free =>
      refine ⟨inv.1.congr rfl rfl rfl (Nat.zero_le _) room, ⟨inv.2.line, inv.2.timer, inv.2.urgent, fun g' y ring' _ _ => ?_⟩⟩
      cases ring.symm.trans ring'
      obtain ⟨-, -, -, hw, hh⟩ := inv.1.ring g ring
      change r.unread + 1 < g.size
      rw [Report.unread_of_ring ring] at free ⊢
      have := ringDiff_lt (a := r.w) hh
      omega
  · exact inv

/-- A record write completed: its place is unread now, and an urgent one is the urgent position (R176). -/
theorem Report.Sound.written (inv : r.Sound) {g : RingSetup} (ring : r.setup = some g) {x : RecordWrite}
    (room : r.unread + 1 < g.size) (now : Millis) : (r.written g x now).Sound := by
  obtain ⟨size, most, threshold, hw, hh⟩ := inv.1.ring g ring
  have unread : (r.written g x now).unread = r.unread + 1 := by
    rw [Report.unread_of_ring (r := r.written g x now) ring, Report.unread_of_ring ring]
    exact ringDiff_succ hw hh (by rwa [Report.unread_of_ring ring] at room)
  refine ⟨⟨inv.1.gap, inv.1.queue, fun g' ring' => ?_⟩, rfl, fun set => ?_, fun g' u ring' pos => ?_, fun _ _ _ found => ?_⟩
  · cases ring.symm.trans ring'
    exact ⟨size, most, threshold, Nat.mod_lt _ (by omega), hh⟩
  · refine iff_of_false ?_ (by omega)
    change (if r.unread = 0 then CoalesceTimer.running now else r.timer) ≠ .stopped
    split
    · exact CoalesceTimer.noConfusion
    · next some_ => exact fun stopped => some_ ((inv.2.timer set).1 stopped)
  · cases ring.symm.trans ring'
    rw [unread]
    change u < g.size ∧ ringDiff u r.h g.size < _
    have pos : (if g.isUrgent x.kind then some r.w else r.urgentPos) = some u := pos
    split at pos
    · cases pos
      rw [Report.unread_of_ring ring]
      exact ⟨hw, by omega⟩
    · obtain ⟨place, within⟩ := inv.2.urgent g u ring pos
      exact ⟨place, by omega⟩
  · cases found

theorem Report.Sound.complete (inv : r.Sound) {err : Bool} {now : Millis} (completes : r.complete err now = some q) :
    q.Sound := by
  have landed (gap : Nat) (most : gap ≤ 65535) : Report.Sound { r with flight := none, gap := gap } :=
    ⟨inv.1.congr rfl rfl rfl most inv.1.queue, inv.2.congr rfl rfl rfl rfl rfl rfl fun x found => nomatch found⟩
  unfold Report.complete at completes
  split at completes
  · cases completes
    exact ⟨inv.1.congr rfl rfl rfl inv.1.gap inv.1.queue, inv.2.congr rfl rfl rfl rfl rfl rfl fun x h k => ⟨x, h, k⟩⟩
  · split at completes
    · next x g found ring =>
      split at completes
      · cases completes
      · split at completes
        · cases completes
          exact landed r.gap inv.1.gap
        · next kept =>
          cases completes
          split
          · exact landed _ (heldAt_le _ _)
          · exact inv.written ring (inv.2.flight g x ring found (by simpa using kept)) now
    · cases completes

/-- The report writer after a read index `v` accepted (R178): what lies before it is read. -/
def Report.readUpTo (r : Report) (g : RingSetup) (v : Nat) : Report :=
  ({ r with
      h := v
      urgentPos := r.urgentPos.filter fun u => !decide (ringDiff u r.h g.size < ringDiff v r.h g.size)
      timer := if ringDiff r.w v g.size = 0 then .stopped else r.timer }).judge

theorem Report.readIndex_of_ring {g : RingSetup} (ring : r.setup = some g) (v : Nat) :
    r.readIndex v =
      if v < g.size ∧ ringDiff v r.h g.size ≤ r.unread then r.readUpTo g v else { r with badIndex := true } := by
  unfold Report.readIndex Report.readUpTo
  rw [ring]
  cases h : r.urgentPos with
  | none => rfl
  | some u => by_cases released : ringDiff u r.h g.size < ringDiff v r.h g.size <;> simp [released, Option.filter]

theorem Report.readIndex_of_unset (unset : r.setup = none) (v : Nat) : r.readIndex v = { r with badIndex := true } := by
  unfold Report.readIndex
  split
  · rfl
  · next ring => cases unset.symm.trans ring

theorem Report.Sound.readUpTo (inv : r.Sound) {g : RingSetup} (ring : r.setup = some g) {v : Nat} (hv : v < g.size)
    (within : ringDiff v r.h g.size ≤ r.unread) : (r.readUpTo g v).Sound := by
  obtain ⟨size, most, threshold, hw, hh⟩ := inv.1.ring g ring
  rw [Report.unread_of_ring ring] at within
  have left := ringDiff_from hw hh hv within
  have unread : (r.readUpTo g v).unread = ringDiff r.w v g.size := Report.unread_of_ring (r := r.readUpTo g v) ring
  refine ⟨⟨inv.1.gap, inv.1.queue, fun g' ring' => ?_⟩, rfl, fun set => ?_, fun g' u ring' pos => ?_,
    fun g' x ring' found kept => ?_⟩
  · cases ring.symm.trans ring'
    exact ⟨size, most, threshold, hw, hv⟩
  · rw [unread]
    change (if ringDiff r.w v g.size = 0 then CoalesceTimer.stopped else r.timer) = .stopped ↔ _
    split
    · next none_ => exact iff_of_true rfl none_
    · next some_ =>
      refine iff_of_false (fun stopped => some_ ?_) some_
      have := (inv.2.timer set).1 stopped
      rw [Report.unread_of_ring ring] at this
      omega
  · cases ring.symm.trans ring'
    obtain ⟨old, kept⟩ := Option.filter_eq_some_iff.1 pos
    obtain ⟨place, span⟩ := inv.2.urgent g u ring old
    rw [Report.unread_of_ring ring] at span
    have kept : ¬ ringDiff u r.h g.size < ringDiff v r.h g.size := by simpa using kept
    rw [unread]
    refine ⟨place, ?_⟩
    change ringDiff u v g.size < ringDiff r.w v g.size
    rw [left, ringDiff_from place hh hv (by omega)]
    omega
  · cases ring.symm.trans ring'
    have room := inv.2.flight g x ring found kept
    rw [Report.unread_of_ring ring] at room
    rw [unread]
    omega

theorem Report.Sound.readIndex (inv : r.Sound) (v : Nat) : (r.readIndex v).Sound := by
  have marked : Report.Sound { r with badIndex := true } :=
    ⟨inv.1.congr rfl rfl rfl inv.1.gap inv.1.queue, inv.2.congr rfl rfl rfl rfl rfl rfl fun x h k => ⟨x, h, k⟩⟩
  cases ring : r.setup with
  | none => rw [Report.readIndex_of_unset ring]; exact marked
  | some g =>
    rw [Report.readIndex_of_ring ring]
    split
    · next accepted => exact inv.readUpTo ring accepted.1 accepted.2
    · exact marked

theorem Report.Sound.indexWrite (inv : r.Sound) (d : Line) (e : Enables) : (r.indexWrite d e).Sound := by
  unfold Report.indexWrite
  dsimp only
  split
  · exact inv
  · split
    · exact inv.readIndex _
    · exact ⟨inv.1.congr rfl rfl rfl inv.1.gap inv.1.queue, inv.2.congr rfl rfl rfl rfl rfl rfl fun x h k => ⟨x, h, k⟩⟩

theorem Report.Sound.coalesceExpiry (inv : r.Sound) (now : Millis) : (r.coalesceExpiry now).Sound := by
  unfold Report.coalesceExpiry
  split
  · next g start ring running =>
    split
    · refine ⟨inv.1.congr rfl rfl rfl inv.1.gap inv.1.queue, rfl, fun set => ?_, inv.2.urgent, inv.2.flight⟩
      refine iff_of_false CoalesceTimer.noConfusion fun none_ => ?_
      have := (inv.2.timer set).2 none_
      rw [running] at this
      cases this
    · exact inv
  · exact inv

theorem Report.sound_setUp {x : RecordData} (fields : firstBad (reportChecks x) = none) (r : Report) :
    (r.setUp (ringSetupOf x)).Sound := by
  have ok := (reportChecks_iff x).1.1 fields
  have size := ok 2
  have threshold := ok 3
  simp only [ReportFieldBad, not_or, Nat.not_lt, Nat.not_le] at size threshold
  have ring : (ringSetupOf x).size = field x 0x08 4 ∧ (ringSetupOf x).threshold = field x 0x0C 1 := ⟨rfl, rfl⟩
  have unread : (r.setUp (ringSetupOf x)).unread = 0 := by
    rw [Report.unread_of_ring (r := r.setUp (ringSetupOf x)) rfl]
    change (0 + (ringSetupOf x).size - 0) % (ringSetupOf x).size = 0
    simp
  refine ⟨⟨Nat.zero_le _, Nat.zero_le _, fun g set => ?_⟩, ?_, fun _ => iff_of_true rfl unread, nofun, fun g y set found kept => ?_⟩
  · cases set
    exact ⟨by omega, by omega, by omega, by change 0 < _; omega, by change 0 < _; omega⟩
  · have low : (r.setUp (ringSetupOf x)).thresholdCause = false := by
      change decide ((ringSetupOf x).threshold ≤ _) = false
      rw [unread]
      exact decide_eq_false (by omega)
    have timed : (r.setUp (ringSetupOf x)).coalesceCause = false := by
      change (true && _ && false) = false
      exact Bool.and_false _
    change false = _
    rw [Report.anyCause, low, timed]
    rfl
  · obtain ⟨z, -, rfl⟩ := Option.map_eq_some_iff.1 (show r.flight.map _ = some y from found)
    cases kept

/-- A report writer with no ring set and nothing asserted keeps the invariant. -/
theorem Report.sound_reset (n : Nat) : Report.Sound { Report.reset with orphans := n } :=
  ⟨⟨Nat.zero_le _, Nat.zero_le _, fun _ set => nomatch set⟩, rfl, (fun set => nomatch set), (fun _ _ set => nomatch set),
    (fun _ _ set => nomatch set)⟩

/-! ## Every event -/

/-- An operation inside the lanes hands records over at most. -/
theorem Inner.sound {α : Type} {g : OnLane → α} (i : Inner g s t) (inv : s.report.Sound) : t.report.Sound := by
  obtain ⟨xs, h⟩ := i.report
  rw [h]
  exact inv.handOvers xs

theorem enableAccepted_report (l : LaneId) (r : LaneRecord) (s : State) : (enableAccepted l r s).report = s.report := by
  have counted (xs : List (AlertId × AlertBody)) (u : State) :
      (xs.foldl (fun t x => t.modAlert x.1 Alert.countLane) u).report = u.report := by
    induction xs generalizing u with
    | nil => rfl
    | cons x xs ih => exact ih _
  unfold enableAccepted
  split
  · rfl
  · dsimp only
    split
    · exact counted _ _
    · exact counted _ _

theorem Report.Sound.posted (inv : s.report.Sound) (p : Posted c s t) : t.report.Sound := by
  cases p with
  | refused => exact inv
  | configure => exact inv
  | enable l r => rw [enableAccepted_report]; exact inv
  | disable l r =>
    obtain ⟨u, i, h⟩ := disableAccepted_eq blind_unit l r s
    rw [h]
    exact i.sound inv
  | declare => exact inv
  | clear => exact inv
  | load => exact inv
  | discard => exact inv
  | unbind i => exact (inner_unbind blind_unit i s).sound inv
  | abort => exact inv
  | bind l _ _ i _ e t d => exact (inner_bindOrder blind_unit l i e _ t d s).sound inv
  | start a b =>
    unfold startAlert
    refine Inner.sound (g := fun _ => ()) (inner_handOver _) ?_
    exact Inner.sound (inner_foldl _ (fun u l => inner_joinAlert blind_unit a b l u) _ _) inv
  | ending a b =>
    have left := (inner_leaveAlert blind_unit a s).sound inv
    unfold endAlert
    generalize leaveAlert a s = u at left
    exact left.handOver _
  | setUp x fields => exact Report.sound_setUp fields _
  | clearCounters x =>
    have same : (clearCounters x s).1.report = s.report := by unfold clearCounters; dsimp only; split <;> rfl
    rw [same]
    exact inv
  | reset => exact Report.sound_reset _

theorem ReportInv.event (inv : ReportInv s) (ev : Event c s t) : ReportInv t := by
  rw [reportInv_iff] at inv ⊢
  cases ev with
  | pinReset => exact Report.sound_reset _
  | pinRelease => exact inv
  | write _ a d e ff =>
    obtain h | ⟨l, k, line, -, h⟩ | ⟨-, -, h⟩ | ⟨off, k, -, -, h⟩ | ⟨-, -, h⟩ := arriveWrite_cases a d e ff s <;> rw [h]
    · exact inv
    · exact (inner_ringStep blind_unit (fun _ _ => rfl) (fun _ _ => rfl) l k line d e ff s).sound inv
    · exact inv
    · obtain ⟨x, q, h⟩ := takeGoWrite_spec k d e s
      rw [h]
      exact inv
    · exact inv.indexWrite d e
  | writeCompletion => exact inv
  | read _ a =>
    obtain ⟨sv, l, ln, h, -⟩ := arriveRead_spec a s
    rw [h]
    exact inv
  | grant =>
    obtain ⟨-, -, -, -, -, same | ⟨x, found, granted⟩⟩ := grant_tables s
    · rw [same]; exact inv
    · rw [granted]
      refine ⟨inv.1.congr rfl rfl rfl inv.1.gap inv.1.queue, inv.2.congr rfl rfl rfl rfl rfl rfl fun y same kept => ?_⟩
      cases same
      exact ⟨x, found, kept⟩
  | readReturn _ d err _ a sv rest _ _ =>
    obtain ⟨u, p, i, h⟩ := inner_serveReturn blind_unit (fun _ _ => rfl) a sv d err { s with memReads := rest }
    rw [h]
    exact i.sound inv
  | postingTake _ k rest _ _ =>
    have same : (takePosting k rest s).report = s.report := by unfold takePosting; split <;> rfl
    rw [same]
    exact inv
  | memoryFault _ _ u _ due =>
    obtain ⟨w, line, dead, rest, -, -, -, -, rfl⟩ := recordReturns_spec due
    exact inv
  | posting _ code act _ u k posting due kind =>
    obtain ⟨w, line, dead, rest, -, -, -, -, rfl⟩ := recordReturns_spec due
    have carried : (act { s with memReads := rest }).1.report.Sound :=
      Report.Sound.posted (s := { s with memReads := rest }) inv (posted_of_postingOf posting _)
    exact carried
  | fetchIssue _ u l _ issued => exact (inner_issueFor blind_unit l s u (scanFetch_spec issued)).sound inv
  | fetchComplete d errs _ f _ rest _ =>
    exact (inner_completeFetch blind_unit f d errs { s with memReads := rest }).sound inv
  | recordWriteIssue => exact inv.issue
  | recordWriteComplete _ _ r completes => exact inv.complete completes
  | staleExpiry => exact inv
  | feedLost _ l r o _ => exact (inner_feedLost blind_unit l r o s).sound inv
  | feedFlap _ l _ _ _ => exact (inner_feedFlap blind_unit l s).sound inv
  | alertExpiry _ a b _ =>
    have left := (inner_leaveAlert blind_unit a s).sound inv
    unfold endAlert
    generalize leaveAlert a s = u at left
    exact left.handOver _
  | coalesceExpiry => exact inv.coalesceExpiry _
  | nothing => exact inv

/-- Settles O6. -/
theorem reportWriterInvariant : Obligations.ReportWriterInvariant := by
  unfold Obligations.ReportWriterInvariant
  exact step_keeps (P := ReportInv) (fun _ _ h => ⟨h.ranges, h.attention⟩) (fun _ _ _ _ h => ⟨h.ranges, h.attention⟩)
    (fun _ _ _ h ev => h.event ev)

/-- Settles O4: at reset every table is empty. -/
theorem resetMeetsInvariants : Obligations.ResetMeetsInvariants := by
  unfold Obligations.ResetMeetsInvariants
  have lane (l : LaneId) : State.reset.lane l = Lane.reset := by simp [State.reset, State.lane]
  have order (i : OrderId) : State.reset.order i = Order.reset := by simp [State.reset, State.order]
  have slot (k : PostSlotId) : State.reset.slot k = PostSlot.reset := by simp [State.reset, State.slot]
  have off (l : LaneId) : (State.reset.lane l).on = none := by rw [lane]; rfl
  have holds (l : LaneId) (i : OrderId) : ¬ holdsActive State.reset l i ∧ ¬ holdsWaiting State.reset l i := by
    unfold holdsActive holdsWaiting
    rw [off]
    exact ⟨nofun, nofun⟩
  have alive (l : LaneId) (b : Bool) : State.reset.alive l b = 0 := rfl
  refine ⟨⟨List.nodup_nil, fun k => ?_, fun k => ?_⟩, reportInv_iff.2 (Report.sound_reset 0), forceInv_empty rfl rfl,
    Nat.zero_le 4, ⟨fun l r record => ?_, fun l o on => ?_⟩, .off rfl,
    ⟨fun i => ?_, fun i => ?_, fun l i held => ?_⟩, fun l o on => ?_, fun l o on => ?_, fun l => ?_, fun l => ?_⟩
  · exact iff_of_false List.not_mem_nil (by rw [slot]; exact PostState.noConfusion)
  · exact iff_of_false (by rw [slot]; exact PostState.noConfusion) nofun
  · rw [lane] at record; cases record
  · rw [off] at on; cases on
  · exact iff_of_false (by rw [order]; exact OrderState.noConfusion) fun ⟨l, h⟩ => (holds l i).1 h
  · exact iff_of_false (by rw [order]; exact OrderState.noConfusion) fun ⟨l, h⟩ => (holds l i).2 h
  · exact held.elim (absurd · (holds l i).1) (absurd · (holds l i).2)
  · rw [off] at on; cases on
  · rw [off] at on; cases on
  · rw [alive]; exact Nat.zero_le _
  · rw [alive]; exact Nat.zero_le _

end Sys2Proof.Machine
end

section
/-! PROOF. The trackers of the ON lanes under every event (R9, R10, R13, R31, R32): O7. -/

namespace Sys2Proof.Machine

variable {s t : State} {c : Instr}

/-! ## Places of a ring line -/

/-- The lane of a ring that holds an address. -/
theorem ringLane_spec {a : Nat} {l : LaneId} {r : LaneRecord} (found : ringLane s a = some (l, r)) :
    (s.lane l).record = some r ∧ r.base ≤ a ∧ a < r.base + 192 * r.slots := by
  obtain ⟨k, -, h⟩ := List.exists_of_findSome?_eq_some found
  split at h
  · next q record =>
    split at h
    · next has =>
      cases h
      simp only [LaneRecord.ringHas, Bool.and_eq_true, decide_eq_true_eq] at has
      exact ⟨record, has.1, has.2⟩
    · cases h
  · cases h

/-- A line of the ring of an ON lane (R5): the lane's record, and the place of the line in its ring. -/
theorem classify_ring_spec {a : Nat} {l : LaneId} {k line : Nat} (ring : classify s a = .ring l k line) :
    ∃ r, (s.lane l).record = some r ∧ (s.lane l).on.isSome = true ∧ r.base ≤ a ∧ k = (a - r.base) / 192 ∧
      line = (a - r.base) % 192 / 64 ∧ k < r.slots ∧ line < 3 := by
  unfold classify at ring
  split at ring
  · cases ring
  · split at ring
    · cases ring
    · split at ring
      · next m r found =>
        obtain ⟨record, low, high⟩ := ringLane_spec found
        split at ring
        · next on =>
          cases ring
          exact ⟨r, record, on, low, rfl, rfl, by omega, by omega⟩
        · cases ring
      · split at ring <;> cases ring

/-! ## The tracker's operations -/

/-- A tracker as far as its invariant reads it. -/
def Tracker.core (t : Tracker) : Tracker := { t with assembly := 0, prevStamp := none, copy := none, awaiting := [] }

theorem trackerInv_core {n : Nat} {t : Tracker} : TrackerInv n t.core ↔ TrackerInv n t :=
  ⟨fun h => ⟨h.ingest, h.play, h.decided, h.fill, h.lead, h.apart, h.history, h.estimate⟩,
    fun h => ⟨h.ingest, h.play, h.decided, h.fill, h.lead, h.apart, h.history, h.estimate⟩⟩

theorem TrackerInv.setIngest {n : Nat} {t : Tracker} (inv : TrackerInv n t) (x : SlotData) {i : IngestCursor}
    (place : ∀ k e, i = .synchronised k e → k < n ∧ e ≤ 2) : TrackerInv n { t with assembly := x, ingest := i } :=
  { inv with ingest := place }

theorem TrackerInv.resync {t : Tracker} {r : LaneRecord} (inv : TrackerInv r.slots t) (nominal : r.nominal ≤ 27000000) {k : Nat}
    (place : k < r.slots) (d : Line) : TrackerInv r.slots (t.resync r k d) where
  ingest i e same := by cases same; exact ⟨place, by omega⟩
  play := inv.play
  decided := inv.decided
  fill := by
    change (match t.play with
      | some p => ringDiff k p r.slots
      | none => 0) ≤ r.slots
    split
    · next p play => exact (ringDiff_lt (inv.play p play)).le
    · exact Nat.zero_le _
  lead := Nat.zero_le _
  apart := fun some_ => absurd some_ (Nat.lt_irrefl 0)
  history := Nat.zero_le _
  estimate := lt_of_le_of_lt nominal (by decide)

theorem joinHistory_length {h : List Arrival} (most : h.length ≤ 33) (a : Arrival) : (joinHistory h a).length ≤ 33 := by
  unfold joinHistory
  split <;> simp only [List.length_append, List.length_tail, List.length_singleton] <;> omega

theorem slotInterval_lt {nominal : Nat} (most : nominal ≤ 27000000) (h : List Arrival) : slotInterval nominal h < 2 ^ 27 := by
  unfold slotInterval
  split
  · exact lt_of_le_of_lt most (by decide)
  · have := (h.getLast?.getD 0 - h.head?.getD 0).isLt
    omega

theorem TrackerInv.ingestSlot {t : Tracker} {r : LaneRecord} (inv : TrackerInv r.slots t) (nominal : r.nominal ≤ 27000000)
    (source : r.role = .source → t.lead = 0) (a : Arrival) : TrackerInv r.slots (t.ingestSlot r a) := by
  have history := joinHistory_length inv.history a
  have estimate := slotInterval_lt nominal (joinHistory t.history a)
  unfold Tracker.ingestSlot
  dsimp only
  split
  · next led =>
    exact ⟨inv.ingest, inv.play, inv.decided, inv.fill, (Nat.sub_le _ _).trans inv.lead, fun _ => inv.apart led.2, history,
      estimate⟩
  · next free =>
    have none_ : t.lead = 0 := by
      cases role : r.role with
      | source => exact source role
      | output => exact Nat.eq_zero_of_not_pos fun led => free ⟨role, led⟩
    exact ⟨inv.ingest, inv.play, inv.decided, heldAt_le _ _, inv.lead, fun some_ => absurd none_ (Nat.pos_iff_ne_zero.1 some_),
      history, estimate⟩

theorem TrackerInv.place {n : Nat} {t : Tracker} (inv : TrackerInv n t) {k : Nat} (here : k < n) : TrackerInv n (t.place n k) where
  ingest := inv.ingest
  play := inv.play
  decided := inv.decided
  fill := by
    change (match t.ingest with
      | .synchronised i _ => ringDiff i k n
      | .unsynchronised => 0) ≤ n
    split
    · exact (ringDiff_lt here).le
    · exact Nat.zero_le _
  lead := Nat.zero_le _
  apart := fun some_ => absurd some_ (Nat.lt_irrefl 0)
  history := inv.history
  estimate := inv.estimate

theorem TrackerInv.claim {n : Nat} {t : Tracker} (inv : TrackerInv n t) {k : Nat} (here : k < n) :
    TrackerInv n (t.claim n k) := by
  have moved : TrackerInv n (if t.play = some k then t else t.place n k) := by
    split
    · exact inv
    · exact inv.place here
  unfold Tracker.claim
  generalize (if t.play = some k then t else t.place n k) = u at moved
  refine ⟨moved.ingest, fun p same => ?_, fun p same => ?_, (Nat.sub_le _ _).trans moved.fill, ?_, fun led => ?_,
    moved.history, moved.estimate⟩
  · cases same; exact Nat.mod_lt _ (by omega)
  · cases same; exact here
  · dsimp only
    split
    · exact heldAt_le _ _
    · exact moved.lead
  · dsimp only at led ⊢
    split at led
    · next empty => omega
    · next full => exact absurd (moved.apart led) full

/-! ## The lanes -/

/-- What `RingInv` says of one lane. -/
def Lane.Sound (ln : Lane) : Prop :=
  (∀ r, ln.record = some r → 16 ≤ r.slots ∧ r.slots ≤ 65536 ∧ r.nominal ≤ 27000000) ∧
  ∀ o, ln.on = some o → ∃ r, ln.record = some r ∧ TrackerInv r.slots o.track ∧
    (r.role = .source → o.track.play = none ∧ o.track.lead = 0)

theorem ringInv_iff : RingInv s ↔ ∀ l, (s.lane l).Sound :=
  ⟨fun h l => ⟨h.record l, h.on l⟩, fun h => ⟨fun l => (h l).1, fun l => (h l).2⟩⟩

/-- The lanes' invariant reads their records and their trackers' cores alone. -/
theorem RingInv.congr (inv : RingInv s) (record : ∀ l, (t.lane l).record = (s.lane l).record)
    (core : ∀ l, (t.lane l).on.map (fun o => o.track.core) = (s.lane l).on.map fun o => o.track.core) : RingInv t where
  record l r found := inv.record l r ((record l).symm.trans found)
  on l o found := by
    have same := core l
    rw [found] at same
    obtain ⟨p, had, eq⟩ := Option.map_eq_some_iff.1 same.symm
    obtain ⟨r, set, sound, source⟩ := inv.on l p had
    have eq : p.track.core = o.track.core := eq
    refine ⟨r, (record l).trans set, ?_, fun role => ?_⟩
    · rw [← trackerInv_core, ← eq, trackerInv_core]
      exact sound
    · have play : o.track.core.play = p.track.core.play := by rw [eq]
      have lead : o.track.core.lead = p.track.core.lead := by rw [eq]
      exact ⟨play.trans (source role).1, lead.trans (source role).2⟩

theorem RingInv.inner (inv : RingInv s) (i : Inner (fun o => o.track.core) s t) : RingInv t := inv.congr i.record i.on

theorem RingInv.same (inv : RingInv s) (lanes : t.lanes = s.lanes) : RingInv t :=
  inv.congr (fun l => by rw [State.lane, lanes]; rfl) fun l => by rw [State.lane, lanes]; rfl

theorem RingInv.set (inv : RingInv s) (l : LaneId) {x : Lane} (sound : x.Sound) : RingInv (s.setLane l x) := by
  rw [ringInv_iff] at inv ⊢
  intro k
  rw [State.lane_setLane]
  split
  · exact sound
  · exact inv k

/-- A lane whose tracker is changed within its invariant. -/
theorem RingInv.modTrack (inv : RingInv s) (l : LaneId) (f : Tracker → Tracker)
    (keeps : ∀ r, (s.lane l).record = some r → 16 ≤ r.slots → r.nominal ≤ 27000000 → ∀ x, TrackerInv r.slots x →
      (r.role = .source → x.play = none ∧ x.lead = 0) →
      TrackerInv r.slots (f x) ∧ (r.role = .source → (f x).play = none ∧ (f x).lead = 0)) :
    RingInv (s.modOn l fun o => { o with track := f o.track }) := by
  refine inv.set l ⟨inv.record l, fun o found => ?_⟩
  obtain ⟨p, had, rfl⟩ := Option.map_eq_some_iff.1 found
  obtain ⟨r, set, sound, source⟩ := inv.on l p had
  obtain ⟨low, -, nominal⟩ := inv.record l r set
  exact ⟨r, set, keeps r set low nominal p.track sound source⟩

theorem blind_core : Blind (fun o => o.track.core) :=
  ⟨fun _ _ => rfl, fun _ _ => rfl, fun _ _ => rfl, fun _ _ => rfl, fun _ _ => rfl, fun _ _ => rfl, fun _ _ => rfl⟩

theorem RingInv.ingestBase (inv : RingInv s) (l : LaneId) {r : LaneRecord} (record : (s.lane l).record = some r) (x : SlotData) :
    RingInv (ingestBase l r x s) := by
  have ingested := inv.modTrack l (fun t => t.ingestSlot r (slotStamp x)) fun r' set _ nominal t sound source => by
    cases record.symm.trans set
    refine ⟨sound.ingestSlot nominal (fun role => (source role).2) _, fun role => ?_⟩
    unfold Tracker.ingestSlot
    dsimp only
    split
    · next led => exact absurd (led.1.symm.trans role) nofun
    · exact source role
  refine ingested.inner ?_
  have noted (b : Bool) := Inner.ite (c := b = true) (inner_note (g := fun o => o.track.core)
    (s := s.modOn l fun o => { o with track := o.track.ingestSlot r (slotStamp x) }) l .overrun .overrun) (Inner.refl _)
  exact Inner.ite ((noted _).trans (inner_tapsIngest blind_core l r.slots _)) (noted _)

theorem RingInv.ingestStep (inv : RingInv s) (l : LaneId) {r : LaneRecord} (record : (s.lane l).record = some r) (x : SlotData)
    (ff : Bool) : RingInv (ingestStep l r x ff s) := by
  have based := inv.ingestBase l record x
  rw [ingestStep_eq]
  split
  · exact based.inner ((inner_feedIngest blind_core l _).trans (inner_parseSlot blind_core (fun _ _ => rfl) l r x _))
  · exact based.inner ((inner_parseSlot blind_core (fun _ _ => rfl) l r x _).trans (inner_feedIngest blind_core l _))

theorem RingInv.resyncStep (inv : RingInv s) (l : LaneId) {r : LaneRecord} (record : (s.lane l).record = some r) {k : Nat}
    (place : k < r.slots) (line : Nat) (d : Line) (e : Enables) : RingInv (resyncStep l r k line d e s) := by
  unfold Machine.resyncStep
  split
  · have placed := inv.modTrack l (fun t => t.resync r k d) fun r' set _ nominal t sound source => by
      cases record.symm.trans set
      exact ⟨sound.resync nominal place d, fun role => ⟨(source role).1, rfl⟩⟩
    dsimp only
    split
    · exact placed.inner (inner_tapsResync blind_core l k _)
    · exact placed
  · exact inv

theorem RingInv.loseSync (inv : RingInv s) (l : LaneId) (r : LaneRecord) : RingInv (loseSync l r s) := by
  have lost := inv.modTrack l (fun t => { t with ingest := .unsynchronised }) fun r' _ _ _ t sound source =>
    ⟨sound.setIngest t.assembly nofun, source⟩
  unfold Machine.loseSync
  dsimp only
  split
  · exact lost.inner ((inner_note l _ _).trans (inner_tapsLost blind_core l _))
  · exact lost.inner (inner_note l _ _)

theorem RingInv.ringStep (inv : RingInv s) {a : Nat} {l : LaneId} {k line : Nat} (ring : classify s a = .ring l k line) (d : Line)
    (e : Enables) (ff : Bool) : RingInv (ringStep l k line d e ff s) := by
  obtain ⟨r, record, -, -, -, -, place, lines⟩ := classify_ring_spec ring
  unfold Machine.ringStep
  split
  · exact inv
  · next q o on =>
    obtain ⟨record', -⟩ := onLane_spec.1 on
    cases record.symm.trans record'
    split
    · exact inv.resyncStep l record place line d e
    · next i x cursor =>
      split
      · next expected =>
        obtain ⟨rfl, rfl, -⟩ := expected
        dsimp only
        have accepted (y : SlotData) (n : IngestCursor) (place : ∀ k e, n = .synchronised k e → k < r.slots ∧ e ≤ 2) :
            RingInv (s.modOn l fun o => { o with track := { o.track with assembly := y, ingest := n } }) :=
          inv.modTrack l (fun t => { t with assembly := y, ingest := n }) fun r' set _ _ t sound source => by
            cases record.symm.trans set
            exact ⟨sound.setIngest y place, source⟩
        split
        · next early =>
          exact accepted _ _ fun k e same => by cases same; omega
        · refine (accepted _ _ fun k' e same => ?_).ingestStep l (by simpa using record) _ ff
          cases same
          exact ⟨Nat.mod_lt _ (by omega), by omega⟩
      · refine (inv.loseSync l r).resyncStep l ?_ place line d e
        exact ((inner_loseSync blind_unit (fun _ _ => rfl) l r s).record l).trans record

/-! ## Content parts and claims -/

/-- A content part keeps what its decision's stamp and prepared copy do not reach. -/
theorem inner_contentPart_core (l : LaneId) (d : Line) (err : Bool) (s : State) :
    Inner (fun o => o.track.core) s (contentPart l d err s) := by
  unfold contentPart
  split
  · exact Inner.refl s
  · split
    · exact Inner.refl s
    · dsimp only
      refine Inner.trans (Inner.trans (Inner.modOn (Inner.ite (Inner.refl s).note (Inner.refl s)) ?_)
        (inner_insertionSteps blind_core l _ _)) (inner_serveSlot blind_core (fun _ _ => rfl) l _ _ _)
      exact fun _ => rfl

theorem RingInv.read (inv : RingInv s) (a : Addr) : RingInv (arriveRead a s) := by
  obtain ⟨sv, h⟩ | ⟨l, k, r, o, ring, out, -, h⟩ | ⟨l, k, line, r, o, -, -, -, -, h⟩ := arriveRead_cases a s <;> rw [h]
  · exact inv.same rfl
  · obtain ⟨record, on, role⟩ := onOutput_spec.1 out
    obtain ⟨r', record', -, -, -, -, place, -⟩ := classify_ring_spec ring
    cases record.symm.trans record'
    have jumped : RingInv (if o.track.jumps k then s.note l .jump .jump else s) :=
      inv.inner (Inner.ite (inner_note l _ _) (Inner.refl s))
    refine (jumped.modTrack l (fun t => t.claim r.slots k) fun r' set _ _ t sound source => ?_).same rfl
    have same : r' = r := by
      split at set
      · exact Option.some.inj (set.symm.trans (by simpa [State.note] using record))
      · exact Option.some.inj (set.symm.trans record)
    subst same
    exact ⟨sound.claim place, fun source' => absurd (role.symm.trans source') nofun⟩
  · exact (inv.inner (inner_note l _ _)).same rfl

/-! ## The postings -/

theorem RingInv.off (lanes : t.lanes = Vector.replicate 64 Lane.reset) : RingInv t := by
  have lane (l : LaneId) : t.lane l = Lane.reset := by rw [State.lane, lanes]; simp
  exact ⟨fun l r found => (by rw [lane] at found; cases found), fun l o found => (by rw [lane] at found; cases found)⟩

theorem RingInv.ending (inv : RingInv s) (a : AlertId) (b : AlertBody) (cause : AlertCause) : RingInv (endAlert a b cause s) := by
  have left := inv.inner (inner_leaveAlert blind_core a s)
  unfold endAlert
  generalize leaveAlert a s = u at left
  exact left.same rfl

theorem TrackerInv.enabled {r : LaneRecord} (nominal : r.nominal ≤ 27000000) : TrackerInv r.slots (Tracker.enabled r) where
  ingest := nofun
  play := nofun
  decided := nofun
  fill := Nat.zero_le _
  lead := Nat.zero_le _
  apart := fun some_ => absurd some_ (Nat.lt_irrefl 0)
  history := Nat.zero_le _
  estimate := lt_of_le_of_lt nominal (by decide)

theorem RingInv.posted (inv : RingInv s) (p : Posted c s t) : RingInv t := by
  cases p with
  | refused => exact inv
  | configure l x off fields =>
    have ok := (laneChecks_iff x).1.1 fields
    have slots := ok 5
    have nominal := ok 9
    simp only [LaneFieldBad, not_or, Nat.not_lt, Nat.not_le] at slots nominal
    refine inv.set l ⟨fun r set => ?_, fun o on => nomatch off.symm.trans on⟩
    cases set
    exact ⟨slots.1, slots.2.1, nominal.2.1⟩
  | enable l r record =>
    obtain ⟨ln, o, lanes, on, -, track, same⟩ := enableAccepted_lanes l r s
    obtain ⟨low, high, nominal⟩ := inv.record l r record
    refine RingInv.same (s := s.setLane l ln) (inv.set l ⟨fun r' set => ?_, fun p found => ?_⟩) lanes
    · exact inv.record l r' (same.symm.trans set)
    · cases on.symm.trans found
      rw [track]
      exact ⟨r, same.trans record, TrackerInv.enabled nominal, fun _ => ⟨rfl, rfl⟩⟩
  | disable l r =>
    obtain ⟨u, i, h⟩ := disableAccepted_eq blind_core l r s
    rw [h]
    have abandoned : RingInv (u.abandonReads l) := (inv.inner i).same rfl
    exact abandoned.set l ⟨abandoned.record l, fun o on => nomatch (show none = some o from on)⟩
  | declare => exact inv.same rfl
  | clear => exact inv.same rfl
  | load => exact inv.same rfl
  | discard => exact inv.same rfl
  | unbind i => exact (inv.inner (inner_unbind blind_core i s)).same rfl
  | abort => exact inv.same rfl
  | bind l _ _ i _ e t d => exact inv.inner (inner_bindOrder blind_core l i e _ t d s)
  | start a b =>
    unfold startAlert
    refine RingInv.inner ?_ (inner_handOver _)
    refine RingInv.inner ?_ (inner_foldl _ (fun u l => inner_joinAlert blind_core a b l u) _ _)
    exact inv.same rfl
  | ending a b => exact inv.ending a b _
  | setUp => exact inv.same rfl
  | clearCounters x =>
    exact inv.congr (fun l => (clearCounters_lane x s l).2) fun l => by rw [(clearCounters_lane x s l).1]
  | reset => exact .off rfl

theorem RingInv.event (inv : RingInv s) (ev : Event c s t) : RingInv t := by
  cases ev with
  | pinReset => exact .off rfl
  | pinRelease => exact inv.same rfl
  | write _ a d e ff =>
    obtain h | ⟨l, k, line, ring, h⟩ | ⟨-, -, h⟩ | ⟨off, k, -, -, h⟩ | ⟨-, -, h⟩ := arriveWrite_cases a d e ff s <;> rw [h]
    · exact inv.same rfl
    · exact (inv.ringStep ring d e ff).same rfl
    · exact inv.same rfl
    · obtain ⟨x, q, h⟩ := takeGoWrite_spec k d e s
      rw [h]
      exact inv.same rfl
    · exact inv.same rfl
  | writeCompletion => exact inv.same rfl
  | read _ a => exact inv.read a
  | grant => exact inv.same (grant_tables s).1
  | readReturn _ d err _ a sv rest _ _ =>
    have taken : RingInv { s with memReads := rest } := inv.same rfl
    cases sv with
    | plain => exact taken.same rfl
    | claim l => exact (taken.inner (inner_contentPart_core l d err _)).same rfl
    | copied l j => exact taken.same rfl
    | overlay off => exact taken.same rfl
  | postingTake _ k rest _ _ =>
    refine inv.same ?_
    unfold takePosting
    split <;> rfl
  | memoryFault _ _ u _ due =>
    obtain ⟨w, line, dead, rest, -, -, -, -, rfl⟩ := recordReturns_spec due
    exact inv.same rfl
  | posting _ code act _ u k posting due kind =>
    obtain ⟨w, line, dead, rest, -, -, -, -, rfl⟩ := recordReturns_spec due
    have taken : RingInv { s with memReads := rest } := inv.same rfl
    exact (taken.posted (posted_of_postingOf posting _)).same rfl
  | fetchIssue _ u l _ issued => exact (inv.inner (inner_issueFor blind_core l s u (scanFetch_spec issued))).same rfl
  | fetchComplete d errs _ f _ rest _ =>
    have taken : RingInv { s with memReads := rest } := inv.same rfl
    exact taken.inner (inner_completeFetch blind_core f d errs _)
  | recordWriteIssue => exact inv.same rfl
  | recordWriteComplete => exact inv.same rfl
  | staleExpiry _ l _ _ an cap _ _ =>
    exact inv.inner ((inner_modOn l (fun o => { o with clock := .stale an cap }) fun _ => rfl).note)
  | feedLost _ l r o _ => exact inv.inner (inner_feedLost blind_core l r o s)
  | feedFlap _ l _ _ _ => exact inv.inner (inner_feedFlap blind_core l s)
  | alertExpiry _ a b _ => exact inv.ending a b _
  | coalesceExpiry => exact inv.same rfl
  | nothing => exact inv

/-- Settles O7. -/
theorem ringCursorInvariant : Obligations.RingCursorInvariant := by
  unfold Obligations.RingCursorInvariant
  exact step_keeps (P := RingInv) (fun _ _ h => h.same rfl) (fun _ _ _ _ h => h.same rfl) (fun _ _ _ h ev => h.event ev)

end Sys2Proof.Machine
end

section
/-! PROOF. The orders and the insertion contexts that hold them under every event (R82): O8. -/

namespace Sys2Proof.Machine

variable {s t u : State} {c : Instr}

/-! ## What leaves the orders and their holders alone -/

/-- The orders a lane context holds: its active insertion's and its waiting cue's. -/
def OnLane.held (o : OnLane) : Option OrderId × Option OrderId :=
  (o.active.map ActiveInsertion.order, o.waiting.map WaitingCue.order)

/-- `t` has the orders of `s`, and every lane holds those it held. -/
structure Calm (s t : State) : Prop where
  orders : t.orders = s.orders
  held : ∀ l, (t.lane l).on.map OnLane.held = (s.lane l).on.map OnLane.held

theorem Calm.refl (s : State) : Calm s s := ⟨rfl, fun _ => rfl⟩
theorem Calm.trans (h : Calm s t) (k : Calm t u) : Calm s u :=
  ⟨k.orders.trans h.orders, fun l => (k.held l).trans (h.held l)⟩
theorem Calm.ite {p : Prop} [Decidable p] (h : Calm s t) (k : Calm s u) : Calm s (if p then t else u) := by
  split
  · exact h
  · exact k

theorem Calm.of_lanes (orders : t.orders = s.orders) (lanes : t.lanes = s.lanes) : Calm s t :=
  ⟨orders, fun l => by rw [State.lane, lanes]; rfl⟩

theorem calm_modLane (l : LaneId) (f : Lane → Lane) (hf : ∀ x, (f x).on.map OnLane.held = x.on.map OnLane.held) :
    Calm s (s.modLane l f) :=
  ⟨rfl, fun k => by
    rw [State.lane_modLane]
    split
    · next same => rw [same]; exact hf _
    · rfl⟩

theorem calm_modOn (l : LaneId) (f : OnLane → OnLane) (hf : ∀ o, (f o).held = o.held) : Calm s (s.modOn l f) :=
  calm_modLane l _ fun x => by cases x.on <;> simp [hf]

theorem Calm.modOn (h : Calm s t) (l : LaneId) (f : OnLane → OnLane) (hf : ∀ o, (f o).held = o.held) : Calm s (t.modOn l f) :=
  h.trans (calm_modOn l f hf)

theorem calm_note (l : LaneId) (x : Counter) (f : Flag) : Calm s (s.note l x f) := calm_modLane l _ fun _ => by rfl
theorem calm_raise (l : LaneId) (x : Counter) : Calm s (s.raise l x) := calm_modLane l _ fun _ => by rfl
theorem Calm.note (h : Calm s t) (l : LaneId) (x : Counter) (f : Flag) : Calm s (t.note l x f) := h.trans (calm_note l x f)
theorem Calm.raise (h : Calm s t) (l : LaneId) (x : Counter) : Calm s (t.raise l x) := h.trans (calm_raise l x)
theorem calm_handOver (x : AsRun) : Calm s (s.handOver x) := .of_lanes rfl rfl
theorem calm_withdraw (l : LaneId) (b : Bool) : Calm s (s.withdraw l b) := .of_lanes rfl rfl
theorem calm_modAlert (a : AlertId) (f : Alert → Alert) : Calm s (s.modAlert a f) := .of_lanes rfl rfl

theorem calm_foldl {β : Type} (f : State → β → State) (h : ∀ s b, Calm s (f s b)) (xs : List β) :
    ∀ s, Calm s (xs.foldl f s) := by
  induction xs with
  | nil => exact fun s => Calm.refl s
  | cons x xs ih => exact fun s => (h s x).trans (ih _)

theorem calm_flushQueue (l : LaneId) (s : State) : Calm s (flushQueue l s) := by
  refine Calm.trans (calm_modLane l _ fun x => ?_) (calm_withdraw l false)
  cases x.on <;> rfl

theorem calm_flushInterject (l : LaneId) (s : State) : Calm s (flushInterject l s) := by
  refine Calm.trans (calm_modLane l _ fun x => ?_) (calm_withdraw l true)
  cases x.on <;> rfl

theorem calm_judgeSource (l : LaneId) (s : State) : Calm s (judgeSource l s) := by
  unfold judgeSource
  split
  · exact Calm.refl s
  · exact Calm.ite (Calm.refl s) ((calm_flushQueue l s).modOn l _ fun _ => by rfl)

theorem calm_replaceTap (l : LaneId) (x : Tap) (s : State) : Calm s (replaceTap l x s) :=
  (calm_flushQueue l s).modOn l _ fun _ => by rfl

theorem calm_forTaps (src : LaneId) (f : LaneId → Tap → State → State) (h : ∀ l t s, Calm s (f l t s)) (s : State) :
    Calm s (forTaps src f s) := by
  unfold forTaps
  refine calm_foldl _ (fun s l => ?_) _ s
  split
  · exact h _ _ _
  · exact Calm.refl s

theorem calm_tapsIngest (src : LaneId) (n : Nat) (s : State) : Calm s (tapsIngest src n s) := by
  refine calm_forTaps src _ (fun l t s => ?_) s
  split
  · exact Calm.refl s
  · exact Calm.ite ((calm_replaceTap l _ s).note l _ _) (calm_modOn l _ fun _ => by rfl)

theorem calm_tapsLost (src : LaneId) (s : State) : Calm s (tapsLost src s) :=
  calm_forTaps src _ (fun l _ _ => calm_modOn l _ fun _ => by rfl) s

theorem calm_tapsResync (src : LaneId) (k : Nat) (s : State) : Calm s (tapsResync src k s) :=
  calm_forTaps src _ (fun l _ s => calm_replaceTap l _ s) s

theorem calm_setReadFault (s : State) (x : Origin) : Calm s (setReadFault s x) := by
  cases x with
  | clip c k => exact .of_lanes rfl rfl
  | tap l k => exact Calm.refl s

theorem calm_interjectFault (l : LaneId) (o : OnLane) (x : Origin) (s : State) : Calm s (interjectFault l o x s) := by
  unfold interjectFault
  dsimp only
  split
  · exact (calm_setReadFault s x).note l _ _
  · exact (((calm_setReadFault s x).note l _ _).trans (calm_modAlert _ _)).modOn l _ fun _ => by rfl

theorem calm_completeFetch (f : FetchTag) (d : SlotData) (e : BitVec 3) (s : State) : Calm s (completeFetch f d e s) := by
  unfold completeFetch
  split
  · exact Calm.refl s
  · exact Calm.ite (Calm.refl s) (Calm.ite (Calm.ite (calm_interjectFault _ _ _ s) (calm_modOn _ _ fun _ => by rfl))
      (calm_modOn _ _ fun _ => by rfl))

theorem calm_issueFor (l : LaneId) (s t : State) (issued : issueFor l s = some t) : Calm s t := by
  have prefetch (n : Origin × Nat × Bool × FetchCursor) : Calm s (issuePrefetch l n s) := by
    refine Calm.trans ?_ (calm_modOn l _ ?_)
    · exact .of_lanes rfl rfl
    · exact fun _ => rfl
  have interject (n : Origin × Nat × Bool × InterjectCursor) : Calm s (issueInterject l n s) := by
    refine Calm.trans ?_ (calm_modOn l _ ?_)
    · exact .of_lanes rfl rfl
    · exact fun _ => rfl
  unfold issueFor at issued
  dsimp only at issued
  split at issued
  · cases issued; exact Calm.ite (prefetch _) (interject _)
  · cases issued; exact prefetch _
  · cases issued; exact interject _
  · cases issued

/-! ## The feed monitor, the parser's clock and the alerts -/

theorem calm_judgeProof (l : LaneId) (s : State) : Calm s (judgeProof l s) := by
  have entered (r : LaneRecord) (o : OnLane) : Calm s (enterLive l r o s) := by
    unfold enterLive
    refine Calm.trans (Calm.modOn ?_ l _ fun _ => by rfl) (calm_judgeSource l _)
    split
    · exact calm_handOver _
    · exact Calm.refl s
  unfold judgeProof
  split
  · exact Calm.refl s
  · exact Calm.ite (entered _ _) (Calm.refl s)

theorem calm_feedIngest (l : LaneId) (s : State) : Calm s (feedIngest l s) :=
  (calm_modOn l _ fun _ => by rfl).trans (calm_judgeProof l _)

theorem calm_captureNotice (l : LaneId) (s : State) : Calm s (captureNotice l s) :=
  (calm_modOn l _ fun _ => by rfl).trans (calm_judgeProof l _)

theorem held_of_active {o p : OnLane} (active : p.active.map ActiveInsertion.order = o.active.map ActiveInsertion.order)
    (waiting : p.waiting = o.waiting) : p.held = o.held := by
  unfold OnLane.held
  rw [active, waiting]

/-- An active insertion changed within its order keeps the order held. -/
theorem held_mapActive (o : OnLane) (f : ActiveInsertion → ActiveInsertion) (hf : ∀ a, (f a).order = a.order) :
    (o.active.map f).map ActiveInsertion.order = o.active.map ActiveInsertion.order := by
  cases o.active <;> simp [hf]

theorem calm_feedLost (l : LaneId) (r : LaneRecord) (o : OnLane) (s : State) : Calm s (feedLost l r o s) :=
  Calm.trans (Calm.modOn (Calm.trans (calm_modOn l _ fun _ => by rfl) (calm_handOver _)) l _ fun o => by
    exact held_of_active (held_mapActive o _ fun _ => rfl) rfl) (calm_judgeSource l _)

theorem setOverride_order (was isNow : Bool) (a : ActiveInsertion) : (a.setOverride was isNow).order = a.order := by
  unfold ActiveInsertion.setOverride
  split_ifs <;> rfl

theorem calm_restack (l : LaneId) (f : List StackEntry → List StackEntry) (s : State) : Calm s (restack l f s) := by
  unfold restack
  split
  · exact Calm.refl s
  · refine Calm.ite (calm_modOn l _ fun _ => by rfl) (((calm_flushInterject l s).modOn l _ fun o => ?_).trans
      (calm_judgeSource l _))
    exact held_of_active (held_mapActive o _ (setOverride_order _ _)) rfl

theorem calm_joinAlert (a : AlertId) (b : AlertBody) (l : LaneId) (s : State) : Calm s (joinAlert a b l s) := by
  unfold joinAlert
  split
  · exact Calm.refl s
  · exact (Calm.ite (calm_modLane l _ fun _ => by rfl) (Calm.refl s)).trans (calm_restack l _ _)

theorem calm_leaveAlert (a : AlertId) (s : State) : Calm s (leaveAlert a s) := by
  unfold leaveAlert
  refine calm_foldl _ (fun s l => ?_) _ s
  split
  · exact Calm.ite (calm_restack l _ s) (Calm.refl s)
  · exact Calm.refl s

theorem calm_endAlert (a : AlertId) (b : AlertBody) (x : AlertCause) (s : State) : Calm s (endAlert a b x s) := by
  have left := calm_leaveAlert a s
  unfold endAlert
  generalize leaveAlert a s = u at left
  exact left.trans (.of_lanes rfl rfl)

theorem calm_refreshStep (l : LaneId) (a : Arrival) (s : State) : Calm s (refreshStep l a s) := calm_modOn l _ fun _ => by rfl

theorem calm_clockStep (l : LaneId) (r : LaneRecord) (p : Packet) (a : Arrival) (s : State) : Calm s (clockStep l r p a s) := by
  have captured : Calm s (captureStep l p a s) := by
    unfold captureStep
    refine Calm.trans (Calm.ite (Calm.note ?_ l _ _) ?_) (calm_captureNotice l _) <;> exact calm_modOn l _ fun _ => by rfl
  unfold clockStep
  exact Calm.ite (Calm.ite captured ((calm_note l _ _).trans (calm_refreshStep l a _))) (calm_refreshStep l a s)

theorem calm_ingestBase (l : LaneId) (r : LaneRecord) (x : SlotData) (s : State) : Calm s (ingestBase l r x s) := by
  have ingested : Calm s (s.modOn l fun o => { o with track := o.track.ingestSlot r (slotStamp x) }) :=
    calm_modOn l _ fun _ => by rfl
  have noted (b : Bool) := Calm.ite (p := b = true) (ingested.note l .overrun .overrun) ingested
  exact Calm.ite ((noted _).trans (calm_tapsIngest l r.slots _)) (noted _)

theorem calm_resyncStep (l : LaneId) (r : LaneRecord) (k line : Nat) (d : Line) (e : Enables) (s : State) :
    Calm s (resyncStep l r k line d e s) := by
  have placed : Calm s (s.modOn l fun o => { o with track := o.track.resync r k d }) := calm_modOn l _ fun _ => by rfl
  exact Calm.ite (Calm.ite (placed.trans (calm_tapsResync l k _)) placed) (Calm.refl s)

theorem calm_loseSync (l : LaneId) (r : LaneRecord) (s : State) : Calm s (loseSync l r s) := by
  have lost : Calm s (s.modOn l fun o => { o with track := { o.track with ingest := .unsynchronised } }) :=
    calm_modOn l _ fun _ => by rfl
  exact Calm.ite ((lost.note l _ _).trans (calm_tapsLost l _)) (lost.note l _ _)

/-! ## The slot selector -/

theorem passPacket_order (s : State) (p : Option Stamp) (a : ActiveInsertion) : (a.passPacket s p).order = a.order := by
  unfold ActiveInsertion.passPacket
  split
  · split <;> rfl
  · rfl

theorem servePacket_order (s : State) (d : Decided) (e : QueueEntry) (a : ActiveInsertion) :
    (a.servePacket s d e).order = a.order := by
  unfold ActiveInsertion.servePacket
  dsimp only [ActiveInsertion.countStale]
  split
  · rfl
  · exact passPacket_order s _ a

theorem ownerServed_held (s : State) (r : LaneRecord) (cl : SourceClass) (d : Decided) (e : QueueEntry) (o : OnLane) :
    (ownerServed s r cl d e o).held = o.held := by
  unfold ownerServed
  split
  · split <;> rfl
  · exact held_of_active (held_mapActive o _ (servePacket_order s d e)) rfl
  · rfl
  · rfl

theorem calm_takeHead (l : LaneId) (r : LaneRecord) (cl : SourceClass) (d : Decided) (e : QueueEntry) (s : State) :
    Calm s (takeHead l r cl d e s) := by
  have owned : Calm s (s.modOn l fun o => { ownerServed s r cl d e o with
      fetch := { (ownerServed s r cl d e o).fetch with queue := (ownerServed s r cl d e o).fetch.queue.tail } }) :=
    calm_modOn l _ fun o => ownerServed_held s r cl d e o
  unfold takeHead
  dsimp only
  refine Calm.ite (Calm.note (Calm.trans ?_ (calm_setReadFault _ _)) l _ _) ?_ <;>
  · split
    · exact owned.trans (calm_modAlert _ _)
    · exact owned

theorem calm_underrun (l : LaneId) (cl : SourceClass) (d : Decided) (s : State) : Calm s (underrun l cl d s) := by
  unfold underrun
  dsimp only
  split
  · split
    · exact (calm_note l _ _).trans (calm_modAlert _ _)
    · exact calm_note l _ _
  · exact (calm_note l _ _).modOn l _ fun o => held_of_active (held_mapActive o _ fun _ => by rfl) rfl
  · exact (calm_note l _ _).modOn l _ fun _ => by rfl
  · exact calm_note l _ _

theorem calm_prepareTaken (l : LaneId) (r : LaneRecord) (cl : SourceClass) (d : Decided) (e : QueueEntry) (s : State) :
    Calm s (prepareTaken l r cl d e s).2 := by
  unfold prepareTaken
  split
  · exact Calm.refl s
  · split
    · exact Calm.refl s
    · exact calm_note l _ _
    · exact Calm.ite (calm_raise l _) (Calm.refl s)

theorem calm_chooseSource (l : LaneId) (r : LaneRecord) (cl : SourceClass) (d : Decided) (s : State) :
    Calm s (chooseSource l r cl d s).2 := by
  unfold chooseSource
  split
  · exact Calm.refl s
  · exact Calm.refl s
  · split
    · exact calm_modOn l _ fun _ => by rfl
    · split
      · exact calm_underrun l _ d s
      · exact (calm_takeHead l r _ d _ s).trans (calm_prepareTaken l r _ d _ _)

theorem calm_sendInterject (l : LaneId) (r : LaneRecord) (d : Decided) (lb : Label) (e : StackEntry) (q : QueueEntry) (x : Bool)
    (out : Outgoing) (s : State) : Calm s (sendInterject l r d lb e q x out s).2 := by
  have sent : Calm s ((s.modOn l fun o =>
      { o with
        stack := modEntry o.stack (e.send s d q).id fun _ => e.send s d q
        fetch := { o.fetch with interject := o.fetch.interject.tail }
        sel := if x then o.sel.displaced r d out else o.sel }).modAlert (e.send s d q).id
          fun a => { a with served := raise32 a.served }) :=
    (calm_modOn l _ fun _ => by rfl).trans (calm_modAlert _ _)
  exact Calm.ite (Calm.ite (sent.raise l _) sent |>.raise l _) (Calm.ite (sent.raise l _) sent)

theorem calm_interjectStep (l : LaneId) (r : LaneRecord) (d : Decided) (out : Outgoing) (s : State) :
    Calm s (interjectStep l r d out s).2 := by
  unfold interjectStep
  split
  · exact Calm.refl s
  · split
    · exact Calm.refl s
    · split
      · exact Calm.refl s
      · dsimp only
        split
        · split
          · exact (calm_modOn l _ fun _ => by rfl).trans (calm_sendInterject l r d _ _ _ _ _ _)
          · exact (calm_modOn l _ fun _ => by rfl).trans (calm_sendInterject l r d _ _ _ _ _ _)
          · exact (calm_modOn l _ fun _ => by rfl).modOn l _ fun _ => by rfl
        · exact calm_modOn l _ fun _ => by rfl

theorem calm_shadowStep (l : LaneId) (d : Decided) (s : State) : Calm s (shadowStep l d s) := by
  refine calm_modOn l _ fun o => held_of_active (held_mapActive o _ fun a => ?_) rfl
  split
  · exact passPacket_order s _ a
  · rfl

theorem calm_serveSlot (l : LaneId) (r : LaneRecord) (d : Decided) (s : State) : Calm s (serveSlot l r d s) := by
  unfold serveSlot
  split
  · exact Calm.refl s
  · exact (((calm_shadowStep l d s).trans (calm_chooseSource l r _ d _)).trans (calm_interjectStep l r d _ _)).modOn l _
      fun _ => by rfl

/-! ## The invariant and its moves -/

theorem holdsActive_iff {l : LaneId} {i : OrderId} :
    holdsActive s l i ↔ ∃ o a, (s.lane l).on = some o ∧ o.active = some a ∧ a.order = i := by
  simp [holdsActive, Option.bind_eq_some_iff]

theorem holdsWaiting_iff {l : LaneId} {i : OrderId} :
    holdsWaiting s l i ↔ ∃ o w, (s.lane l).on = some o ∧ o.waiting = some w ∧ w.order = i := by
  simp [holdsWaiting, Option.bind_eq_some_iff]

theorem holdsActive_of_held {l : LaneId} {i : OrderId} :
    holdsActive s l i ↔ ((s.lane l).on.map OnLane.held).bind Prod.fst = some i := by
  unfold holdsActive
  cases (s.lane l).on <;> rfl

theorem holdsWaiting_of_held {l : LaneId} {i : OrderId} :
    holdsWaiting s l i ↔ ((s.lane l).on.map OnLane.held).bind Prod.snd = some i := by
  unfold holdsWaiting
  cases (s.lane l).on <;> rfl

theorem Calm.order (h : Calm s t) (i : OrderId) : t.order i = s.order i := by
  unfold State.order
  rw [h.orders]

theorem Calm.holdsActive (h : Calm s t) (l : LaneId) (i : OrderId) : holdsActive t l i ↔ Machine.holdsActive s l i := by
  rw [holdsActive_of_held, holdsActive_of_held, h.held]

theorem Calm.holdsWaiting (h : Calm s t) (l : LaneId) (i : OrderId) : holdsWaiting t l i ↔ Machine.holdsWaiting s l i := by
  rw [holdsWaiting_of_held, holdsWaiting_of_held, h.held]

theorem OrderInv.calm (inv : OrderInv s) (h : Calm s t) : OrderInv t where
  active i := by simp only [h.order, h.holdsActive]; exact inv.active i
  bound i := by simp only [h.order, h.holdsWaiting]; exact inv.bound i
  lane l i := by simp only [h.order, h.holdsActive, h.holdsWaiting]; exact inv.lane l i

/-- The order entries of a state that has set one of them. -/
theorem State.order_of_set {i : OrderId} {x : Order} (set : t.orders = s.orders.set i x) (j : OrderId) :
    t.order j = if j = i then x else s.order j := by
  rw [State.order, set]
  split
  · next same => subst same; exact vec_get_set_self _ _ _
  · next other => exact vec_get_set_ne _ _ _ _ other

/-- An order that no lane holds, before and after, is changed. -/
theorem OrderInv.replace (inv : OrderInv s) {i : OrderId} {x : Order} (free : (s.order i).state ≠ .active ∧ (s.order i).state ≠ .bound)
    (set : t.orders = s.orders.set i x) (idle : x.state ≠ .active ∧ x.state ≠ .bound)
    (active : ∀ k j, holdsActive t k j ↔ holdsActive s k j) (waiting : ∀ k j, holdsWaiting t k j ↔ holdsWaiting s k j) :
    OrderInv t := by
  have orders := State.order_of_set set
  have notActive (k : LaneId) : ¬ holdsActive s k i := fun h => free.1 ((inv.active i).2 ⟨k, h⟩)
  have notWaiting (k : LaneId) : ¬ holdsWaiting s k i := fun h => free.2 ((inv.bound i).2 ⟨k, h⟩)
  refine ⟨fun j => ?_, fun j => ?_, fun k j held => ?_⟩
  · simp only [orders, active]
    split
    · next same => subst same; exact iff_of_false idle.1 fun ⟨k, h⟩ => notActive k h
    · exact inv.active j
  · simp only [orders, waiting]
    split
    · next same => subst same; exact iff_of_false idle.2 fun ⟨k, h⟩ => notWaiting k h
    · exact inv.bound j
  · rw [active, waiting] at held
    rw [orders]
    split
    · next same => subst same; exact held.elim (absurd · (notActive k)) (absurd · (notWaiting k))
    · exact inv.lane k j held

/-- The order a lane holds as its active insertion leaves ACTIVE, and the lane lets it go. -/
theorem OrderInv.letGoActive (inv : OrderInv s) {l : LaneId} {i : OrderId} {x : Order} (held : holdsActive s l i)
    (set : t.orders = s.orders.set i x) (idle : x.state ≠ .active ∧ x.state ≠ .bound)
    (active : ∀ k j, holdsActive t k j ↔ k ≠ l ∧ holdsActive s k j) (waiting : ∀ k j, holdsWaiting t k j ↔ holdsWaiting s k j) :
    OrderInv t := by
  have orders := State.order_of_set set
  have mine := inv.lane l i (.inl held)
  have alone (k : LaneId) (h : holdsActive s k i) : k = l := by
    have other := inv.lane k i (.inl h)
    rw [mine] at other
    exact (Option.some.inj other).symm
  have state := (inv.active i).2 ⟨l, held⟩
  have notWaiting (k : LaneId) : ¬ holdsWaiting s k i := fun h => by
    have := (inv.bound i).2 ⟨k, h⟩
    rw [state] at this
    cases this
  refine ⟨fun j => ?_, fun j => ?_, fun k j h => ?_⟩
  · simp only [orders, active]
    split
    · next same => subst same; exact iff_of_false idle.1 fun ⟨k, other, h⟩ => other (alone k h)
    · next other =>
      rw [inv.active]
      refine exists_congr fun k => ⟨fun h => ⟨fun same => other ?_, h⟩, fun h => h.2⟩
      subst same
      exact Option.some.inj (h.symm.trans held)
  · simp only [orders, waiting]
    split
    · next same => subst same; exact iff_of_false idle.2 fun ⟨k, h⟩ => notWaiting k h
    · exact inv.bound j
  · rw [active, waiting] at h
    rw [orders]
    split
    · next same =>
      subst same
      exact h.elim (fun ⟨other, h⟩ => absurd (alone k h) other) (absurd · (notWaiting k))
    · exact inv.lane k j (h.imp_left And.right)

/-- The order a lane holds as its waiting cue leaves BOUND, and the lane lets it go. -/
theorem OrderInv.letGoWaiting (inv : OrderInv s) {l : LaneId} {i : OrderId} {x : Order} (held : holdsWaiting s l i)
    (set : t.orders = s.orders.set i x) (idle : x.state ≠ .active ∧ x.state ≠ .bound)
    (active : ∀ k j, holdsActive t k j ↔ holdsActive s k j) (waiting : ∀ k j, holdsWaiting t k j ↔ k ≠ l ∧ holdsWaiting s k j) :
    OrderInv t := by
  have orders := State.order_of_set set
  have mine := inv.lane l i (.inr held)
  have alone (k : LaneId) (h : holdsWaiting s k i) : k = l := by
    have other := inv.lane k i (.inr h)
    rw [mine] at other
    exact (Option.some.inj other).symm
  have state := (inv.bound i).2 ⟨l, held⟩
  have notActive (k : LaneId) : ¬ holdsActive s k i := fun h => by
    have := (inv.active i).2 ⟨k, h⟩
    rw [state] at this
    cases this
  refine ⟨fun j => ?_, fun j => ?_, fun k j h => ?_⟩
  · simp only [orders, active]
    split
    · next same => subst same; exact iff_of_false idle.1 fun ⟨k, h⟩ => notActive k h
    · exact inv.active j
  · simp only [orders, waiting]
    split
    · next same => subst same; exact iff_of_false idle.2 fun ⟨k, other, h⟩ => other (alone k h)
    · next other =>
      rw [inv.bound]
      refine exists_congr fun k => ⟨fun h => ⟨fun same => other ?_, h⟩, fun h => h.2⟩
      subst same
      exact Option.some.inj (h.symm.trans held)
  · rw [active, waiting] at h
    rw [orders]
    split
    · next same =>
      subst same
      exact h.elim (absurd · (notActive k)) fun ⟨other, h⟩ => absurd (alone k h) other
    · exact inv.lane k j (h.imp_right And.right)

/-- An ARMED order becomes the waiting cue of its own lane, which holds none. -/
theorem OrderInv.take (inv : OrderInv s) {l : LaneId} {i : OrderId} {x : Order} (armed : (s.order i).state = .armed)
    (own : (s.order i).body.map OrderBody.lane = some l) (free : ∀ j, ¬ holdsWaiting s l j)
    (set : t.orders = s.orders.set i x) (bound : x.state = .bound) (body : x.body = (s.order i).body)
    (active : ∀ k j, holdsActive t k j ↔ holdsActive s k j)
    (waiting : ∀ k j, holdsWaiting t k j ↔ if k = l then j = i else holdsWaiting s k j) : OrderInv t := by
  have orders := State.order_of_set set
  have notActive (k : LaneId) : ¬ holdsActive s k i := fun h => by
    have := (inv.active i).2 ⟨k, h⟩
    rw [armed] at this
    cases this
  have notWaiting (k : LaneId) : ¬ holdsWaiting s k i := fun h => by
    have := (inv.bound i).2 ⟨k, h⟩
    rw [armed] at this
    cases this
  refine ⟨fun j => ?_, fun j => ?_, fun k j h => ?_⟩
  · simp only [orders, active]
    split
    · next same => subst same; exact iff_of_false (by rw [bound]; exact OrderState.noConfusion) fun ⟨k, h⟩ => notActive k h
    · exact inv.active j
  · simp only [orders, waiting]
    split
    · next same => exact iff_of_true bound ⟨l, by rw [if_pos rfl]; exact same⟩
    · next other =>
      rw [inv.bound]
      refine exists_congr fun k => ?_
      split
      · next same => subst same; exact iff_of_false (free j) other
      · exact Iff.rfl
  · rw [active, waiting] at h
    rw [orders]
    split
    · next same =>
      subst same
      rw [body]
      refine h.elim (absurd · (notActive k)) fun h => ?_
      split at h
      · next same => rw [same]; exact own
      · exact absurd h (notWaiting k)
    · next other =>
      refine h.elim (fun h => inv.lane k j (.inl h)) fun h => ?_
      split at h
      · exact absurd h other
      · exact inv.lane k j (.inr h)

/-- The waiting cue's order becomes the active insertion's of the same lane, which holds none. -/
theorem OrderInv.splice (inv : OrderInv s) {l : LaneId} {i : OrderId} {x : Order} (held : holdsWaiting s l i)
    (free : ∀ j, ¬ holdsActive s l j) (set : t.orders = s.orders.set i x) (state : x.state = .active)
    (body : x.body = (s.order i).body)
    (active : ∀ k j, holdsActive t k j ↔ if k = l then j = i else holdsActive s k j)
    (waiting : ∀ k j, holdsWaiting t k j ↔ k ≠ l ∧ holdsWaiting s k j) : OrderInv t := by
  have orders := State.order_of_set set
  have mine := inv.lane l i (.inr held)
  have alone (k : LaneId) (h : holdsWaiting s k i) : k = l := by
    have other := inv.lane k i (.inr h)
    rw [mine] at other
    exact (Option.some.inj other).symm
  have bound := (inv.bound i).2 ⟨l, held⟩
  have notActive (k : LaneId) : ¬ holdsActive s k i := fun h => by
    have := (inv.active i).2 ⟨k, h⟩
    rw [bound] at this
    cases this
  refine ⟨fun j => ?_, fun j => ?_, fun k j h => ?_⟩
  · simp only [orders, active]
    split
    · next same => exact iff_of_true state ⟨l, by rw [if_pos rfl]; exact same⟩
    · next other =>
      rw [inv.active]
      refine exists_congr fun k => ?_
      split
      · next same => subst same; exact iff_of_false (free j) other
      · exact Iff.rfl
  · simp only [orders, waiting]
    split
    · next same =>
      subst same
      exact iff_of_false (by rw [state]; exact OrderState.noConfusion) fun ⟨k, other, h⟩ => other (alone k h)
    · next other =>
      rw [inv.bound]
      refine exists_congr fun k => ⟨fun h => ⟨fun same => other ?_, h⟩, fun h => h.2⟩
      subst same
      exact Option.some.inj (h.symm.trans held)
  · rw [active, waiting] at h
    rw [orders]
    split
    · next same =>
      subst same
      rw [body]
      refine h.elim (fun h => ?_) fun ⟨other, h⟩ => absurd (alone k h) other
      split at h
      · next same => rw [same]; exact mine
      · exact absurd h (notActive k)
    · next other =>
      refine h.elim (fun h => ?_) fun h => inv.lane k j (.inr h.2)
      split at h
      · exact absurd h other
      · exact inv.lane k j (.inl h)

end Sys2Proof.Machine
end

section
/-! PROOF. The insertion controller's moves of an order (R81, R84, R86, R93) keep the orders and their holders matched, and
so does every event: O8. -/

namespace Sys2Proof.Machine

variable {s t u : State} {c : Instr}

/-! ## Clip locks of an order -/

/-- The state with another clip table. -/
def State.withClips (s : State) (cs : Vector Clip 512) : State := { s with clips := cs }

/-- A run of clip changes changes the clips alone. -/
theorem foldl_clips (f : ClipId → Clip → Clip) (xs : List ClipId) :
    ∀ s : State, ∃ cs, xs.foldl (fun s c => s.modClip c (f c)) s = s.withClips cs := by
  induction xs with
  | nil => exact fun s => ⟨s.clips, rfl⟩
  | cons x xs ih =>
    intro s
    obtain ⟨cs, h⟩ := ih (s.modClip x (f x))
    exact ⟨cs, h⟩

/-- A run of changes of distinct clips changes each listed clip once. -/
theorem foldl_clip (f : ClipId → Clip → Clip) (xs : List ClipId) (distinct : xs.Nodup) (c : ClipId) :
    ∀ s : State, (xs.foldl (fun s c => s.modClip c (f c)) s).clip c = if c ∈ xs then f c (s.clip c) else s.clip c := by
  induction xs with
  | nil => exact fun s => rfl
  | cons x xs ih =>
    intro s
    obtain ⟨notIn, distinct⟩ := List.nodup_cons.1 distinct
    rw [List.foldl_cons, ih distinct, State.clip_modClip]
    by_cases same : c = x
    · subst same; rw [if_neg notIn, if_pos rfl, if_pos List.mem_cons_self]
    · rw [if_neg same]
      simp only [List.mem_cons, same, false_or]

theorem OrderBody.clips_nodup (b : OrderBody) : b.clips.Nodup := by
  unfold OrderBody.clips
  split
  · exact List.nodup_dedup _
  · exact List.nodup_nil

theorem lockOrder_eq (s : State) (b : OrderBody) : ∃ cs, lockOrder s b = s.withClips cs :=
  foldl_clips (fun _ x => { x with locks := x.locks + 1 }) b.clips s

theorem releaseOrder_eq (s : State) (b : OrderBody) : ∃ cs, releaseOrder s b = s.withClips cs :=
  foldl_clips (fun _ x => { x with locks := x.locks - 1 }) b.clips s

theorem lockOrder_clip (s : State) (b : OrderBody) (c : ClipId) : (lockOrder s b).clip c =
    if c ∈ b.clips then { s.clip c with locks := (s.clip c).locks + 1 } else s.clip c :=
  foldl_clip (fun _ x => { x with locks := x.locks + 1 }) b.clips b.clips_nodup c s

theorem releaseOrder_clip (s : State) (b : OrderBody) (c : ClipId) : (releaseOrder s b).clip c =
    if c ∈ b.clips then { s.clip c with locks := (s.clip c).locks - 1 } else s.clip c :=
  foldl_clip (fun _ x => { x with locks := x.locks - 1 }) b.clips b.clips_nodup c s

/-- An order leaving ACTIVE is changed, and beside it clip locks alone. -/
theorem disposeOrder_eq (i : OrderId) (s : State) : ∃ cs, disposeOrder i s = (s.modOrder i Order.dispose).withClips cs := by
  unfold disposeOrder
  split
  · exact releaseOrder_eq _ _
  · exact ⟨s.clips, rfl⟩

/-! ## Holders after a lane's context changes -/

theorem holdsActive_modOn {l k : LaneId} {f : OnLane → OnLane} {j : OrderId} : holdsActive (s.modOn l f) k j ↔
    if k = l then ∃ o, (s.lane l).on = some o ∧ (f o).active.map ActiveInsertion.order = some j else holdsActive s k j := by
  rw [holdsActive, State.lane_modOn]
  split
  · cases (s.lane l).on <;> simp
  · rfl

theorem holdsWaiting_modOn {l k : LaneId} {f : OnLane → OnLane} {j : OrderId} : holdsWaiting (s.modOn l f) k j ↔
    if k = l then ∃ o, (s.lane l).on = some o ∧ (f o).waiting.map WaitingCue.order = some j else holdsWaiting s k j := by
  rw [holdsWaiting, State.lane_modOn]
  split
  · cases (s.lane l).on <;> simp
  · rfl

/-- A lane context changed beside its active insertion. -/
theorem holdsActive_modOn_same {l k : LaneId} {f : OnLane → OnLane} {j : OrderId} (hf : ∀ o, (f o).active = o.active) :
    holdsActive (s.modOn l f) k j ↔ holdsActive s k j := by
  rw [holdsActive_modOn]
  split
  · next same => subst same; simp [holdsActive_iff, hf]
  · rfl

/-- A lane context changed beside its waiting cue. -/
theorem holdsWaiting_modOn_same {l k : LaneId} {f : OnLane → OnLane} {j : OrderId} (hf : ∀ o, (f o).waiting = o.waiting) :
    holdsWaiting (s.modOn l f) k j ↔ holdsWaiting s k j := by
  rw [holdsWaiting_modOn]
  split
  · next same => subst same; simp [holdsWaiting_iff, hf]
  · rfl

/-- A lane lets its active insertion go. -/
theorem holdsActive_modOn_none {l k : LaneId} {f : OnLane → OnLane} {j : OrderId} (hf : ∀ o, (f o).active = none) :
    holdsActive (s.modOn l f) k j ↔ k ≠ l ∧ holdsActive s k j := by
  rw [holdsActive_modOn]
  split
  · next same => simp [same, hf]
  · next other => simp [other]

/-- A lane lets its waiting cue go. -/
theorem holdsWaiting_modOn_none {l k : LaneId} {f : OnLane → OnLane} {j : OrderId} (hf : ∀ o, (f o).waiting = none) :
    holdsWaiting (s.modOn l f) k j ↔ k ≠ l ∧ holdsWaiting s k j := by
  rw [holdsWaiting_modOn]
  split
  · next same => simp [same, hf]
  · next other => simp [other]

/-- The lanes' holdings read the lanes alone. -/
theorem holdsActive_of_lanes (lanes : t.lanes = s.lanes) (k : LaneId) (j : OrderId) : holdsActive t k j ↔ holdsActive s k j := by
  rw [holdsActive, State.lane, lanes]
  rfl

theorem holdsWaiting_of_lanes (lanes : t.lanes = s.lanes) (k : LaneId) (j : OrderId) :
    holdsWaiting t k j ↔ holdsWaiting s k j := by
  rw [holdsWaiting, State.lane, lanes]
  rfl

/-! ## The moves -/

theorem dispose_idle (x : Order) : x.dispose.state ≠ .active ∧ x.dispose.state ≠ .bound := by
  unfold Order.dispose
  split_ifs <;> exact ⟨OrderState.noConfusion, OrderState.noConfusion⟩

theorem OrderInv.endInsertion (inv : OrderInv s) {l : LaneId} {a : ActiveInsertion}
    (active : (s.lane l).on.bind OnLane.active = some a) (kind : RecordKind) (out : Option Stamp) :
    OrderInv (endInsertion l a kind out s) := by
  have held : holdsActive s l a.order := by rw [holdsActive, active]; rfl
  unfold Machine.endInsertion
  refine OrderInv.calm ?_ (calm_judgeSource l _)
  obtain ⟨cs, h⟩ := disposeOrder_eq a.order (s.handOver (insertionRecord s l a kind (out.getD a.ret)))
  rw [h]
  refine inv.letGoActive held (x := (s.order a.order).dispose) rfl
    (dispose_idle _) (fun k j => ?_) fun k j => ?_
  · exact (holdsActive_modOn_none fun _ => by rfl).trans (and_congr_right fun _ => holdsActive_of_lanes rfl k j)
  · exact (holdsWaiting_modOn_same fun _ => by rfl).trans (holdsWaiting_of_lanes rfl k j)

theorem OrderInv.spliceIn (inv : OrderInv s) {l : LaneId} {w : WaitingCue} (waiting : (s.lane l).on.bind OnLane.waiting = some w)
    (free : (s.lane l).on.bind OnLane.active = none) (p : Stamp) : OrderInv (spliceIn l w p s) := by
  have held : holdsWaiting s l w.order := by rw [holdsWaiting, waiting]; rfl
  unfold Machine.spliceIn
  refine OrderInv.calm ?_ (calm_judgeSource l _)
  refine inv.splice held (x := (s.order w.order).activate) (fun j h => ?_) rfl rfl rfl
    (fun k j => ?_) fun k j => ?_
  · rw [holdsActive, free] at h
    cases h
  · rw [holdsActive_modOn, holdsActive_of_lanes (s := s) rfl]
    split
    · obtain ⟨o, -, on, -⟩ := holdsWaiting_iff.1 held
      exact ⟨fun ⟨_, _, same⟩ => (Option.some.inj same).symm, fun same => ⟨o, on, congrArg some same.symm⟩⟩
    · rfl
  · exact (holdsWaiting_modOn_none fun _ => by rfl).trans (and_congr_right fun _ => holdsWaiting_of_lanes rfl k j)

theorem OrderInv.removeWaiting (inv : OrderInv s) {l : LaneId} {w : WaitingCue}
    (waiting : (s.lane l).on.bind OnLane.waiting = some w) : OrderInv (removeWaiting l w s) := by
  have held : holdsWaiting s l w.order := by rw [holdsWaiting, waiting]; rfl
  have freed (cs : Vector Clip 512) : OrderInv (((s.modOrder w.order fun x => { x with state := .armed }).withClips cs).modOn l
      fun o => { o with waiting := none }) := by
    refine inv.letGoWaiting held (x := { s.order w.order with state := .armed }) rfl
      ⟨OrderState.noConfusion, OrderState.noConfusion⟩ (fun k j => ?_) fun k j => ?_
    · exact (holdsActive_modOn_same fun _ => by rfl).trans (holdsActive_of_lanes rfl k j)
    · exact (holdsWaiting_modOn_none fun _ => by rfl).trans (and_congr_right fun _ => holdsWaiting_of_lanes rfl k j)
  unfold Machine.removeWaiting
  dsimp only
  refine OrderInv.calm ?_ (calm_judgeSource l _)
  split
  · next b _ =>
    obtain ⟨cs, h⟩ := releaseOrder_eq (s.modOrder w.order fun x => { x with state := .armed }) b
    rw [h]
    exact freed cs
  · exact freed s.clips

theorem OrderInv.bindOrder (inv : OrderInv s) {l : LaneId} {i : OrderId} {b : OrderBody} {o : OnLane}
    (on : (s.lane l).on = some o) (free : o.waiting = none) (armed : (s.order i).state = .armed)
    (body : (s.order i).body = some b) (own : b.lane = l) (e : BitVec 32) (kind : BreakKind) (t : Stamp) (d : Option Stamp) :
    OrderInv (bindOrder l i e kind t d s) := by
  unfold Machine.bindOrder
  rw [body]
  dsimp only
  refine OrderInv.calm ?_ (calm_judgeSource l _)
  obtain ⟨cs, h⟩ := lockOrder_eq (s.modOrder i fun x => { x with state := .bound }) b
  rw [h]
  refine inv.take (l := l) armed (by rw [body, ← own]; rfl) (fun j h => ?_) (x := { s.order i with state := .bound })
    rfl rfl rfl (fun k j => ?_) fun k j => ?_
  · obtain ⟨o', w, on', waiting, -⟩ := holdsWaiting_iff.1 h
    cases on.symm.trans on'
    exact absurd (free.symm.trans waiting) nofun
  · exact (holdsActive_modOn_same fun _ => by rfl).trans (holdsActive_of_lanes rfl k j)
  · rw [holdsWaiting_modOn, holdsWaiting_of_lanes (s := s) rfl]
    split
    · exact ⟨fun ⟨_, _, same⟩ => (Option.some.inj same).symm, fun same => ⟨o, on, congrArg some same.symm⟩⟩
    · rfl

/-! ## The insertion steps and the cues -/

theorem OrderInv.endingStep (inv : OrderInv s) (l : LaneId) (p : Option Stamp) : OrderInv (endingStep l p s) := by
  unfold Machine.endingStep
  split
  · exact inv
  · next a active =>
    split
    · exact inv.endInsertion active _ p
    · exact inv

/-- A judgement of the source keeps a lane's active insertion and waiting cue. -/
theorem judgeSource_context (l : LaneId) (s : State) :
    ((judgeSource l s).lane l).on.bind OnLane.active = (s.lane l).on.bind OnLane.active ∧
      ((judgeSource l s).lane l).on.bind OnLane.waiting = (s.lane l).on.bind OnLane.waiting := by
  unfold judgeSource
  split
  · exact ⟨rfl, rfl⟩
  · dsimp only
    split
    · exact ⟨rfl, rfl⟩
    · simp only [flushQueue, State.lane_modOn_self, State.withdraw_lane, State.lane_modLane_self]
      cases (s.lane l).on <;> exact ⟨rfl, rfl⟩

/-- An ended insertion leaves its lane without one, the waiting cue standing. -/
theorem endInsertion_context (l : LaneId) (a : ActiveInsertion) (kind : RecordKind) (out : Option Stamp) (s : State) :
    ((endInsertion l a kind out s).lane l).on.bind OnLane.active = none ∧
      ((endInsertion l a kind out s).lane l).on.bind OnLane.waiting = (s.lane l).on.bind OnLane.waiting := by
  unfold endInsertion
  obtain ⟨cs, h⟩ := disposeOrder_eq a.order (s.handOver (insertionRecord s l a kind (out.getD a.ret)))
  simp only [h, judgeSource_context, State.lane_modOn_self]
  change ((s.lane l).on.map _).bind _ = none ∧ ((s.lane l).on.map _).bind _ = _
  cases (s.lane l).on <;> exact ⟨rfl, rfl⟩

theorem OrderInv.spliceStep (inv : OrderInv s) (l : LaneId) (p : Option Stamp) : OrderInv (spliceStep l p s) := by
  unfold Machine.spliceStep
  split
  · next w x waiting =>
    split
    · dsimp only
      have spliced {u : State} (inv : OrderInv u) (waiting : (u.lane l).on.bind OnLane.waiting = some w)
          (free : (u.lane l).on.bind OnLane.active = none) :
          OrderInv (match ((Machine.spliceIn l w x u).lane l).on.bind OnLane.active with
            | some a => if reached (some x) a.ret then Machine.endInsertion l a (returnKind a) (some x) (Machine.spliceIn l w x u)
              else Machine.spliceIn l w x u
            | none => Machine.spliceIn l w x u) := by
        have spliced := inv.spliceIn waiting free x
        split
        · next a active =>
          split
          · exact spliced.endInsertion active _ _
          · exact spliced
        · exact spliced
      cases active : (s.lane l).on.bind OnLane.active with
      | some a =>
        obtain ⟨none_, stands⟩ := endInsertion_context l a (chainKind a) (some x) s
        exact spliced (inv.endInsertion active _ _) (stands.trans waiting) none_
      | none => exact spliced inv waiting active
    · exact inv
  · exact inv

theorem OrderInv.contentPart (inv : OrderInv s) (l : LaneId) (d : Line) (err : Bool) : OrderInv (contentPart l d err s) := by
  unfold Machine.contentPart
  split
  · exact inv
  · split
    · exact inv
    · dsimp only
      refine OrderInv.calm ?_ (calm_serveSlot l _ _ _)
      refine OrderInv.spliceStep (OrderInv.endingStep ?_ l _) l _
      refine inv.calm (Calm.trans (Calm.ite (calm_note l _ _) (Calm.refl s)) (calm_modOn l _ ?_))
      exact fun _ => rfl

theorem findOrder_spec {l : LaneId} {code : BitVec 32} {i : OrderId} (found : findOrder s l code = some i) :
    (s.order i).state = .armed ∧ ∃ b, (s.order i).body = some b ∧ b.lane = l ∧ b.matchesCode code = true ∧
      orderReady s b = true := by
  have h := List.find?_some found
  rw [Bool.and_eq_true, beq_iff_eq] at h
  obtain ⟨armed, h⟩ := h
  refine ⟨armed, ?_⟩
  split at h
  · next b body => exact ⟨b, body, by simpa [and_assoc] using h⟩
  · cases h

/-- A context changed at one lane, its orders held. -/
theorem calm_modOn_at {l : LaneId} {f : OnLane → OnLane} (hf : ∀ o, (s.lane l).on = some o → (f o).held = o.held) :
    Calm s (s.modOn l f) :=
  ⟨rfl, fun k => by
    rw [State.lane_modOn]
    split
    · next same =>
      subst same
      cases on : (s.lane k).on with
      | none => rfl
      | some o => exact congrArg some (hf o on)
    · rfl⟩

theorem calm_returnCue (l : LaneId) (e : BitVec 32) (q : Stamp) (s : State) : Calm s (returnCue l e q s).2 := by
  unfold returnCue
  dsimp only
  split
  · next a _ found =>
    obtain ⟨o, on, active⟩ := Option.bind_eq_some_iff.1 (Option.filter_eq_some_iff.1 found).1
    refine calm_modOn_at fun p here => ?_
    cases on.symm.trans here
    exact held_of_active (by rw [active]; rfl) rfl
  · next w _ found =>
    obtain ⟨o, on, waiting⟩ := Option.bind_eq_some_iff.1 (Option.filter_eq_some_iff.1 found).1
    refine calm_modOn_at fun p here => ?_
    cases on.symm.trans here
    unfold OnLane.held
    rw [waiting]
    rfl
  · exact Calm.refl s

theorem OrderInv.decideCue (inv : OrderInv s) {l : LaneId} {o : OnLane} (on : (s.lane l).on = some o) (x : CueTiming) (c : Cue) :
    OrderInv (decideCue l x c s).2 := by
  unfold Machine.decideCue
  split
  · exact inv
  · next t =>
    unfold bindCue
    split
    · exact inv
    · next free =>
      have free : o.waiting = none := by simpa [on] using free
      split
      · exact inv
      · next i found =>
        obtain ⟨armed, b, body, own, -, -⟩ := findOrder_spec found
        split <;> exact inv.bindOrder on free armed body own _ _ _ _
  · exact inv.calm (calm_returnCue l _ _ s)
  · unfold cancelCue
    dsimp only
    split
    · next w _ found => exact inv.removeWaiting (Option.filter_eq_some_iff.1 found).1
    · exact inv
    · exact inv

theorem OrderInv.takeCue (inv : OrderInv s) (l : LaneId) (c : Cue) (a : Arrival) : OrderInv (takeCue l c a s) := by
  unfold Machine.takeCue
  split
  · exact inv
  · next r o on =>
    split
    · exact inv.calm (calm_raise l _)
    · dsimp only
      have decided := inv.decideCue (onLane_spec.1 on).2
        (cueTiming o.clock r.lateGrace (presentation o.clock r.playDelay (some a)) c) c
      split
      · refine (decided.calm (calm_modOn l _ ?_)).calm (calm_handOver _)
        exact fun _ => rfl
      · refine decided.calm (calm_modOn l _ ?_)
        exact fun _ => rfl

theorem OrderInv.parseSlot (inv : OrderInv s) (l : LaneId) (r : LaneRecord) (x : SlotData) : OrderInv (parseSlot l r x s) := by
  have refreshed (c : Counter) (f : Flag) (a : Arrival) : OrderInv (refreshStep l a (s.note l c f)) :=
    inv.calm ((calm_note l c f).trans (calm_refreshStep l a _))
  unfold Machine.parseSlot
  dsimp only
  split
  · exact refreshed _ _ _
  · split
    · exact refreshed _ _ _
    · exact refreshed _ _ _
    · have clocked := inv.calm (calm_clockStep l r (slotPacket x) (slotStamp x) s)
      unfold cueStep
      split
      · split
        · exact clocked.calm (calm_raise l _)
        · split
          · exact clocked.calm (calm_raise l _)
          · exact clocked.calm ((calm_note l _ _).trans (calm_handOver _))
          · exact clocked.takeCue l _ _
      · exact clocked

theorem OrderInv.ingestStep (inv : OrderInv s) (l : LaneId) (r : LaneRecord) (x : SlotData) (ff : Bool) :
    OrderInv (ingestStep l r x ff s) := by
  have based := inv.calm (calm_ingestBase l r x s)
  rw [ingestStep_eq]
  split
  · exact (based.calm (calm_feedIngest l _)).parseSlot l r x
  · exact (based.parseSlot l r x).calm (calm_feedIngest l _)

theorem OrderInv.ringStep (inv : OrderInv s) (l : LaneId) (k line : Nat) (d : Line) (e : Enables) (ff : Bool) :
    OrderInv (ringStep l k line d e ff s) := by
  unfold Machine.ringStep
  split
  · exact inv
  · split
    · exact inv.calm (calm_resyncStep l _ k line d e s)
    · split
      · dsimp only
        have accepted (x : SlotData) (n : IngestCursor) :=
          inv.calm (calm_modOn l (fun o => { o with track := { o.track with assembly := x, ingest := n } }) fun _ => rfl)
        split
        · exact accepted _ _
        · exact (accepted _ _).ingestStep l _ _ ff
      · exact inv.calm ((calm_loseSync l _ s).trans (calm_resyncStep l _ k line d e _))

/-! ## The postings -/

/-- A removed waiting cue leaves its lane without one, the active insertion standing. -/
theorem removeWaiting_context (l : LaneId) (w : WaitingCue) (s : State) :
    ((removeWaiting l w s).lane l).on.bind OnLane.active = (s.lane l).on.bind OnLane.active ∧
      ((removeWaiting l w s).lane l).on.bind OnLane.waiting = none := by
  have freed (cs : Vector Clip 512) :
      ((((s.modOrder w.order fun x => { x with state := .armed }).withClips cs).modOn l
        fun o => { o with waiting := none }).lane l).on.bind OnLane.active = (s.lane l).on.bind OnLane.active ∧
      ((((s.modOrder w.order fun x => { x with state := .armed }).withClips cs).modOn l
        fun o => { o with waiting := none }).lane l).on.bind OnLane.waiting = none := by
    rw [State.lane_modOn_self]
    change ((s.lane l).on.map _).bind _ = _ ∧ ((s.lane l).on.map _).bind _ = none
    cases (s.lane l).on <;> exact ⟨rfl, rfl⟩
  unfold removeWaiting
  dsimp only
  simp only [judgeSource_context]
  split
  · next b _ =>
    obtain ⟨cs, h⟩ := releaseOrder_eq (s.modOrder w.order fun x => { x with state := .armed }) b
    rw [h]
    exact freed cs
  · exact freed s.clips

/-- An enabled lane holds no order, and no order has changed. -/
theorem enableAccepted_orders (l : LaneId) (r : LaneRecord) (s : State) :
    ∃ ln o, (enableAccepted l r s).lanes = (s.setLane l ln).lanes ∧ (enableAccepted l r s).orders = s.orders ∧
      ln.on = some o ∧ o.active = none ∧ o.waiting = none := by
  have counted (xs : List (AlertId × AlertBody)) (u : State) :
      (xs.foldl (fun t x => t.modAlert x.1 Alert.countLane) u).lanes = u.lanes ∧
      (xs.foldl (fun t x => t.modAlert x.1 Alert.countLane) u).orders = u.orders := by
    induction xs generalizing u with
    | nil => exact ⟨rfl, rfl⟩
    | cons x xs ih => exact ih _
  unfold enableAccepted
  split
  · exact ⟨_, _, rfl, rfl, rfl, rfl, rfl⟩
  · dsimp only
    refine ⟨{ (if (OnLane.enabledOutput s r).stack.any StackEntry.clash then (s.lane l).setFlag .clash else s.lane l) with
      on := some (setSource s r (wantedSource s r (OnLane.enabledOutput s r)) (OnLane.enabledOutput s r)) }, _, ?_, ?_, rfl,
      rfl, rfl⟩
    · split
      · exact (counted _ _).1
      · exact (counted _ _).1
    · split
      · exact (counted _ _).2
      · exact (counted _ _).2

theorem OrderInv.same (inv : OrderInv s) (lanes : t.lanes = s.lanes) (orders : t.orders = s.orders) : OrderInv t :=
  inv.calm (.of_lanes orders lanes)

/-- The BOUND order of an ORDER CANCEL is no lane's any more, and then EMPTY (R94). -/
theorem OrderInv.unbind (inv : OrderInv s) {i : OrderId} (bound : (s.order i).state = .bound) :
    OrderInv ((unbind i s).setOrder i Order.reset) := by
  obtain ⟨l, held⟩ := (inv.bound i).1 bound
  obtain ⟨o, w, on, waiting, rfl⟩ := holdsWaiting_iff.1 held
  obtain ⟨b, body, own⟩ := Option.map_eq_some_iff.1 (inv.lane l w.order (.inr held))
  have here : (s.lane l).on.bind OnLane.waiting = some w := by rw [on]; exact waiting
  have eq : Machine.unbind w.order s = Machine.removeWaiting l w s := by
    unfold Machine.unbind
    rw [body]
    dsimp only
    have kept : (some w).filter (fun v => v.order == w.order) = some w := by simp [Option.filter]
    rw [own, here, kept]
  have armed : ((Machine.removeWaiting l w s).order w.order).state = .armed := by
    unfold Machine.removeWaiting
    dsimp only
    rw [(calm_judgeSource l _).order]
    split
    · next b' _ =>
      obtain ⟨cs, h⟩ := releaseOrder_eq (s.modOrder w.order fun x => { x with state := .armed }) b'
      rw [h]
      exact congrArg Order.state (State.order_modOrder_self s w.order fun x => { x with state := .armed })
    · exact congrArg Order.state (State.order_modOrder_self s w.order fun x => { x with state := .armed })
  rw [eq]
  exact (inv.removeWaiting here).replace (by rw [armed]; exact ⟨OrderState.noConfusion, OrderState.noConfusion⟩) rfl
    ⟨OrderState.noConfusion, OrderState.noConfusion⟩ (fun _ _ => Iff.rfl) fun _ _ => Iff.rfl

/-- A lane that holds no order is turned OFF, or ON with none. -/
theorem OrderInv.turn (inv : OrderInv s) {l : LaneId} (x : Lane)
    (was : (s.lane l).on.bind OnLane.active = none ∧ (s.lane l).on.bind OnLane.waiting = none)
    (now : x.on.bind OnLane.active = none ∧ x.on.bind OnLane.waiting = none) : OrderInv (s.setLane l x) := by
  have active (k : LaneId) (j : OrderId) : holdsActive (s.setLane l x) k j ↔ holdsActive s k j := by
    unfold holdsActive
    rw [State.lane_setLane]
    split
    · next same => rw [same, now.1, was.1]
    · rfl
  have waiting (k : LaneId) (j : OrderId) : holdsWaiting (s.setLane l x) k j ↔ holdsWaiting s k j := by
    unfold holdsWaiting
    rw [State.lane_setLane]
    split
    · next same => rw [same, now.2, was.2]
    · rfl
  refine ⟨fun i => ?_, fun i => ?_, fun k i held => ?_⟩
  · simp only [active]; exact inv.active i
  · simp only [waiting]; exact inv.bound i
  · rw [active, waiting] at held; exact inv.lane k i held

/-- What a LANE DISABLE does once its insertion context is gone (R166): the slate released, the waiting reads withdrawn, the
outstanding ones abandoned. -/
def disableRest (l : LaneId) (r : LaneRecord) (s : State) : State :=
  (((match slateOf r with
    | some c => s.release c
    | none => s).withdraw l false).withdraw l true).abandonReads l

theorem disableAccepted_rest (l : LaneId) (r : LaneRecord) (s : State) : disableAccepted l r s =
    (disableRest l r (dropWaiting l (abortActive l r s))).modLane l (Lane.turnOff (s.lane l)) := rfl

theorem disableRest_same (l : LaneId) (r : LaneRecord) (s : State) :
    (disableRest l r s).lanes = s.lanes ∧ (disableRest l r s).orders = s.orders := by
  unfold disableRest
  split <;> exact ⟨rfl, rfl⟩

theorem OrderInv.disable (inv : OrderInv s) (l : LaneId) (r : LaneRecord) : OrderInv (disableAccepted l r s) := by
  have aborted : OrderInv (abortActive l r s) ∧ ((abortActive l r s).lane l).on.bind OnLane.active = none := by
    unfold abortActive
    split
    · next off => exact ⟨inv, by rw [off]; rfl⟩
    · next o on =>
      split
      · next a active =>
        exact ⟨inv.endInsertion (by rw [on]; exact active) _ _, (endInsertion_context l a _ _ s).1⟩
      · next free => exact ⟨inv, by rw [on]; exact free⟩
  have dropped : OrderInv (dropWaiting l (abortActive l r s)) ∧
      ((dropWaiting l (abortActive l r s)).lane l).on.bind OnLane.active = none ∧
      ((dropWaiting l (abortActive l r s)).lane l).on.bind OnLane.waiting = none := by
    obtain ⟨inv, free⟩ := aborted
    unfold dropWaiting
    split
    · next w waiting => exact ⟨inv.removeWaiting waiting, (removeWaiting_context l w _).1.trans free, (removeWaiting_context l w _).2⟩
    · next none_ => exact ⟨inv, free, none_⟩
  obtain ⟨inv, active, waiting⟩ := dropped
  obtain ⟨lanes, orders⟩ := disableRest_same l r (dropWaiting l (abortActive l r s))
  rw [disableAccepted_rest]
  have rested := inv.same lanes orders
  have none_ : ((disableRest l r (dropWaiting l (abortActive l r s))).lane l).on.bind OnLane.active = none ∧
      ((disableRest l r (dropWaiting l (abortActive l r s))).lane l).on.bind OnLane.waiting = none := by
    rw [State.lane, lanes]
    exact ⟨active, waiting⟩
  exact rested.turn _ none_ ⟨rfl, rfl⟩

theorem OrderInv.off (lanes : t.lanes = Vector.replicate 64 Lane.reset) (orders : t.orders = Vector.replicate 256 Order.reset) :
    OrderInv t := by
  have off (l : LaneId) : (t.lane l).on = none := by rw [State.lane, lanes]; simp [Lane.reset]
  have empty (i : OrderId) : (t.order i).state = .empty := by rw [State.order, orders]; simp [Order.reset]
  have holds (l : LaneId) (i : OrderId) : ¬ holdsActive t l i ∧ ¬ holdsWaiting t l i := by
    unfold holdsActive holdsWaiting
    rw [off]
    exact ⟨nofun, nofun⟩
  refine ⟨fun i => ?_, fun i => ?_, fun l i held => ?_⟩
  · exact iff_of_false (by rw [empty]; exact OrderState.noConfusion) fun ⟨l, h⟩ => (holds l i).1 h
  · exact iff_of_false (by rw [empty]; exact OrderState.noConfusion) fun ⟨l, h⟩ => (holds l i).2 h
  · exact held.elim (absurd · (holds l i).1) (absurd · (holds l i).2)

/-- An order that is ARMED, SPENT or EMPTY is loaded or emptied. -/
theorem OrderInv.setFree (inv : OrderInv s) {i : OrderId} (x : Order)
    (free : (s.order i).state ≠ .active ∧ (s.order i).state ≠ .bound) (idle : x.state ≠ .active ∧ x.state ≠ .bound) :
    OrderInv (s.setOrder i x) :=
  inv.replace free rfl idle (fun _ _ => Iff.rfl) fun _ _ => Iff.rfl

/-- The abort mark of an order does not move it. -/
theorem OrderInv.abort (inv : OrderInv s) (i : OrderId) : OrderInv (s.modOrder i fun y => { y with abort := true }) := by
  have state (j : OrderId) : ((s.modOrder i fun y => { y with abort := true }).order j).state = (s.order j).state ∧
      ((s.modOrder i fun y => { y with abort := true }).order j).body = (s.order j).body := by
    rw [State.order_modOrder]
    split
    · next same => rw [same]; exact ⟨rfl, rfl⟩
    · exact ⟨rfl, rfl⟩
  refine ⟨fun j => ?_, fun j => ?_, fun k j held => ?_⟩
  · rw [(state j).1]; exact inv.active j
  · rw [(state j).1]; exact inv.bound j
  · rw [(state j).2]; exact inv.lane k j held

theorem OrderInv.posted (inv : OrderInv s) (p : Posted c s t) : OrderInv t := by
  cases p with
  | refused => exact inv
  | configure l x off =>
    exact inv.turn _ (by rw [off]; exact ⟨rfl, rfl⟩) (by
      change (s.lane l).on.bind _ = none ∧ (s.lane l).on.bind _ = none
      rw [off]
      exact ⟨rfl, rfl⟩)
  | enable l r record off =>
    have none_ : (s.lane l).on.bind OnLane.active = none ∧ (s.lane l).on.bind OnLane.waiting = none := by
      rw [off]; exact ⟨rfl, rfl⟩
    obtain ⟨ln, o, lanes, orders, on, active, waiting⟩ := enableAccepted_orders l r s
    exact (inv.turn ln none_ (by rw [on]; exact ⟨active, waiting⟩)).same lanes orders
  | disable l r => exact inv.disable l r
  | declare => exact inv.same rfl rfl
  | clear => exact inv.same rfl rfl
  | load i b bound active =>
    exact inv.setFree _ ⟨active, bound⟩ ⟨OrderState.noConfusion, OrderState.noConfusion⟩
  | discard i state =>
    refine inv.setFree _ ?_ ⟨OrderState.noConfusion, OrderState.noConfusion⟩
    rcases state with h | h <;> rw [h] <;> exact ⟨OrderState.noConfusion, OrderState.noConfusion⟩
  | unbind i bound => exact inv.unbind bound
  | abort i => exact inv.abort i
  | bind l r o i b e t d on free armed body own => exact inv.bindOrder (onOutput_spec.1 on).2.1 free armed body own e _ t d
  | start a b =>
    unfold startAlert
    refine OrderInv.calm ?_ (calm_handOver _)
    refine OrderInv.calm ?_ (calm_foldl _ (fun u l => calm_joinAlert a b l u) _ _)
    exact inv.same rfl rfl
  | ending a b => exact inv.calm (calm_endAlert a b _ s)
  | setUp => exact inv.same rfl rfl
  | clearCounters x =>
    refine inv.calm ⟨?_, fun l => by rw [(clearCounters_lane x s l).1]⟩
    unfold Machine.clearCounters
    dsimp only
    split <;> rfl
  | reset => exact .off rfl rfl

theorem OrderInv.event (inv : OrderInv s) (ev : Event c s t) : OrderInv t := by
  cases ev with
  | pinReset => exact .off rfl rfl
  | pinRelease => exact inv.same rfl rfl
  | write _ a d e ff =>
    obtain h | ⟨l, k, line, ring, h⟩ | ⟨-, -, h⟩ | ⟨off, k, -, -, h⟩ | ⟨-, -, h⟩ := arriveWrite_cases a d e ff s <;> rw [h]
    · exact inv.same rfl rfl
    · exact (inv.ringStep l k line d e ff).same rfl rfl
    · exact inv.same rfl rfl
    · obtain ⟨x, q, h⟩ := takeGoWrite_spec k d e s
      rw [h]
      exact inv.same rfl rfl
    · exact inv.same rfl rfl
  | writeCompletion => exact inv.same rfl rfl
  | read _ a =>
    obtain ⟨sv, h⟩ | ⟨l, k, r, o, -, -, -, h⟩ | ⟨l, k, line, r, o, -, -, -, -, h⟩ := arriveRead_cases a s <;> rw [h]
    · exact inv.same rfl rfl
    · have jumped : Calm s (if o.track.jumps k then s.note l .jump .jump else s) := Calm.ite (calm_note l _ _) (Calm.refl s)
      exact OrderInv.same (inv.calm (jumped.modOn l (fun o => { o with track := o.track.claim r.slots k }) fun _ => rfl)) rfl rfl
    · exact (inv.calm (calm_note l _ _)).same rfl rfl
  | grant =>
    obtain ⟨lanes, -, orders, -⟩ := grant_tables s
    exact inv.same lanes orders
  | readReturn _ d err _ a sv rest _ _ =>
    have taken : OrderInv { s with memReads := rest } := inv.same rfl rfl
    cases sv with
    | plain => exact taken.same rfl rfl
    | claim l => exact (taken.contentPart l d err).same rfl rfl
    | copied l j => exact taken.same rfl rfl
    | overlay off => exact taken.same rfl rfl
  | postingTake _ k rest _ _ =>
    unfold takePosting
    split <;> exact inv.same rfl rfl
  | memoryFault _ _ u _ due =>
    obtain ⟨w, line, dead, rest, -, -, -, -, rfl⟩ := recordReturns_spec due
    exact inv.same rfl rfl
  | posting _ code act _ u k posting due kind =>
    obtain ⟨w, line, dead, rest, -, -, -, -, rfl⟩ := recordReturns_spec due
    have taken : OrderInv { s with memReads := rest } := inv.same rfl rfl
    exact (taken.posted (posted_of_postingOf posting _)).same rfl rfl
  | fetchIssue _ u l _ issued => exact (inv.calm (calm_issueFor l s u (scanFetch_spec issued))).same rfl rfl
  | fetchComplete d errs _ f _ rest _ =>
    have taken : OrderInv { s with memReads := rest } := inv.same rfl rfl
    exact taken.calm (calm_completeFetch f d errs _)
  | recordWriteIssue => exact inv.same rfl rfl
  | recordWriteComplete => exact inv.same rfl rfl
  | staleExpiry _ l _ _ an cap _ _ =>
    exact inv.calm ((calm_modOn l (fun o => { o with clock := .stale an cap }) fun _ => rfl).note l _ _)
  | feedLost _ l r o _ => exact inv.calm (calm_feedLost l r o s)
  | feedFlap _ l _ _ _ =>
    exact inv.calm ((calm_modOn l (fun o => { o with feed := Feed.inLost o.feed.outage }) fun _ => rfl).note l _ _)
  | alertExpiry _ a b _ => exact inv.calm (calm_endAlert a b _ s)
  | coalesceExpiry => exact inv.same rfl rfl
  | nothing => exact inv

/-- Settles O8. -/
theorem orderContextInvariant : Obligations.OrderContextInvariant := by
  unfold Obligations.OrderContextInvariant
  exact step_keeps (P := OrderInv) (fun _ _ h => h.same rfl rfl) (fun _ _ _ _ h => h.same rfl rfl) (fun _ _ _ h ev => h.event ev)

end Sys2Proof.Machine
end

section
/-! PROOF. The prefetch queues, the interject buffers and the waiting read under what happens inside the lanes (R64, R67, R73):
flushes raise generations and withdraw, everything else takes entries at most. -/

namespace Sys2Proof.Machine

variable {s t u : State} {m n : Nat}

/-! ## Flows -/

/-- A lane's prefetch queue or interject buffer. -/
def OnLane.buffer (o : OnLane) (interject : Bool) : List QueueEntry := if interject then o.fetch.interject else o.fetch.queue

/-- From `s` to `t`, the buffers of the lanes have been flushed as often as `q` says, at most `n` times each; no buffer has
grown, a flushed one is empty, its generation is raised by its flushes, and its waiting fetch without a line granted is
withdrawn. -/
structure FlowsBy (n : Nat) (q : Bool → LaneId → Nat) (s t : State) : Prop where
  most : ∀ b l, q b l ≤ n
  reads : t.memReads = s.memReads
  wait : t.fetchWait = s.fetchWait.filter fun w => !(w.2 == 0 && q w.1.interject w.1.lane != 0)
  gen : ∀ b l, (t.lane l).gen b = (s.lane l).gen b + BitVec.ofNat 8 (q b l)
  buffer : ∀ b l o, (t.lane l).on = some o → ∃ p, (s.lane l).on = some p ∧
    (o.buffer b).length ≤ (p.buffer b).length ∧ (q b l ≠ 0 → o.buffer b = [])

/-- What an operation inside the lanes with at most `n` flushes of each buffer can do to the buffers. -/
def Flows (n : Nat) (s t : State) : Prop := ∃ q, FlowsBy n q s t

theorem Flows.of_same (reads : t.memReads = s.memReads) (wait : t.fetchWait = s.fetchWait)
    (gen : ∀ b l, (t.lane l).gen b = (s.lane l).gen b)
    (buffer : ∀ b l o, (t.lane l).on = some o → ∃ p, (s.lane l).on = some p ∧ (o.buffer b).length ≤ (p.buffer b).length) :
    Flows 0 s t := by
  refine ⟨fun _ _ => 0, fun _ _ => le_rfl, reads, ?_, fun b l => by rw [gen]; simp, fun b l o on => ?_⟩
  · rw [wait]; cases s.fetchWait <;> simp [Option.filter]
  · obtain ⟨p, had, le⟩ := buffer b l o on
    exact ⟨p, had, le, fun h => absurd rfl h⟩

theorem Flows.refl (s : State) : Flows 0 s s := .of_same rfl rfl (fun _ _ => rfl) fun _ _ o on => ⟨o, on, le_rfl⟩

theorem Flows.of_lanes (lanes : t.lanes = s.lanes) (reads : t.memReads = s.memReads) (wait : t.fetchWait = s.fetchWait) :
    Flows 0 s t := by
  have lane (l : LaneId) : t.lane l = s.lane l := by rw [State.lane, lanes]; rfl
  exact .of_same reads wait (fun _ l => by rw [lane]) fun _ l o on => ⟨o, (lane l) ▸ on, le_rfl⟩

theorem Flows.trans (h : Flows m s t) (k : Flows n t u) : Flows (m + n) s u := by
  obtain ⟨q, h⟩ := h
  obtain ⟨r, k⟩ := k
  refine ⟨fun b l => q b l + r b l, fun b l => Nat.add_le_add (h.most b l) (k.most b l), k.reads.trans h.reads, ?_,
    fun b l => ?_, fun b l o on => ?_⟩
  · rw [k.wait, h.wait]
    cases s.fetchWait with
    | none => rfl
    | some w =>
      by_cases ungranted : w.2 = 0 <;> by_cases first : q w.1.interject w.1.lane = 0 <;>
        simp [ungranted, first, Option.filter]
  · rw [k.gen, h.gen, BitVec.add_assoc, BitVec.ofNat_add]
  · obtain ⟨p, had, le, emptied⟩ := k.buffer b l o on
    obtain ⟨p', had', le', emptied'⟩ := h.buffer b l p had
    refine ⟨p', had', le.trans le', fun some_ => ?_⟩
    by_cases second : r b l = 0
    · rw [emptied' (by omega)] at le
      exact List.length_eq_zero_iff.1 (Nat.le_zero.1 le)
    · exact emptied second

theorem Flows.le (h : Flows m s t) (mn : m ≤ n) : Flows n s t := by
  obtain ⟨q, h⟩ := h
  exact ⟨q, fun b l => (h.most b l).trans mn, h.reads, h.wait, h.gen, h.buffer⟩

theorem Flows.ite {p : Prop} [Decidable p] (h : Flows n s t) (k : Flows n s u) : Flows n s (if p then t else u) := by
  split
  · exact h
  · exact k

theorem flows_modLane (l : LaneId) (f : Lane → Lane) (gen : ∀ x b, (f x).gen b = x.gen b)
    (buffer : ∀ x o, (f x).on = some o → ∃ p, x.on = some p ∧ ∀ b, (o.buffer b).length ≤ (p.buffer b).length) :
    Flows 0 s (s.modLane l f) := by
  refine .of_same rfl rfl (fun b k => ?_) fun b k o on => ?_
  · rw [State.lane_modLane]
    split
    · next same => rw [same, gen]
    · rfl
  · rw [State.lane_modLane] at on
    split at on
    · next same =>
      obtain ⟨p, had, le⟩ := buffer _ o on
      exact ⟨p, same ▸ had, le b⟩
    · exact ⟨o, on, le_rfl⟩

theorem flows_modOn (l : LaneId) (f : OnLane → OnLane) (hf : ∀ o b, ((f o).buffer b).length ≤ (o.buffer b).length) :
    Flows 0 s (s.modOn l f) :=
  flows_modLane l _ (fun _ _ => rfl) fun x o on => by
    obtain ⟨p, had, rfl⟩ := Option.map_eq_some_iff.1 on
    exact ⟨p, had, hf p⟩

theorem Flows.modOn (h : Flows n s t) (l : LaneId) (f : OnLane → OnLane)
    (hf : ∀ o b, ((f o).buffer b).length ≤ (o.buffer b).length) : Flows n s (t.modOn l f) := h.trans (flows_modOn l f hf)

theorem flows_keep (l : LaneId) (f : Lane → Lane) (gen : ∀ x b, (f x).gen b = x.gen b) (on : ∀ x, (f x).on = x.on) :
    Flows 0 s (s.modLane l f) := flows_modLane l f gen fun x o found => ⟨o, (on x).symm.trans found, fun _ => le_rfl⟩

theorem flows_note (l : LaneId) (c : Counter) (f : Flag) : Flows 0 s (s.note l c f) :=
  flows_keep l _ (fun _ _ => by rfl) fun _ => by rfl
theorem flows_raise (l : LaneId) (c : Counter) : Flows 0 s (s.raise l c) :=
  flows_keep l _ (fun _ _ => by rfl) fun _ => by rfl
theorem Flows.note (h : Flows n s t) (l : LaneId) (c : Counter) (f : Flag) : Flows n s (t.note l c f) :=
  h.trans (flows_note l c f)
theorem Flows.raise (h : Flows n s t) (l : LaneId) (c : Counter) : Flows n s (t.raise l c) := h.trans (flows_raise l c)
theorem flows_handOver (x : AsRun) : Flows 0 s (s.handOver x) := .of_lanes rfl rfl rfl
theorem Flows.handOver (h : Flows n s t) (x : AsRun) : Flows n s (t.handOver x) := h.trans (flows_handOver x)
theorem flows_modAlert (a : AlertId) (f : Alert → Alert) : Flows 0 s (s.modAlert a f) := .of_lanes rfl rfl rfl
theorem flows_modOrder (i : OrderId) (f : Order → Order) : Flows 0 s (s.modOrder i f) := .of_lanes rfl rfl rfl
theorem flows_withClips (cs : Vector Clip 512) : Flows 0 s (s.withClips cs) := .of_lanes rfl rfl rfl

theorem flows_foldl {β : Type} (f : State → β → State) (h : ∀ s b, Flows n s (f s b)) (xs : List β) :
    ∀ s, Flows (xs.length * n) s (xs.foldl f s) := by
  induction xs with
  | nil => exact fun s => (Flows.refl s).le (Nat.zero_le _)
  | cons x xs ih => exact fun s => ((h s x).trans (ih _)).le (by rw [List.length_cons, Nat.succ_mul]; omega)

theorem flows_finRange (f : State → LaneId → State) (h : ∀ s b, Flows n s (f s b)) (s : State) :
    Flows (64 * n) s ((List.finRange 64).foldl f s) := (flows_foldl f h _ s).le (by rw [List.length_finRange])

/-! ## Flushes -/

/-- The flushes of one flush of buffer `b` of lane `l`. -/
def onceAt (b : Bool) (l : LaneId) : Bool → LaneId → Nat := fun b' k => if b' = b ∧ k = l then 1 else 0

/-- A waiting fetch withdrawn where it is one of the flushed buffer without a line granted. -/
theorem withdraw_wait (s : State) (l : LaneId) (b : Bool) : (s.withdraw l b).fetchWait =
    s.fetchWait.filter fun w => !(w.2 == 0 && onceAt b l w.1.interject w.1.lane != 0) := by
  unfold State.withdraw onceAt
  dsimp only
  congr 1
  funext w
  congr 1
  by_cases ungranted : w.2 = 0 <;> by_cases lane : w.1.lane = l <;> by_cases buffer : w.1.interject = b <;>
    simp [ungranted, lane, buffer]

theorem flows_flush {l : LaneId} {f : Lane → Lane} (b : Bool) (raised : ∀ x, (f x).gen b = x.gen b + 1)
    (other : ∀ x, (f x).gen (!b) = x.gen (!b))
    (buffers : ∀ x o, (f x).on = some o → ∃ p, x.on = some p ∧ o.buffer b = [] ∧ o.buffer (!b) = p.buffer (!b)) :
    Flows 1 s ((s.modLane l f).withdraw l b) := by
  refine ⟨onceAt b l, fun b' k => ?_, rfl, withdraw_wait _ l b, fun b' k => ?_, fun b' k o on => ?_⟩
  · unfold onceAt; split <;> omega
  · rw [State.withdraw_lane, State.lane_modLane]
    unfold onceAt
    split
    · next same =>
      subst same
      by_cases buffer : b' = b
      · subst buffer; rw [raised, if_pos ⟨rfl, rfl⟩]; rfl
      · rw [if_neg fun h => buffer h.1, Bool.eq_not_of_ne buffer, other]; simp
    · next differs => rw [if_neg fun h => differs h.2]; simp
  · rw [State.withdraw_lane, State.lane_modLane] at on
    unfold onceAt
    split at on
    · next same =>
      subst same
      obtain ⟨p, had, emptied, kept⟩ := buffers _ o on
      refine ⟨p, had, ?_⟩
      by_cases buffer : b' = b
      · subst buffer; rw [emptied]; exact ⟨Nat.zero_le _, fun _ => rfl⟩
      · rw [if_neg fun h => buffer h.1, Bool.eq_not_of_ne buffer, kept]
        exact ⟨le_rfl, fun h => absurd rfl h⟩
    · next differs => exact ⟨o, on, le_rfl, fun h => absurd (if_neg fun h => differs h.2) h⟩

theorem flows_flushQueue (l : LaneId) (s : State) : Flows 1 s (flushQueue l s) := by
  refine flows_flush false (fun _ => by rfl) (fun _ => by rfl) fun x o on => ?_
  obtain ⟨p, had, rfl⟩ := Option.map_eq_some_iff.1 on
  exact ⟨p, had, rfl, rfl⟩

theorem flows_flushInterject (l : LaneId) (s : State) : Flows 1 s (flushInterject l s) := by
  refine flows_flush true (fun _ => by rfl) (fun _ => by rfl) fun x o on => ?_
  obtain ⟨p, had, rfl⟩ := Option.map_eq_some_iff.1 on
  exact ⟨p, had, rfl, rfl⟩

/-! ## The source fetcher -/

theorem flows_judgeSource (l : LaneId) (s : State) : Flows 1 s (judgeSource l s) := by
  unfold judgeSource
  split
  · exact (Flows.refl s).le (by omega)
  · exact Flows.ite ((Flows.refl s).le (by omega)) ((flows_flushQueue l s).modOn l _ fun _ _ => by exact le_rfl)

theorem flows_replaceTap (l : LaneId) (x : Tap) (s : State) : Flows 1 s (replaceTap l x s) :=
  (flows_flushQueue l s).modOn l _ fun _ _ => by exact le_rfl

theorem flows_forTaps (src : LaneId) (f : LaneId → Tap → State → State) (h : ∀ l t s, Flows 1 s (f l t s)) (s : State) :
    Flows 64 s (forTaps src f s) := by
  unfold forTaps
  refine flows_finRange (n := 1) _ (fun s l => ?_) s
  split
  · exact h _ _ _
  · exact (Flows.refl s).le (by omega)

theorem flows_tapsIngest (src : LaneId) (k : Nat) (s : State) : Flows 64 s (tapsIngest src k s) := by
  refine flows_forTaps src _ (fun l t s => ?_) s
  split
  · exact (Flows.refl s).le (by omega)
  · exact Flows.ite ((flows_replaceTap l _ s).note l _ _) ((flows_modOn l _ fun _ _ => by exact le_rfl).le (by omega))

theorem flows_tapsLost (src : LaneId) (s : State) : Flows 64 s (tapsLost src s) :=
  flows_forTaps src _ (fun l _ _ => (flows_modOn l _ fun _ _ => by exact le_rfl).le (by omega)) s

theorem flows_tapsResync (src : LaneId) (k : Nat) (s : State) : Flows 64 s (tapsResync src k s) :=
  flows_forTaps src _ (fun l _ s => flows_replaceTap l _ s) s

theorem flows_setReadFault (s : State) (x : Origin) : Flows 0 s (setReadFault s x) := by
  cases x with
  | clip c k => exact .of_lanes rfl rfl rfl
  | tap l k => exact Flows.refl s

theorem flows_interjectFault (l : LaneId) (o : OnLane) (x : Origin) (s : State) : Flows 0 s (interjectFault l o x s) := by
  unfold interjectFault
  dsimp only
  split
  · exact (flows_setReadFault s x).note l _ _
  · exact (((flows_setReadFault s x).note l _ _).trans (flows_modAlert _ _)).modOn l _ fun _ _ => by exact le_rfl

/-! ## The insertion controller -/

theorem flows_lockOrder (b : OrderBody) : Flows 0 s (lockOrder s b) := by
  obtain ⟨cs, h⟩ := lockOrder_eq s b
  rw [h]
  exact flows_withClips cs

theorem flows_releaseOrder (b : OrderBody) : Flows 0 s (releaseOrder s b) := by
  obtain ⟨cs, h⟩ := releaseOrder_eq s b
  rw [h]
  exact flows_withClips cs

theorem flows_bindOrder (l : LaneId) (i : OrderId) (e : BitVec 32) (k : BreakKind) (x : Stamp) (d : Option Stamp) (s : State) :
    Flows 1 s (bindOrder l i e k x d s) := by
  unfold bindOrder
  split
  · exact (Flows.refl s).le (by omega)
  · refine (Flows.modOn ((flows_modOrder i _).trans (flows_lockOrder _)) l _ ?_).trans (flows_judgeSource l _)
    exact fun _ _ => le_rfl

theorem flows_endInsertion (l : LaneId) (a : ActiveInsertion) (k : RecordKind) (x : Option Stamp) (s : State) :
    Flows 1 s (endInsertion l a k x s) := by
  unfold endInsertion
  obtain ⟨cs, h⟩ := disposeOrder_eq a.order (s.handOver (insertionRecord s l a k (x.getD a.ret)))
  dsimp only
  rw [h]
  have disposed := (((flows_handOver (s := s) (insertionRecord s l a k (x.getD a.ret))).trans
    (flows_modOrder a.order Order.dispose)).trans (flows_withClips cs))
  refine (disposed.modOn l _ ?_).trans (flows_judgeSource l _)
  exact fun _ _ => le_rfl

theorem flows_endingStep (l : LaneId) (p : Option Stamp) (s : State) : Flows 1 s (endingStep l p s) := by
  unfold endingStep
  split
  · exact (Flows.refl s).le (by omega)
  · split
    · exact flows_endInsertion l _ _ _ s
    · exact (Flows.refl s).le (by omega)

theorem flows_spliceIn (l : LaneId) (w : WaitingCue) (p : Stamp) (s : State) : Flows 1 s (spliceIn l w p s) := by
  refine (Flows.modOn (flows_modOrder w.order _) l _ ?_).trans (flows_judgeSource l _)
  exact fun _ _ => le_rfl

theorem flows_spliceStep (l : LaneId) (p : Option Stamp) (s : State) : Flows 3 s (spliceStep l p s) := by
  unfold spliceStep
  split
  · next w x _ =>
    split
    · dsimp only
      have spliced (u : State) (first : Flows 1 s u) : Flows 3 s (match ((spliceIn l w x u).lane l).on.bind OnLane.active with
          | some a =>
            if reached (some x) a.ret then endInsertion l a (returnKind a) (some x) (spliceIn l w x u) else spliceIn l w x u
          | none => spliceIn l w x u) := by
        have both := first.trans (flows_spliceIn l w x u)
        split
        · exact Flows.ite (both.trans (flows_endInsertion l _ _ _ _)) (both.le (by omega))
        · exact both.le (by omega)
      cases (s.lane l).on.bind OnLane.active with
      | some a => exact spliced _ (flows_endInsertion l _ _ _ s)
      | none => exact spliced _ ((Flows.refl s).le (by omega))
    · exact (Flows.refl s).le (by omega)
  · exact (Flows.refl s).le (by omega)

theorem flows_removeWaiting (l : LaneId) (w : WaitingCue) (s : State) : Flows 1 s (removeWaiting l w s) := by
  unfold removeWaiting
  dsimp only
  refine (Flows.modOn (n := 0) ?_ l _ ?_).trans (flows_judgeSource l _)
  · split
    · exact (flows_modOrder _ _).trans (flows_releaseOrder _)
    · exact flows_modOrder _ _
  · exact fun _ _ => le_rfl

theorem flows_decideCue (l : LaneId) (x : CueTiming) (c : Cue) (s : State) : Flows 1 s (decideCue l x c s).2 := by
  have same : Flows 1 s s := (Flows.refl s).le (by omega)
  unfold decideCue
  split
  · exact same
  · unfold bindCue
    split
    · exact same
    · split
      · exact same
      · split <;> exact flows_bindOrder l _ _ _ _ _ s
  · unfold returnCue
    dsimp only
    split
    · exact (flows_modOn l _ fun _ _ => by exact le_rfl).le (by omega)
    · exact (flows_modOn l _ fun _ _ => by exact le_rfl).le (by omega)
    · exact same
  · unfold cancelCue
    dsimp only
    split
    · exact flows_removeWaiting l _ s
    · exact same
    · exact same

theorem flows_takeCue (l : LaneId) (c : Cue) (a : Arrival) (s : State) : Flows 1 s (takeCue l c a s) := by
  unfold takeCue
  split
  · exact (Flows.refl s).le (by omega)
  · split
    · exact (flows_raise l _).le (by omega)
    · dsimp only
      split
      · exact ((flows_decideCue l _ c s).modOn l _ fun _ _ => by exact le_rfl).handOver _
      · exact (flows_decideCue l _ c s).modOn l _ fun _ _ => by exact le_rfl

/-! ## The feed monitor, the alerts and the parser -/

theorem flows_judgeProof (l : LaneId) (s : State) : Flows 1 s (judgeProof l s) := by
  have entered (r : LaneRecord) (o : OnLane) : Flows 1 s (enterLive l r o s) := by
    unfold enterLive
    refine (Flows.modOn (n := 0) ?_ l _ ?_).trans (flows_judgeSource l _)
    · split
      · exact flows_handOver _
      · exact Flows.refl s
    · exact fun _ _ => le_rfl
  unfold judgeProof
  split
  · exact (Flows.refl s).le (by omega)
  · exact Flows.ite (entered _ _) ((Flows.refl s).le (by omega))

theorem flows_feedIngest (l : LaneId) (s : State) : Flows 1 s (feedIngest l s) :=
  (flows_modOn l _ fun _ _ => by exact le_rfl).trans (flows_judgeProof l _)

theorem flows_captureNotice (l : LaneId) (s : State) : Flows 1 s (captureNotice l s) :=
  (flows_modOn l _ fun _ _ => by exact le_rfl).trans (flows_judgeProof l _)

theorem flows_feedLost (l : LaneId) (r : LaneRecord) (o : OnLane) (s : State) : Flows 1 s (feedLost l r o s) := by
  refine (Flows.modOn (Flows.handOver (flows_modOn l _ ?_) _) l _ ?_).trans (flows_judgeSource l _)
  · exact fun _ _ => le_rfl
  · exact fun _ _ => le_rfl

theorem flows_restack (l : LaneId) (f : List StackEntry → List StackEntry) (s : State) : Flows 2 s (restack l f s) := by
  unfold restack
  split
  · exact (Flows.refl s).le (by omega)
  · refine Flows.ite ((flows_modOn l _ fun _ _ => by exact le_rfl).le (by omega))
      (((flows_flushInterject l s).modOn l _ ?_).trans (flows_judgeSource l _))
    exact fun _ _ => le_rfl

theorem flows_joinAlert (a : AlertId) (b : AlertBody) (l : LaneId) (s : State) : Flows 2 s (joinAlert a b l s) := by
  unfold joinAlert
  split
  · exact (Flows.refl s).le (by omega)
  · exact ((Flows.ite (flows_keep l _ (fun _ _ => by rfl) fun _ => by rfl) (Flows.refl s)).trans (flows_restack l _ _)).le (by omega)

theorem flows_leaveAlert (a : AlertId) (s : State) : Flows 128 s (leaveAlert a s) := by
  unfold leaveAlert
  refine flows_finRange _ (n := 2) (fun s l => ?_) s
  split
  · exact Flows.ite (flows_restack l _ s) ((Flows.refl s).le (by omega))
  · exact (Flows.refl s).le (by omega)

theorem flows_endAlert (a : AlertId) (b : AlertBody) (x : AlertCause) (s : State) : Flows 128 s (endAlert a b x s) := by
  have left := flows_leaveAlert a s
  unfold endAlert
  generalize leaveAlert a s = u at left
  exact left.trans (n := 0) (.of_lanes rfl rfl rfl)

theorem flows_refreshStep (l : LaneId) (a : Arrival) (s : State) : Flows 0 s (refreshStep l a s) :=
  flows_modOn l _ fun _ _ => by exact le_rfl

theorem flows_clockStep (l : LaneId) (r : LaneRecord) (p : Packet) (a : Arrival) (s : State) : Flows 1 s (clockStep l r p a s) := by
  have captured : Flows 1 s (captureStep l p a s) := by
    unfold captureStep
    refine (Flows.ite (n := 0) (Flows.note ?_ l _ _) ?_).trans (flows_captureNotice l _) <;>
      exact flows_modOn l _ fun _ _ => by exact le_rfl
  unfold clockStep
  exact Flows.ite (Flows.ite captured (((flows_note l _ _).trans (flows_refreshStep l a _)).le (by omega)))
    ((flows_refreshStep l a s).le (by omega))

theorem flows_parseSlot (l : LaneId) (r : LaneRecord) (x : SlotData) (s : State) : Flows 2 s (parseSlot l r x s) := by
  have refreshed (c : Counter) (f : Flag) (a : Arrival) : Flows 2 s (refreshStep l a (s.note l c f)) :=
    ((flows_note l c f).trans (flows_refreshStep l a _)).le (by omega)
  unfold parseSlot
  dsimp only
  split
  · exact refreshed _ _ _
  · split
    · exact refreshed _ _ _
    · exact refreshed _ _ _
    · have clocked := flows_clockStep l r (slotPacket x) (slotStamp x) s
      refine clocked.trans (n := 1) ?_
      unfold cueStep
      split
      · split
        · exact (flows_raise l _).le (by omega)
        · split
          · exact (flows_raise l _).le (by omega)
          · exact ((flows_note l _ _).handOver _).le (by omega)
          · exact flows_takeCue l _ _ _
      · exact (Flows.refl _).le (by omega)

theorem flows_ingestBase (l : LaneId) (r : LaneRecord) (x : SlotData) (s : State) : Flows 64 s (ingestBase l r x s) := by
  have ingested : Flows 0 s (s.modOn l fun o => { o with track := o.track.ingestSlot r (slotStamp x) }) :=
    flows_modOn l _ fun _ _ => by exact le_rfl
  have noted (b : Bool) := Flows.ite (p := b = true) (ingested.note l .overrun .overrun) ingested
  exact Flows.ite (((noted _).trans (flows_tapsIngest l r.slots _)).le (by omega)) ((noted _).le (by omega))

theorem flows_ingestStep (l : LaneId) (r : LaneRecord) (x : SlotData) (ff : Bool) (s : State) :
    Flows 67 s (ingestStep l r x ff s) := by
  have based := flows_ingestBase l r x s
  rw [ingestStep_eq]
  split
  · exact (based.trans (flows_feedIngest l _)).trans (flows_parseSlot l _ _ _)
  · exact (based.trans (flows_parseSlot l _ _ _)).trans (flows_feedIngest l _)

theorem flows_ringStep (l : LaneId) (k line : Nat) (d : Line) (e : Enables) (ff : Bool) (s : State) :
    Flows 128 s (ringStep l k line d e ff s) := by
  have resync (r : LaneRecord) (s : State) : Flows 64 s (resyncStep l r k line d e s) := by
    have placed : Flows 0 s (s.modOn l fun o => { o with track := o.track.resync r k d }) :=
      flows_modOn l _ fun _ _ => by exact le_rfl
    exact Flows.ite (Flows.ite ((placed.trans (flows_tapsResync l k _)).le (by omega)) (placed.le (by omega)))
      ((Flows.refl s).le (by omega))
  have lose (r : LaneRecord) : Flows 64 s (loseSync l r s) := by
    have lost : Flows 0 s (s.modOn l fun o => { o with track := { o.track with ingest := .unsynchronised } }) :=
      flows_modOn l _ fun _ _ => by exact le_rfl
    exact Flows.ite (((lost.note l _ _).trans (flows_tapsLost l _)).le (by omega)) ((lost.note l _ _).le (by omega))
  unfold ringStep
  split
  · exact (Flows.refl s).le (by omega)
  · split
    · exact (resync _ s).le (by omega)
    · split
      · dsimp only
        have accepted (x : SlotData) (n : IngestCursor) :
            Flows 0 s (s.modOn l fun o => { o with track := { o.track with assembly := x, ingest := n } }) :=
          flows_modOn l _ fun _ _ => by exact le_rfl
        exact Flows.ite ((accepted _ _).le (by omega)) (((accepted _ _).trans (flows_ingestStep l _ _ ff _)).le (by omega))
      · exact (lose _).trans (resync _ _)

/-! ## The slot selector -/

theorem tail_length_le {α : Type} (xs : List α) : xs.tail.length ≤ xs.length := by rw [List.length_tail]; omega

theorem ownerServed_fetch (s : State) (r : LaneRecord) (cl : SourceClass) (d : Decided) (e : QueueEntry) (o : OnLane) :
    (ownerServed s r cl d e o).fetch = o.fetch := by
  unfold ownerServed
  split
  · split <;> rfl
  · rfl
  · rfl
  · rfl

theorem flows_takeHead (l : LaneId) (r : LaneRecord) (cl : SourceClass) (d : Decided) (e : QueueEntry) (s : State) :
    Flows 0 s (takeHead l r cl d e s) := by
  have owned : Flows 0 s (s.modOn l fun o => { ownerServed s r cl d e o with
      fetch := { (ownerServed s r cl d e o).fetch with queue := (ownerServed s r cl d e o).fetch.queue.tail } }) := by
    refine flows_modOn l _ fun o b => ?_
    cases b
    · change (ownerServed s r cl d e o).fetch.queue.tail.length ≤ o.fetch.queue.length
      rw [ownerServed_fetch]
      exact tail_length_le _
    · change (ownerServed s r cl d e o).fetch.interject.length ≤ o.fetch.interject.length
      rw [ownerServed_fetch]
  unfold takeHead
  dsimp only
  refine Flows.ite (Flows.note (Flows.trans (m := 0) ?_ (flows_setReadFault _ _)) l _ _) ?_ <;>
  · split
    · exact owned.trans (flows_modAlert _ _)
    · exact owned

theorem flows_underrun (l : LaneId) (cl : SourceClass) (d : Decided) (s : State) : Flows 0 s (underrun l cl d s) := by
  unfold underrun
  dsimp only
  split
  · split
    · exact (flows_note l _ _).trans (flows_modAlert _ _)
    · exact flows_note l _ _
  · exact (flows_note l _ _).modOn l _ fun _ _ => by exact le_rfl
  · exact (flows_note l _ _).modOn l _ fun _ _ => by exact le_rfl
  · exact flows_note l _ _

theorem flows_chooseSource (l : LaneId) (r : LaneRecord) (cl : SourceClass) (d : Decided) (s : State) :
    Flows 0 s (chooseSource l r cl d s).2 := by
  have prepared (cl : SourceClass) (e : QueueEntry) (s : State) : Flows 0 s (prepareTaken l r cl d e s).2 := by
    unfold prepareTaken
    split
    · exact Flows.refl s
    · split
      · exact Flows.refl s
      · exact flows_note l _ _
      · exact Flows.ite (flows_raise l _) (Flows.refl s)
  unfold chooseSource
  split
  · exact Flows.refl s
  · exact Flows.refl s
  · split
    · exact flows_modOn l _ fun _ _ => by exact le_rfl
    · split
      · exact flows_underrun l _ d s
      · exact (flows_takeHead l r _ d _ s).trans (prepared _ _ _)

theorem flows_interjectStep (l : LaneId) (r : LaneRecord) (d : Decided) (out : Outgoing) (s : State) :
    Flows 0 s (interjectStep l r d out s).2 := by
  have sent (lb : Label) (e : StackEntry) (q : QueueEntry) (x : Bool) (s : State) :
      Flows 0 s (sendInterject l r d lb e q x out s).2 := by
    have took : Flows 0 s ((s.modOn l fun o =>
        { o with
          stack := modEntry o.stack (e.send s d q).id fun _ => e.send s d q
          fetch := { o.fetch with interject := o.fetch.interject.tail }
          sel := if x then o.sel.displaced r d out else o.sel }).modAlert (e.send s d q).id
            fun a => { a with served := raise32 a.served }) := by
      refine Flows.trans (m := 0) (flows_modOn l _ fun o b => ?_) (flows_modAlert _ _)
      cases b
      · exact le_rfl
      · exact tail_length_le _
    exact Flows.ite (Flows.ite (took.raise l _) took |>.raise l _) (Flows.ite (took.raise l _) took)
  unfold interjectStep
  split
  · exact Flows.refl s
  · split
    · exact Flows.refl s
    · split
      · exact Flows.refl s
      · dsimp only
        split
        · split
          · exact (flows_modOn l _ fun _ _ => by exact le_rfl).trans (sent _ _ _ _ _)
          · exact (flows_modOn l _ fun _ _ => by exact le_rfl).trans (sent _ _ _ _ _)
          · exact (flows_modOn l _ fun _ _ => by exact le_rfl).modOn l _ fun _ _ => by exact le_rfl
        · exact flows_modOn l _ fun _ _ => by exact le_rfl

theorem flows_serveSlot (l : LaneId) (r : LaneRecord) (d : Decided) (s : State) : Flows 0 s (serveSlot l r d s) := by
  have shadowed : Flows 0 s (shadowStep l d s) := flows_modOn l _ fun _ _ => by exact le_rfl
  unfold serveSlot
  split
  · exact Flows.refl s
  · exact ((shadowed.trans (flows_chooseSource l r _ d _)).trans (flows_interjectStep l r d _ _)).modOn l _
      fun _ _ => by exact le_rfl

theorem flows_contentPart (l : LaneId) (d : Line) (err : Bool) (s : State) : Flows 4 s (contentPart l d err s) := by
  unfold contentPart
  split
  · exact (Flows.refl s).le (by omega)
  · split
    · exact (Flows.refl s).le (by omega)
    · dsimp only
      refine Flows.trans (m := 4) ?_ (flows_serveSlot l _ _ _)
      refine Flows.trans (m := 0) ?_ ((flows_endingStep l _ _).trans (flows_spliceStep l _ _))
      exact (Flows.ite (flows_note l _ _) (Flows.refl s)).modOn l _ fun _ _ => by exact le_rfl

end Sys2Proof.Machine
end

section
/-! PROOF. The places of the queues and interject buffers, and the waiting prefetch read, under every event (R64, R67, R73):
O9. -/

namespace Sys2Proof.Machine

variable {s t u : State} {c : Instr} {n : Nat}

/-! ## The places of a buffer -/

/-- The places of a prefetch queue (R67) or interject buffer (R73). -/
def places (interject : Bool) : Nat := if interject then 2 else 8

/-- The invariant, buffer by buffer. -/
theorem placesInv_iff : PlacesInv s ↔ ∀ b l,
    (∀ o, (s.lane l).on = some o → (o.buffer b).length + s.inFlight l b ≤ places b) ∧ s.alive l b ≤ places b :=
  ⟨fun h b l => match b with
    | false => ⟨h.queue l, h.queueAlive l⟩
    | true => ⟨h.interject l, h.interjectAlive l⟩,
   fun h => ⟨fun l => (h false l).1, fun l => (h true l).1, fun l => (h false l).2, fun l => (h true l).2⟩⟩

/-- The fetch is one of the buffer, issued since the last reset. -/
def FetchTag.aliveOf (f : FetchTag) (l : LaneId) (b : Bool) : Bool := f.isOf l b && !f.dead

/-- The fetch is one of the buffer, of the generation, issued since the last reset. -/
def FetchTag.flightOf (f : FetchTag) (l : LaneId) (b : Bool) (gen : BitVec 8) : Bool := f.isOf l b && f.gen == gen && !f.dead

theorem alive_eq (s : State) (l : LaneId) (b : Bool) : s.alive l b = s.fetches.countP fun f => f.aliveOf l b :=
  List.countP_eq_length_filter.symm

theorem inFlight_eq (s : State) (l : LaneId) (b : Bool) :
    s.inFlight l b = s.fetches.countP fun f => f.flightOf l b ((s.lane l).gen b) := List.countP_eq_length_filter.symm

theorem inFlight_le_alive (s : State) (l : LaneId) (b : Bool) : s.inFlight l b ≤ s.alive l b := by
  rw [inFlight_eq, alive_eq]
  refine List.countP_mono_left fun f _ flight => ?_
  simp only [FetchTag.flightOf, FetchTag.aliveOf, Bool.and_eq_true] at flight ⊢
  exact ⟨flight.1.1, flight.2⟩

/-- No fetch more outstanding, no lane's generation changed, no buffer grown. -/
theorem PlacesInv.shrink (inv : PlacesInv s) (fetches : ∀ p, t.fetches.countP p ≤ s.fetches.countP p)
    (lanes : ∀ b l o, (t.lane l).on = some o → o.buffer b = [] ∨ ∃ p, (s.lane l).on = some p ∧
      (o.buffer b).length ≤ (p.buffer b).length ∧ (t.lane l).gen b = (s.lane l).gen b) : PlacesInv t := by
  rw [placesInv_iff] at inv ⊢
  intro b l
  have alive : t.alive l b ≤ places b := by
    rw [alive_eq]
    exact (fetches _).trans (by rw [← alive_eq]; exact (inv b l).2)
  refine ⟨fun o on => ?_, alive⟩
  obtain empty | ⟨p, had, le, gen⟩ := lanes b l o on
  · rw [empty, List.length_nil, Nat.zero_add]
    exact (inFlight_le_alive t l b).trans alive
  · have flight : t.inFlight l b ≤ s.inFlight l b := by rw [inFlight_eq, inFlight_eq, gen]; exact fetches _
    exact (Nat.add_le_add le flight).trans ((inv b l).1 p had)

/-- The last lines of fetches among the reads on the memory port. -/
def lastFetches (rs : List MemRead) : List FetchTag :=
  rs.filterMap fun
    | .fetch t true => some t
    | _ => none

theorem fetches_eq (s : State) : s.fetches = (s.fetchWait.map Prod.fst).toList ++ lastFetches s.memReads := rfl

theorem fetches_congr (wait : t.fetchWait = s.fetchWait) (reads : t.memReads = s.memReads) : t.fetches = s.fetches := by
  rw [fetches_eq, fetches_eq, wait, reads]

/-- Nothing of the fetches or the lanes has changed. -/
theorem PlacesInv.same (inv : PlacesInv s) (lanes : t.lanes = s.lanes) (wait : t.fetchWait = s.fetchWait)
    (reads : t.memReads = s.memReads) : PlacesInv t := by
  have lane (l : LaneId) : t.lane l = s.lane l := by rw [State.lane, lanes]; rfl
  exact inv.shrink (fun _ => by rw [fetches_congr wait reads]) fun b l o on =>
    .inr ⟨o, (lane l) ▸ on, le_rfl, by rw [lane]⟩

/-- What happens inside the lanes keeps the places. -/
theorem PlacesInv.flows (inv : PlacesInv s) (h : Flows n s t) : PlacesInv t := by
  obtain ⟨q, h⟩ := h
  refine inv.shrink (fun p => ?_) fun b l o on => ?_
  · rw [fetches_eq, fetches_eq, h.reads, h.wait]
    refine List.Sublist.countP_le (List.Sublist.append_right ?_ _)
    cases s.fetchWait with
    | none => exact List.Sublist.refl _
    | some w =>
      rw [Option.filter_some]
      split
      · exact List.Sublist.refl _
      · exact List.nil_sublist _
  · obtain ⟨p, had, le, emptied⟩ := h.buffer b l o on
    by_cases still : q b l = 0
    · exact .inr ⟨p, had, le, by rw [h.gen, still]; simp⟩
    · exact .inl (emptied still)

/-! ## The waiting read -/

/-- The waiting read withdrawn by flushes that the generations tell is withdrawn as R64 has it. -/
theorem withdrawn_of_flushes (q : Bool → LaneId → Nat)
    (wait : t.fetchWait = s.fetchWait.filter fun w => !(w.2 == 0 && q w.1.interject w.1.lane != 0))
    (told : ∀ b l, (t.lane l).gen b ≠ (s.lane l).gen b ↔ q b l ≠ 0) : Withdrawn s t := by
  unfold Withdrawn
  rw [wait]
  cases s.fetchWait with
  | none => rfl
  | some w =>
    have flushed : (if w.1.interject = true then (t.lane w.1.lane).interjectGen ≠ (s.lane w.1.lane).interjectGen
        else (t.lane w.1.lane).queueGen ≠ (s.lane w.1.lane).queueGen) ↔ q w.1.interject w.1.lane ≠ 0 := by
      rw [← told]
      unfold Lane.gen
      cases w.1.interject <;> simp
    simp only [Option.bind_some, flushed]
    by_cases ungranted : w.2 = 0 <;> by_cases once : q w.1.interject w.1.lane = 0 <;> simp [ungranted, once, Option.filter]

theorem withdrawn_of_flows (h : Flows n s t) (few : n < 256) : Withdrawn s t := by
  obtain ⟨q, h⟩ := h
  refine withdrawn_of_flushes q h.wait fun b l => ?_
  have most := h.most b l
  rw [h.gen, ne_eq, ne_eq, not_iff_not, ← BitVec.toNat_inj, BitVec.toNat_add, BitVec.toNat_ofNat]
  have := ((s.lane l).gen b).isLt
  omega

theorem withdrawn_of_same (wait : t.fetchWait = s.fetchWait) (gen : ∀ b l, (t.lane l).gen b = (s.lane l).gen b) :
    Withdrawn s t :=
  withdrawn_of_flushes (fun _ _ => 0) (by rw [wait]; cases s.fetchWait <;> simp [Option.filter]) fun b l => by simp [gen]

theorem withdrawn_of_lanes (wait : t.fetchWait = s.fetchWait) (lanes : t.lanes = s.lanes) : Withdrawn s t :=
  withdrawn_of_same wait fun _ _ => by rw [State.lane, lanes]; rfl

/-! ## The reads on the memory port -/

/-- The data taken from the memory port: the silent reads before it are lines of fetches still under way. -/
theorem lastFetches_of_nextDue {rs rest : List MemRead} {r : MemRead} (due : nextDue rs = some (r, rest)) :
    lastFetches rs = lastFetches (r :: rest) := by
  obtain ⟨front, rfl, silent, -⟩ := nextDue_spec due
  unfold lastFetches
  rw [List.filterMap_append, List.filterMap_eq_nil_iff.2 fun x mem => ?_]
  · rfl
  have quiet := silent x mem
  cases x with
  | up => rfl
  | posting => rfl
  | fetch f last => cases last <;> simp_all [MemRead.silent]

/-- A fetch whose data is due has returned its last line. -/
theorem last_of_nextDue {rs rest : List MemRead} {f : FetchTag} {last : Bool} (due : nextDue rs = some (.fetch f last, rest)) :
    last = true := by
  obtain ⟨-, -, -, loud⟩ := nextDue_spec due
  simpa [MemRead.silent] using loud

theorem PlacesInv.taken (inv : PlacesInv s) {r : MemRead} {rest : List MemRead} (due : nextDue s.memReads = some (r, rest)) :
    PlacesInv { s with memReads := rest } := by
  refine inv.shrink (fun p => List.Sublist.countP_le ?_) fun b l o on => .inr ⟨o, on, le_rfl, rfl⟩
  change List.Sublist ((s.fetchWait.map Prod.fst).toList ++ lastFetches rest) s.fetches
  rw [fetches_eq, lastFetches_of_nextDue due]
  exact List.Sublist.append_left (List.Sublist.filterMap _ (List.sublist_cons_self _ _)) _

/-! ## The fetches -/

/-- A completed fetch takes its place in the buffer (R69, R73). -/
theorem PlacesInv.completeFetch (inv : PlacesInv s) {f : FetchTag} {last : Bool} {rest : List MemRead}
    (due : nextDue s.memReads = some (.fetch f last, rest)) (d : SlotData) (errs : BitVec 3) :
    PlacesInv (completeFetch f d errs { s with memReads := rest }) := by
  have taken := inv.taken due
  have fetches : s.fetches = (s.fetchWait.map Prod.fst).toList ++ f :: lastFetches rest := by
    rw [fetches_eq, lastFetches_of_nextDue due, last_of_nextDue due]
    rfl
  have joined (b : Bool) (same : f.interject = b) (gen : f.gen = (s.lane f.lane).gen b) (living : f.dead = false)
      (g : OnLane → OnLane) (one : ∀ o, ((g o).buffer b).length = (o.buffer b).length + 1)
      (other : ∀ o, ((g o).buffer (!b)).length = (o.buffer (!b)).length) :
      PlacesInv (State.modOn { s with memReads := rest } f.lane g) := by
    rw [placesInv_iff] at inv taken ⊢
    intro b' l
    refine ⟨fun o on => ?_, (taken b' l).2⟩
    have flight : State.inFlight (State.modOn { s with memReads := rest } f.lane g) l b' =
        State.inFlight { s with memReads := rest } l b' := by
      rw [inFlight_eq, inFlight_eq, State.lane_modOn]
      split
      · next here => rw [here]; rfl
      · rfl
    rw [flight]
    rw [State.lane_modOn] at on
    split at on
    · next here =>
      subst here
      obtain ⟨p, had, rfl⟩ := Option.map_eq_some_iff.1 on
      by_cases buffer : b' = b
      · subst buffer
        have full := (inv b' f.lane).1 p had
        have counted : f.flightOf f.lane b' ((s.lane f.lane).gen b') = true := by
          simp [FetchTag.flightOf, FetchTag.isOf, same, gen, living]
        have before : s.inFlight f.lane b' = State.inFlight { s with memReads := rest } f.lane b' + 1 := by
          have gone : State.fetches { s with memReads := rest } = (s.fetchWait.map Prod.fst).toList ++ lastFetches rest := rfl
          rw [inFlight_eq, inFlight_eq, fetches, gone, List.countP_append, List.countP_append, List.countP_cons, if_pos counted]
          exact (Nat.add_assoc _ _ _).symm
        rw [one]
        omega
      · rw [Bool.eq_not_of_ne buffer, other]
        exact (taken (!b) f.lane).1 p had
    · exact (taken b' l).1 o on
  unfold Machine.completeFetch
  split
  · exact taken
  · split
    · exact taken
    · next present =>
      rw [not_or, Decidable.not_not, Bool.not_eq_true] at present
      obtain ⟨living, gen⟩ := present
      split
      · next interject =>
        split
        · exact taken.flows (flows_interjectFault _ _ _ _)
        · exact joined true interject (by rw [← interject]; exact gen) living _ (fun o => by simp [OnLane.buffer]) fun o => by rfl
      · next queue =>
        have queue : f.interject = false := by simpa using queue
        exact joined false queue (by rw [← queue]; exact gen) living _ (fun o => by simp [OnLane.buffer]) fun o => by rfl

/-- A completed fetch leaves the waiting read alone. -/
theorem withdrawn_completeFetch (f : FetchTag) (d : SlotData) (errs : BitVec 3) (s : State) :
    Withdrawn s (completeFetch f d errs s) := by
  have joined (g : OnLane → OnLane) : Withdrawn s (s.modOn f.lane g) := by
    refine withdrawn_of_same rfl fun b l => ?_
    rw [State.lane_modOn]
    split
    · next here => rw [here]; rfl
    · rfl
  have none_ : Withdrawn s s := withdrawn_of_lanes rfl rfl
  unfold completeFetch
  split
  · exact none_
  · split
    · exact none_
    · split
      · split
        · exact withdrawn_of_flows (flows_interjectFault _ _ _ _) (by omega)
        · exact joined _
      · exact joined _

/-- A fetch issued into a free place, none of another generation outstanding (R64, R67). -/
theorem PlacesInv.issue (inv : PlacesInv s) {l : LaneId} {b : Bool} {o : OnLane} (on : (s.lane l).on = some o)
    (free : (o.buffer b).length + s.inFlight l b < places b) (clear : s.heldBack l b = false) (idle : s.fetchWait = none)
    (origin : Origin) (addr : Nat) (start : Bool) (g : OnLane → OnLane)
    (same : ∀ o b, ((g o).buffer b).length = (o.buffer b).length) :
    PlacesInv (State.modOn { s with fetchWait := some (s.tagOf l b origin addr start, 0) } l g) := by
  have fetches : State.fetches (State.modOn { s with fetchWait := some (s.tagOf l b origin addr start, 0) } l g) =
      s.tagOf l b origin addr start :: s.fetches := by rw [fetches_eq s, idle]; rfl
  have gen (k : LaneId) (b' : Bool) : ((State.modOn { s with fetchWait := some (s.tagOf l b origin addr start, 0) } l g).lane k).gen b' =
      (s.lane k).gen b' := by
    rw [State.lane_modOn]
    split
    · next here => rw [here]; rfl
    · rfl
  have present : s.alive l b = s.inFlight l b := by
    rw [alive_eq, inFlight_eq]
    refine List.countP_congr fun f mem => ?_
    have held : (f.dead || (f.isOf l b && f.gen != (s.lane l).gen b)) = false := by
      rw [State.heldBack, List.any_eq_false] at clear
      simpa using clear f mem
    rw [Bool.or_eq_false_iff] at held
    simp only [FetchTag.aliveOf, FetchTag.flightOf, held.1]
    cases mine : f.isOf l b
    · simp
    · simpa [mine] using held.2
  rw [placesInv_iff] at inv ⊢
  intro b' k
  have mine (k : LaneId) (b' : Bool) : (s.tagOf l b origin addr start).isOf k b' = true ↔ l = k ∧ b = b' := by
    simp [FetchTag.isOf, State.tagOf]
  by_cases here : l = k ∧ b = b'
  · obtain ⟨rfl, rfl⟩ := here
    refine ⟨fun p found => ?_, ?_⟩
    · rw [State.lane_modOn_self] at found
      obtain ⟨p', had, rfl⟩ := Option.map_eq_some_iff.1 found
      cases on.symm.trans had
      rw [inFlight_eq, fetches, gen, List.countP_cons, ← inFlight_eq, same]
      split <;> omega
    · rw [alive_eq, fetches, List.countP_cons, ← alive_eq, present]
      split <;> omega
  · have notMine : (s.tagOf l b origin addr start).isOf k b' = false := by
      rw [Bool.eq_false_iff, ne_eq, mine]; exact here
    refine ⟨fun p found => ?_, ?_⟩
    · rw [inFlight_eq, fetches, gen, List.countP_cons, ← inFlight_eq]
      simp only [FetchTag.flightOf, notMine, Bool.false_and, Bool.false_eq_true, if_false, Nat.add_zero]
      rw [State.lane_modOn] at found
      split at found
      · next at_ =>
        subst at_
        obtain ⟨p', had, rfl⟩ := Option.map_eq_some_iff.1 found
        rw [same]
        exact (inv b' k).1 p' had
      · exact (inv b' k).1 p found
    · rw [alive_eq, fetches, List.countP_cons, ← alive_eq]
      simp only [FetchTag.aliveOf, notMine, Bool.false_and, Bool.false_eq_true, if_false, Nat.add_zero]
      exact (inv b' k).2

theorem prefetchToMake_spec {l : LaneId} {p : Origin × Nat × Bool × FetchCursor} (some_ : prefetchToMake s l = some p) :
    ∃ r o, s.onOutput l = some (r, o) ∧ o.fetch.source.isSome = true ∧ o.fetch.queue.length + s.inFlight l false < 8 ∧
      s.heldBack l false = false ∧ o.fetch.cursor.bind (nextFetch s) = some p := by
  unfold prefetchToMake at some_
  split at some_
  · cases some_
  · next r o on =>
    split at some_
    · next may => exact ⟨r, o, on, may.1, may.2.1, by simpa using may.2.2, some_⟩
    · cases some_

theorem interjectToMake_spec {l : LaneId} {p : Origin × Nat × Bool × InterjectCursor} (some_ : interjectToMake s l = some p) :
    ∃ r o, s.onOutput l = some (r, o) ∧ o.fetch.interject.length + s.inFlight l true < 2 ∧ s.heldBack l true = false := by
  unfold interjectToMake at some_
  split at some_
  · cases some_
  · next r o on =>
    split at some_
    · cases some_
    · split at some_
      · next may => exact ⟨r, o, on, may.1, by simpa using may.2⟩
      · cases some_

theorem PlacesInv.issueFor (inv : PlacesInv s) (idle : s.fetchWait = none) {l : LaneId} (issued : issueFor l s = some t) :
    PlacesInv t := by
  have prefetch {p} (some_ : prefetchToMake s l = some p) : PlacesInv (issuePrefetch l p s) := by
    obtain ⟨r, o, out, -, free, clear, -⟩ := prefetchToMake_spec some_
    exact inv.issue (b := false) (onOutput_spec.1 out).2.1 free clear idle _ _ _ _ fun _ b => by cases b <;> rfl
  have interject {p} (some_ : interjectToMake s l = some p) : PlacesInv (issueInterject l p s) := by
    obtain ⟨r, o, out, free, clear⟩ := interjectToMake_spec some_
    exact inv.issue (b := true) (onOutput_spec.1 out).2.1 free clear idle _ _ _ _ fun _ b => by cases b <;> rfl
  unfold Machine.issueFor at issued
  dsimp only at issued
  split at issued
  · next made made' =>
    cases issued
    split
    · exact prefetch made
    · exact interject made'
  · next made _ => cases issued; exact prefetch made
  · next _ made => cases issued; exact interject made
  · cases issued

/-! ## The arbiter and the resets -/

/-- The waiting read's lines go to the memory port one by one; with the last the fetch waits no more (R7). -/
theorem grant_fetches (s : State) : (grant s).fetches.Perm s.fetches := by
  have up (x : UpTxn) (rest : List UpTxn) : (grantUp x rest s).fetches = s.fetches := by
    cases x with
    | write => rfl
    | read a sv =>
      change (s.fetchWait.map Prod.fst).toList ++ lastFetches (s.memReads ++ [.up a sv]) = _
      unfold lastFetches
      rw [List.filterMap_append]
      simp [fetches_eq, lastFetches]
  have part (p : PartTxn) (waits : waitingPart s = some p) : (grantPart p s).fetches.Perm s.fetches := by
    cases p with
    | posting w =>
      change ((s.fetchWait.map Prod.fst).toList ++ lastFetches (s.memReads ++ [.posting w.granted false])).Perm _
      unfold lastFetches
      rw [List.filterMap_append]
      simp [fetches_eq, lastFetches]
    | report x => exact List.Perm.refl _
    | fetch f line =>
      have wait : s.fetchWait = some (f, line) := by
        unfold waitingPart at waits
        split at waits
        · cases waits
        · split at waits
          · cases waits
          · obtain ⟨w, found, eq⟩ := Option.map_eq_some_iff.1 waits
            cases eq
            exact found
      change ((Option.map Prod.fst (if line < 2 then some (f, line + 1) else none)).toList ++
        lastFetches (s.memReads ++ [.fetch f (decide (2 ≤ line))])).Perm _
      rw [fetches_eq, wait]
      unfold lastFetches
      rw [List.filterMap_append]
      by_cases more : line < 2
      · simp [more, Nat.not_le.2 more]
      · simp [more, Nat.not_lt.1 more]
  unfold grant
  split
  · exact .of_eq (up _ _)
  · next p _ waits => exact part p waits
  · next p _ waits =>
    split
    · exact .of_eq (up _ _)
    · exact part p waits
  · exact List.Perm.refl _

/-- Every fetch still outstanding after a reset is from before it. -/
theorem orphanReads_dead (rs : List MemRead) : ∀ f ∈ lastFetches (orphanReads rs), f.dead = true := by
  unfold orphanReads
  induction rs with
  | nil => exact fun f mem => absurd mem List.not_mem_nil
  | cons r rs ih =>
    intro f mem
    unfold lastFetches at mem ih
    rw [List.mem_filterMap] at mem
    obtain ⟨x, mem, eq⟩ := mem
    rw [List.foldr_cons] at mem
    cases r with
    | up a sv =>
      rcases List.mem_cons.1 mem with rfl | mem
      · cases eq
      · exact ih f (List.mem_filterMap.2 ⟨x, mem, eq⟩)
    | posting n dead =>
      rcases List.mem_cons.1 mem with rfl | mem
      · cases eq
      · exact ih f (List.mem_filterMap.2 ⟨x, mem, eq⟩)
    | fetch g last =>
      rcases List.mem_cons.1 mem with rfl | mem
      · generalize (last || _) = whole at eq
        cases whole
        · cases eq
        · cases eq; rfl
      · exact ih f (List.mem_filterMap.2 ⟨x, mem, eq⟩)

/-- After a reset no lane is ON and no fetch counts. -/
theorem PlacesInv.off (lanes : t.lanes = Vector.replicate 64 Lane.reset) (wait : t.fetchWait = none) {rs : List MemRead}
    (reads : t.memReads = orphanReads rs) : PlacesInv t := by
  have off (l : LaneId) : (t.lane l).on = none := by rw [State.lane, lanes]; simp [Lane.reset]
  rw [placesInv_iff]
  refine fun b l => ⟨fun o on => (by rw [off] at on; cases on), ?_⟩
  have none_ : t.alive l b = 0 := by
    rw [alive_eq, fetches_eq, wait, reads, List.countP_eq_zero]
    intro f mem
    simp [FetchTag.aliveOf, orphanReads_dead rs f mem]
  rw [none_]
  exact Nat.zero_le _

/-! ## The postings -/

/-- A LANE DISABLE withdraws its lane's waiting read whatever its endings have flushed (R64, R166). -/
theorem disableAccepted_flows (l : LaneId) (r : LaneRecord) (s : State) : ∃ q : Bool → LaneId → Nat,
    (disableAccepted l r s).memReads = plainReads (Serve.ofLane l) s.memReads ∧
    (disableAccepted l r s).fetchWait = s.fetchWait.filter (fun w => !(w.2 == 0 && q w.1.interject w.1.lane != 0)) ∧
    ((disableAccepted l r s).lane l).on = none ∧
    ∀ b, ((disableAccepted l r s).lane l).gen b = (s.lane l).gen b + 1 ∧ q b l ≠ 0 ∧
      ∀ k, k ≠ l → q b k < 256 ∧ ((disableAccepted l r s).lane k).gen b = (s.lane k).gen b + BitVec.ofNat 8 (q b k) ∧
        ∀ o, ((disableAccepted l r s).lane k).on = some o → ∃ p, (s.lane k).on = some p ∧
          (o.buffer b).length ≤ (p.buffer b).length ∧ (q b k ≠ 0 → o.buffer b = []) := by
  have ended : Flows 2 s (dropWaiting l (abortActive l r s)) := by
    have aborted : Flows 1 s (abortActive l r s) := by
      unfold abortActive
      split
      · exact (Flows.refl s).le (by omega)
      · split
        · exact flows_endInsertion l _ _ _ s
        · exact (Flows.refl s).le (by omega)
    refine aborted.trans (n := 1) ?_
    unfold dropWaiting
    split
    · exact flows_removeWaiting l _ _
    · exact (Flows.refl _).le (by omega)
  obtain ⟨q, h⟩ := ended
  rw [disableAccepted_rest]
  generalize dropWaiting l (abortActive l r s) = v at h
  have rest : ∃ w : State, w.lanes = v.lanes ∧ w.memReads = v.memReads ∧ w.fetchWait = v.fetchWait ∧
      disableRest l r v = ((w.withdraw l false).withdraw l true).abandonReads l := by
    unfold disableRest
    split
    · next x _ => exact ⟨v.release x, rfl, rfl, rfl, rfl⟩
    · exact ⟨v, rfl, rfl, rfl, rfl⟩
  obtain ⟨w, lanes, reads, wait, rest⟩ := rest
  rw [rest]
  have lane (k : LaneId) : w.lane k = v.lane k := by rw [State.lane, lanes]; rfl
  refine ⟨fun b k => if k = l then 1 else q b k, ?_, ?_, ?_, fun b => ⟨?_, by simp, fun k other => ⟨?_, ?_, fun o on => ?_⟩⟩⟩
  · change plainReads _ w.memReads = _
    rw [reads, h.reads]
  · change State.fetchWait ((w.withdraw l false).withdraw l true) = _
    rw [withdraw_wait, withdraw_wait, wait, h.wait]
    cases s.fetchWait with
    | none => rfl
    | some x =>
      by_cases ungranted : x.2 = 0 <;> by_cases here : x.1.lane = l <;> cases side : x.1.interject <;>
        by_cases once : q x.1.interject x.1.lane = 0 <;> simp_all [onceAt, Option.filter]
  · rw [State.lane_modLane_self]; rfl
  · rw [State.lane_modLane_self]; cases b <;> rfl
  · dsimp only; rw [if_neg other]; exact lt_of_le_of_lt (h.most b k) (by omega)
  · dsimp only; rw [State.lane_modLane_ne _ _ other, if_neg other]
    change (w.lane k).gen b = _
    rw [lane, h.gen]
  · rw [State.lane_modLane_ne _ _ other] at on
    dsimp only; rw [if_neg other]
    exact h.buffer b k o ((lane k) ▸ on)

theorem lastFetches_plainReads (p : Serve → Bool) (rs : List MemRead) : lastFetches (plainReads p rs) = lastFetches rs := by
  unfold lastFetches plainReads
  rw [List.filterMap_map]
  refine List.filterMap_congr fun x _ => ?_
  cases x <;> rfl

theorem PlacesInv.disable (inv : PlacesInv s) (l : LaneId) (r : LaneRecord) : PlacesInv (disableAccepted l r s) := by
  obtain ⟨q, reads, wait, off, lanes⟩ := disableAccepted_flows l r s
  refine inv.shrink (fun p => ?_) fun b k o on => ?_
  · rw [fetches_eq, fetches_eq, reads, wait, lastFetches_plainReads]
    refine List.Sublist.countP_le (List.Sublist.append_right ?_ _)
    cases s.fetchWait with
    | none => exact List.Sublist.refl _
    | some w =>
      rw [Option.filter_some]
      split
      · exact List.Sublist.refl _
      · exact List.nil_sublist _
  · by_cases here : k = l
    · subst here; rw [off] at on; cases on
    · obtain ⟨-, -, others⟩ := lanes b
      obtain ⟨-, gen, buffers⟩ := others k here
      obtain ⟨p, had, le, emptied⟩ := buffers o on
      by_cases still : q b k = 0
      · exact .inr ⟨p, had, le, by rw [gen, still]; simp⟩
      · exact .inl (emptied still)

theorem withdrawn_disable (l : LaneId) (r : LaneRecord) (s : State) : Withdrawn s (disableAccepted l r s) := by
  obtain ⟨q, -, wait, -, lanes⟩ := disableAccepted_flows l r s
  refine withdrawn_of_flushes q wait fun b k => ?_
  obtain ⟨raised, flushed, others⟩ := lanes b
  by_cases here : k = l
  · subst here
    refine iff_of_true ?_ flushed
    rw [raised]
    intro same
    have wrapped := congrArg BitVec.toNat same
    rw [BitVec.toNat_add, show (1 : BitVec 8).toNat = 1 from rfl] at wrapped
    have := ((s.lane k).gen b).isLt
    omega
  · obtain ⟨few, gen, -⟩ := others k here
    rw [gen, ne_eq, ne_eq, not_iff_not, ← BitVec.toNat_inj, BitVec.toNat_add, BitVec.toNat_ofNat]
    have := ((s.lane k).gen b).isLt
    omega

/-- An enabled lane begins with empty buffers, its generations kept (R165). -/
theorem enableAccepted_buffers (l : LaneId) (r : LaneRecord) (s : State) :
    (enableAccepted l r s).memReads = s.memReads ∧ (enableAccepted l r s).fetchWait = s.fetchWait ∧
      ∃ ln o, (enableAccepted l r s).lanes = (s.setLane l ln).lanes ∧ ln.on = some o ∧ (∀ b, o.buffer b = []) ∧
        ∀ b, ln.gen b = (s.lane l).gen b := by
  have counted (xs : List (AlertId × AlertBody)) (u : State) :
      (xs.foldl (fun t x => t.modAlert x.1 Alert.countLane) u).lanes = u.lanes ∧
      (xs.foldl (fun t x => t.modAlert x.1 Alert.countLane) u).memReads = u.memReads ∧
      (xs.foldl (fun t x => t.modAlert x.1 Alert.countLane) u).fetchWait = u.fetchWait := by
    induction xs generalizing u with
    | nil => exact ⟨rfl, rfl, rfl⟩
    | cons x xs ih => exact ih _
  unfold enableAccepted
  split
  · exact ⟨rfl, rfl, _, _, rfl, rfl, fun b => by cases b <;> rfl, fun _ => rfl⟩
  · dsimp only
    refine ⟨?_, ?_, { (if (OnLane.enabledOutput s r).stack.any StackEntry.clash then (s.lane l).setFlag .clash else s.lane l) with
      on := some (setSource s r (wantedSource s r (OnLane.enabledOutput s r)) (OnLane.enabledOutput s r)) }, _, ?_, rfl,
      fun b => by cases b <;> rfl, fun b => by split <;> rfl⟩
    · split
      · exact (counted _ _).2.1
      · exact (counted _ _).2.1
    · split
      · exact (counted _ _).2.2
      · exact (counted _ _).2.2
    · split
      · exact (counted _ _).1
      · exact (counted _ _).1

/-- The alerts started: every covered lane restacked at most once. -/
theorem flows_startAlert (a : AlertId) (b : AlertBody) (s : State) : Flows 128 s (startAlert a b s) := by
  unfold startAlert
  refine Flows.handOver ?_ _
  have few : (coveredLanes s b).length ≤ 64 := (List.length_filter_le _ _).trans (by rw [List.length_finRange])
  have joined (u : State) (same : Flows 0 s u) : Flows 128 s ((coveredLanes s b).foldl (fun t l => joinAlert a b l t) u) :=
    (same.trans (flows_foldl _ (fun u l => flows_joinAlert a b l u) _ u)).le (by omega)
  exact joined _ (.of_lanes rfl rfl rfl)

theorem clearCounters_same (x : RecordData) (s : State) :
    (clearCounters x s).1.memReads = s.memReads ∧ (clearCounters x s).1.fetchWait = s.fetchWait ∧
      ∀ b l, ((clearCounters x s).1.lane l).gen b = (s.lane l).gen b := by
  refine ⟨?_, ?_, fun b l => ?_⟩
  · unfold clearCounters; dsimp only; split <;> rfl
  · unfold clearCounters; dsimp only; split <;> rfl
  · have lanes : (clearCounters x s).1.lanes =
        mapEntries (fun l ln => if (field x 0 8).testBit l then ln.clearCounts else ln) s.lanes := by
      unfold clearCounters; dsimp only; split <;> rfl
    rw [State.lane, lanes, mapEntries_get]
    change Lane.gen (if _ then (s.lane l).clearCounts else s.lane l) b = _
    split <;> rfl

/-- What a posting but PART RESET does to the places and the waiting read. -/
theorem places_posted (p : Posted c s t) : (PlacesInv s → PlacesInv t) ∧ ((∀ x, c ≠ .partReset x) → Withdrawn s t) := by
  have flowing {n : Nat} {t : State} (h : Flows n s t) (few : n < 256) :
      (PlacesInv s → PlacesInv t) ∧ ((∀ x, c ≠ .partReset x) → Withdrawn s t) :=
    ⟨fun inv => inv.flows h, fun _ => withdrawn_of_flows h few⟩
  cases p with
  | refused => exact flowing (Flows.refl s) (by omega)
  | configure l x off =>
    exact flowing (flows_keep l (fun ln => { ln.clearCounts with record := some (laneRecordOf x) }) (fun _ _ => rfl)
      fun _ => rfl) (by omega)
  | enable l r record off =>
    obtain ⟨reads, wait, ln, o, lanes, on, empty, gen⟩ := enableAccepted_buffers l r s
    have lane (k : LaneId) : (enableAccepted l r s).lane k = if k = l then ln else s.lane k := by
      rw [← State.lane_setLane, State.lane, lanes]; rfl
    have gens (b : Bool) (k : LaneId) : ((enableAccepted l r s).lane k).gen b = (s.lane k).gen b := by
      rw [lane]
      split
      · next same => rw [same, gen]
      · rfl
    refine ⟨fun inv => inv.shrink (fun _ => by rw [fetches_congr wait reads]) fun b k p found => ?_,
      fun _ => withdrawn_of_same wait gens⟩
    by_cases here : k = l
    · rw [lane, if_pos here, on] at found
      cases found
      exact .inl (empty b)
    · refine .inr ⟨p, ?_, le_rfl, gens b k⟩
      rw [lane, if_neg here] at found
      exact found
  | disable l r => exact ⟨fun inv => inv.disable l r, fun _ => withdrawn_disable l r s⟩
  | declare => exact flowing (n := 0) (.of_lanes rfl rfl rfl) (by omega)
  | clear => exact flowing (n := 0) (.of_lanes rfl rfl rfl) (by omega)
  | load => exact flowing (n := 0) (.of_lanes rfl rfl rfl) (by omega)
  | discard => exact flowing (n := 0) (.of_lanes rfl rfl rfl) (by omega)
  | unbind i =>
    have unbound : Flows 1 s (unbind i s) := by
      unfold unbind
      split
      · exact (Flows.refl s).le (by omega)
      · split
        · exact flows_removeWaiting _ _ s
        · exact (Flows.refl s).le (by omega)
    exact flowing (unbound.trans (n := 0) (.of_lanes rfl rfl rfl)) (by omega)
  | abort => exact flowing (n := 0) (.of_lanes rfl rfl rfl) (by omega)
  | bind l _ _ i _ e t d => exact flowing (flows_bindOrder l i e _ t d s) (by omega)
  | start a b => exact flowing (flows_startAlert a b s) (by omega)
  | ending a b => exact flowing (flows_endAlert a b _ s) (by omega)
  | setUp => exact flowing (n := 0) (.of_lanes rfl rfl rfl) (by omega)
  | clearCounters x =>
    obtain ⟨reads, wait, gen⟩ := clearCounters_same x s
    refine ⟨fun inv => inv.shrink (fun _ => by rw [fetches_congr wait reads]) fun b l o on => .inr ⟨o, ?_, le_rfl, gen b l⟩,
      fun _ => withdrawn_of_same wait gen⟩
    rw [(clearCounters_lane x s l).1] at on
    exact on
  | reset x is => exact ⟨fun _ => .off rfl rfl rfl, fun h => absurd is (h x)⟩

/-! ## Every event -/

/-- What an event does to the places and, the resets, the fetch issue and the arbiter apart, to the waiting read. -/
theorem places_event (ev : Event c s t) : (PlacesInv s → PlacesInv t) ∧
    (c ≠ .pinReset → (∀ x, c ≠ .partReset x) → c ≠ .fetchIssue → c ≠ .arbiterGrant → Withdrawn s t) := by
  have same {t : State} (lanes : t.lanes = s.lanes) (wait : t.fetchWait = s.fetchWait) (reads : t.memReads = s.memReads) :
      (PlacesInv s → PlacesInv t) ∧
      (c ≠ .pinReset → (∀ x, c ≠ .partReset x) → c ≠ .fetchIssue → c ≠ .arbiterGrant → Withdrawn s t) :=
    ⟨fun inv => inv.same lanes wait reads, fun _ _ _ _ => withdrawn_of_lanes wait lanes⟩
  have flowing {n : Nat} {t : State} (h : Flows n s t) (few : n < 256) : (PlacesInv s → PlacesInv t) ∧
      (c ≠ .pinReset → (∀ x, c ≠ .partReset x) → c ≠ .fetchIssue → c ≠ .arbiterGrant → Withdrawn s t) :=
    ⟨fun inv => inv.flows h, fun _ _ _ _ => withdrawn_of_flows h few⟩
  cases ev with
  | pinReset => exact ⟨fun _ => .off rfl rfl rfl, fun h => absurd rfl h⟩
  | pinRelease => exact same rfl rfl rfl
  | write _ a d e ff =>
    obtain h | ⟨l, k, line, ring, h⟩ | ⟨-, -, h⟩ | ⟨off, k, -, -, h⟩ | ⟨-, -, h⟩ := arriveWrite_cases a d e ff s <;> rw [h]
    · exact same rfl rfl rfl
    · exact flowing ((flows_ringStep l k line d e ff s).trans (n := 0) (.of_lanes rfl rfl rfl)) (by omega)
    · exact same rfl rfl rfl
    · obtain ⟨x, q, h⟩ := takeGoWrite_spec k d e s
      rw [h]
      exact same rfl rfl rfl
    · exact same rfl rfl rfl
  | writeCompletion => exact same rfl rfl rfl
  | read _ a =>
    obtain ⟨sv, h⟩ | ⟨l, k, r, o, -, -, -, h⟩ | ⟨l, k, line, r, o, -, -, -, -, h⟩ := arriveRead_cases a s <;> rw [h]
    · exact same rfl rfl rfl
    · have jumped : Flows 0 s (if o.track.jumps k then s.note l .jump .jump else s) :=
        Flows.ite (flows_note l _ _) (Flows.refl s)
      have claimed := jumped.modOn l (fun o => { o with track := o.track.claim r.slots k }) fun _ _ => by exact le_rfl
      exact flowing (claimed.trans (n := 0) (.of_lanes rfl rfl rfl)) (by omega)
    · exact flowing ((flows_note l _ _).trans (n := 0) (.of_lanes rfl rfl rfl)) (by omega)
  | grant =>
    refine ⟨fun inv => ?_, fun _ _ _ h => absurd rfl h⟩
    obtain ⟨lanes, -⟩ := grant_tables s
    have lane (l : LaneId) : (grant s).lane l = s.lane l := by rw [State.lane, lanes]; rfl
    exact inv.shrink (fun p => ((grant_fetches s).countP_eq p).le) fun b l o on => .inr ⟨o, (lane l) ▸ on, le_rfl, by rw [lane]⟩
  | readReturn _ d err _ a sv rest _ due =>
    have taken (inv : PlacesInv s) := inv.taken due
    have passed (u : State) (lanes : u.lanes = s.lanes) (wait : u.fetchWait = s.fetchWait) (reads : u.memReads = rest) :
        (PlacesInv s → PlacesInv u) ∧
        (c ≠ .pinReset → (∀ x, c ≠ .partReset x) → c ≠ .fetchIssue → c ≠ .arbiterGrant → Withdrawn s u) :=
      ⟨fun inv => (taken inv).same lanes wait reads, fun _ _ _ _ => withdrawn_of_lanes wait lanes⟩
    cases sv with
    | plain => exact passed _ rfl rfl rfl
    | claim l =>
      have h := flows_contentPart l d err { s with memReads := rest }
      exact ⟨fun inv => ((taken inv).flows h).same rfl rfl rfl, fun _ _ _ _ => (withdrawn_of_flows h (by omega) : _)⟩
    | copied l j => exact passed _ rfl rfl rfl
    | overlay off => exact passed _ rfl rfl rfl
  | postingTake _ k rest _ _ =>
    unfold takePosting
    split <;> exact same rfl rfl rfl
  | memoryFault _ _ u _ due =>
    obtain ⟨w, line, dead, rest, -, -, -, next, rfl⟩ := recordReturns_spec due
    exact ⟨fun inv => (inv.taken next).same rfl rfl rfl, fun _ _ _ _ => withdrawn_of_lanes rfl rfl⟩
  | posting _ code act _ u k posting due kind =>
    obtain ⟨w, line, dead, rest, -, -, -, next, rfl⟩ := recordReturns_spec due
    obtain ⟨places, withdrawn⟩ := places_posted (posted_of_postingOf posting { s with memReads := rest })
    exact ⟨fun inv => (places (inv.taken next)).same rfl rfl rfl, fun _ other _ _ => withdrawn other⟩
  | fetchIssue _ u l idle issued =>
    exact ⟨fun inv => (inv.issueFor idle (scanFetch_spec issued)).same rfl rfl rfl, fun _ _ h => absurd rfl h⟩
  | fetchComplete d errs _ f _ rest due =>
    exact ⟨fun inv => inv.completeFetch due d errs, fun _ _ _ _ => withdrawn_completeFetch f d errs { s with memReads := rest }⟩
  | recordWriteIssue => exact same rfl rfl rfl
  | recordWriteComplete => exact same rfl rfl rfl
  | staleExpiry _ l _ _ an cap _ _ =>
    refine flowing (Flows.note (n := 0) (flows_modOn l (fun o => { o with clock := .stale an cap }) ?_) l _ _) (by omega)
    exact fun _ _ => le_rfl
  | feedLost _ l r o _ => exact flowing (flows_feedLost l r o s) (by omega)
  | feedFlap _ l _ _ _ =>
    refine flowing (Flows.note (n := 0) (flows_modOn l (fun o => { o with feed := Feed.inLost o.feed.outage }) ?_) l _ _)
      (by omega)
    exact fun _ _ => le_rfl
  | alertExpiry _ a b _ => exact flowing (flows_endAlert a b _ s) (by omega)
  | coalesceExpiry => exact same rfl rfl rfl
  | nothing => exact same rfl rfl rfl

/-- Settles O9. -/
theorem prefetchPlacesInvariant : Obligations.PrefetchPlacesInvariant := by
  unfold Obligations.PrefetchPlacesInvariant
  exact ⟨step_keeps (P := PlacesInv) (fun _ _ h => h.same rfl rfl rfl) (fun _ _ _ _ h => h.same rfl rfl rfl)
    (fun _ _ _ h ev => (places_event ev).1 h), fun c s t next => (places_event (event_of_exec next)).2⟩

end Sys2Proof.Machine
end

section
/-! PROOF. The pins, the clock and the memory path: O2, O10, O12, O13, O21 to O24, O26, O27 and O38. -/

namespace Sys2Proof.Machine

variable {s t : State}

/-! ## The station clock (Table 5-2) -/

/-- One tick of the released part whose clock stands `n` ticks after its release. -/
theorem tick_counted {straps : BitVec 8} (released : s.pin = .released straps) (n : Nat) :
    tick { s with stationTime := BitVec.ofNat 48 n, msPhase := n % 27000, stationMs := BitVec.ofNat 32 (n / 27000) } =
      { s with
        stationTime := BitVec.ofNat 48 (n + 1), msPhase := (n + 1) % 27000, stationMs := BitVec.ofNat 32 ((n + 1) / 27000) } := by
  have time : BitVec.ofNat 48 n + 1 = BitVec.ofNat 48 (n + 1) := by rw [BitVec.ofNat_add]; rfl
  unfold tick
  simp only [released]
  by_cases within : n % 27000 + 1 < ticksPerMs
  · have phase : (n + 1) % 27000 = n % 27000 + 1 := by unfold ticksPerMs at within; omega
    have ms : (n + 1) / 27000 = n / 27000 := by unfold ticksPerMs at within; omega
    rw [if_pos within, if_pos within, time, phase, ms]
  · have phase : (n + 1) % 27000 = 0 := by unfold ticksPerMs at within; omega
    have ms : (n + 1) / 27000 = n / 27000 + 1 := by unfold ticksPerMs at within; omega
    have count : BitVec.ofNat 32 (n / 27000) + 1 = BitVec.ofNat 32 (n / 27000 + 1) := by rw [BitVec.ofNat_add]; rfl
    rw [if_neg within, if_neg within, time, phase, ms, count]

theorem step_idle (idle : s.pending = []) : step s = .next (tick s) := by
  rw [step, idle]

/-- Settles O2, by induction on the ticks. -/
theorem stationTimeCounts : Obligations.StationTimeCounts := by
  unfold Obligations.StationTimeCounts
  refine ⟨fun straps n s released idle time phase ms => ?_, fun s held idle => ?_⟩
  · have counted (n : Nat) : tick^[n] s = { s with
        stationTime := BitVec.ofNat 48 n, msPhase := n % 27000, stationMs := BitVec.ofNat 32 (n / 27000) } := by
      induction n with
      | zero => cases s; cases time; cases phase; cases ms; rfl
      | succ n ih => rw [Function.iterate_succ_apply', ih, tick_counted released]
    refine ⟨counted n, ?_⟩
    rw [Function.iterate_succ_apply']
    exact step_idle (by rw [counted n]; exact idle)
  · rw [step_idle idle, tick, held]

/-! ## The class of an address (R5) -/

theorem ringLane_none {a : Nat}
    (none_ : ∀ m q, (s.lane m).record = some q → ¬ (q.base ≤ a ∧ a < q.base + 192 * q.slots)) : ringLane s a = none := by
  cases found : ringLane s a with
  | none => rfl
  | some x =>
    obtain ⟨record, low, high⟩ := ringLane_spec found
    exact absurd ⟨low, high⟩ (none_ _ _ record)

theorem ringLane_some {a : Nat} {l : LaneId} {r : LaneRecord} (record : (s.lane l).record = some r) (low : r.base ≤ a)
    (high : a < r.base + 192 * r.slots)
    (only : ∀ m q, m ≠ l → (s.lane m).record = some q → ¬ (q.base ≤ a ∧ a < q.base + 192 * q.slots)) :
    ringLane s a = some (l, r) := by
  cases found : ringLane s a with
  | none =>
    have missed := List.findSome?_eq_none_iff.1 found l (List.mem_finRange l)
    simp [record, LaneRecord.ringHas, low, high] at missed
  | some x =>
    obtain ⟨m, q⟩ := x
    obtain ⟨record', low', high'⟩ := ringLane_spec found
    by_cases same : m = l
    · subst same
      cases record.symm.trans record'
      rfl
    · exact absurd ⟨low', high'⟩ (only m q same record')

/-- A watch window holds the line exactly where a locked clip's area does (R62). -/
theorem watches_iff {x : Clip} {a : Nat} : x.watches a = true ↔
    0 < x.locks ∧ ∃ b, x.body = some b ∧ b.address ≤ a ∧ a < b.address + 192 * b.length := by
  unfold Clip.watches ClipBody.areaHas
  cases x.body <;> simp

theorem any_watches {a : Nat} : (s.clips.toList.any fun x => x.watches a) = true ↔ ∃ c, (s.clip c).watches a = true := by
  rw [List.any_eq_true]
  constructor
  · rintro ⟨x, mem, holds⟩
    obtain ⟨i, bound, rfl⟩ := List.mem_iff_getElem.1 mem
    rw [Vector.length_toList] at bound
    exact ⟨⟨i, bound⟩, by rw [Vector.getElem_toList] at holds; exact holds⟩
  · rintro ⟨c, holds⟩
    exact ⟨s.clip c, Vector.mem_toList_iff.2 (Vector.getElem_mem c.isLt), holds⟩

/-- Settles O12, along the branches of the classification. -/
theorem addressesAreClassified : Obligations.AddressesAreClassified := by
  unfold Obligations.AddressesAreClassified
  intro straps s a released base
  have window : s.windowBase = some base := by rw [State.windowBase, released]
  have classified : classify s a =
      if base ≤ a ∧ a < base + 65536 then .window (a - base)
      else match ringLane s a with
        | some (l, r) =>
          if (s.lane l).on.isSome then .ring l ((a - r.base) / 192) ((a - r.base) % 192 / 64) else .offRing
        | none => if s.clips.toList.any fun x => x.watches a then .watched else .other := by
    unfold classify
    rw [window]
    rfl
  refine ⟨fun low high => by rw [classified, if_pos ⟨low, high⟩], fun outside => ⟨?_, fun none_ => ?_⟩⟩
  · intro l r k j record slot line place only
    rw [classified, if_neg outside, ringLane_some record (by omega) (by omega) only]
    have slotIs : (a - r.base) / 192 = k := by omega
    have lineIs : (a - r.base) % 192 / 64 = j := by omega
    simp only [slotIs, lineIs]
  · rw [classified, if_neg outside, ringLane_none none_]
    refine ⟨fun ⟨c, b, locked, body, low, high⟩ => ?_, fun unwatched => ?_⟩
    · exact if_pos (any_watches.2 ⟨c, watches_iff.2 ⟨locked, b, body, low, high⟩⟩)
    · refine if_neg fun some_ => ?_
      obtain ⟨c, watched⟩ := any_watches.1 some_
      obtain ⟨locked, b, body, low, high⟩ := watches_iff.1 watched
      exact unwatched c b locked body ⟨low, high⟩

/-! ## Upstream writes -/

/-- Settles O13. -/
theorem upstreamWritesAreForwarded : Obligations.UpstreamWritesAreForwarded := by
  unfold Obligations.UpstreamWritesAreForwarded
  intro a d e ff s c name
  obtain ⟨ff', next⟩ := exec_of_mem_writeNames (ff := ff) name s
  obtain ⟨-, pin, time, phase, ms, reads, writes, run, mem, up, scan, force, working⟩ := arriveWrite_frame a d e ff' s
  have frame : SamePorts s (arriveWrite a d e ff' s) := ⟨pin, time, phase, ms, reads, writes, run, mem, up⟩
  obtain ⟨go, order, posts⟩ : ∃ go, (arriveWrite a d e ff' s).upOrder = s.upOrder ++ [.write a d e go] ∧
      ∀ k, go = some k → ∃ off, classify s (lineAddr a) = .window off ∧ goWriteSlot off e = some k ∧
        ((s.slot k).state = .idle ∨ (s.slot k).state = .done) := by
    obtain h | ⟨l, k, line, ring, h⟩ | ⟨-, -, h⟩ | ⟨off, k, window, slot, h⟩ | ⟨-, -, h⟩ := arriveWrite_cases a d e ff' s
    · exact ⟨none, by rw [h]; rfl, nofun⟩
    · refine ⟨none, ?_, nofun⟩
      rw [h]
      change (ringStep l k line d e ff' s).upOrder ++ _ = _
      rw [(inner_ringStep blind_unit (fun _ _ => rfl) (fun _ _ => rfl) l k line d e ff' s).upOrder]
    · exact ⟨none, by rw [h]; rfl, nofun⟩
    · refine ⟨if goWritePosts s k then some k else none, ?_, fun j marked => ?_⟩
      · obtain ⟨x, q, taken⟩ := takeGoWrite_spec k d e s
        rw [h, taken]
        rfl
      · split at marked
        · next may =>
          cases marked
          exact ⟨off, window, slot, by simpa [goWritePosts] using may⟩
        · cases marked
    · exact ⟨none, by rw [h]; rfl, nofun⟩
  refine ⟨_, go, next, order, frame, working, scan, force, posts, fun plain => ?_⟩
  unfold arriveWrite
  rcases plain with h | h | h | ⟨off, h, noGo, noIndex⟩
  · rw [h]; rfl
  · rw [h]; rfl
  · rw [h]; rfl
  · rw [h]
    dsimp only
    unfold windowWrite
    rw [noGo]
    dsimp only
    rw [if_neg noIndex]
    rfl

theorem disturb_clip (a : Nat) (s : State) (c : ClipId) : (disturb a s).clip c =
    if (s.clip c).watches a then { s.clip c with disturbed := true } else s.clip c := mapEntries_get _ s.clips c

/-- Settles O21. -/
theorem watchedWriteDisturbsClips : Obligations.WatchedWriteDisturbsClips := by
  unfold Obligations.WatchedWriteDisturbsClips
  intro a d e s watched
  have next : exec (.watchWindowWrite a d e) s =
      .next (forwardWrite a d e none (if e = 0 then s else disturb (lineAddr a) s)) := by
    change Host.Outcome.next (arriveWrite a d e false s) = _
    rw [arriveWrite, watched]
  refine ⟨_, next, ?_, fun c => ?_⟩
  · split <;> rfl
  · by_cases none_ : e = 0
    · rw [if_pos none_, if_neg fun h => h.1 none_]
      rfl
    · rw [if_neg none_]
      refine (disturb_clip (lineAddr a) s c).trans ?_
      refine if_congr ?_ rfl rfl
      rw [watches_iff]
      exact (and_iff_right none_).symm

/-- The tag of a go write, least significant byte first (R158). -/
theorem tag_bytes (x y : BitVec 8) : (y ++ x : BitVec (8 + 8)) = BitVec.ofNat 16 (x.toNat + 256 * y.toNat) := by
  apply BitVec.eq_of_toNat_eq
  have := x.isLt
  have := y.isLt
  rw [BitVec.toNat_append, ← Nat.shiftLeft_add_eq_or_of_lt x.isLt, Nat.shiftLeft_eq, BitVec.toNat_ofNat,
    Nat.mod_eq_of_lt (by omega)]
  omega

theorem goWritePosts_iff {k : PostSlotId} :
    goWritePosts s k = true ↔ (s.slot k).state = .idle ∨ (s.slot k).state = .done := by simp [goWritePosts]

/-- Settles O22. -/
theorem goWritePostsOrDoubles : Obligations.GoWritePostsOrDoubles := by
  unfold Obligations.GoWritePostsOrDoubles
  intro a d e s k window enabled
  rw [exec_goWrite_of_goWriteSlot window (goWriteSlot_of_goWord k enabled)]
  by_cases posts : (s.slot k).state = .idle ∨ (s.slot k).state = .done
  · rw [if_pos posts, if_pos (goWritePosts_iff.2 posts)]
    have tag : ((if e.getLsbD (56 + 3) then getByte d (56 + 3) else 0#8) ++
        (if e.getLsbD (56 + 2) then getByte d (56 + 2) else 0#8) : BitVec (8 + 8)) =
        BitVec.ofNat 16 ((if e.getLsbD 58 then (getByte d 58).toNat else 0) +
          256 * (if e.getLsbD 59 then (getByte d 59).toNat else 0)) := by
      rw [tag_bytes, apply_ite BitVec.toNat, apply_ite BitVec.toNat]
      rfl
    unfold takeGoWrite
    rcases posts with h | h
    · simp only [h]; rw [tag]; rfl
    · simp only [h]; rw [tag]; rfl
  · rw [if_neg posts, if_neg fun h => posts (goWritePosts_iff.1 h),
      takeGoWrite_of_not_posts d e (by rw [Bool.eq_false_iff]; exact fun h => posts (goWritePosts_iff.1 h))]
    rfl

/-- All four enables of the read index are set. -/
theorem indexEnables_all {e : Enables} :
    enablesAt e 0 4 = 0xF#4 ↔ e.getLsbD 0 ∧ e.getLsbD 1 ∧ e.getLsbD 2 ∧ e.getLsbD 3 := by
  unfold enablesAt
  constructor
  · intro all
    have bit (i : Nat) (h : i < 4) : e.getLsbD i = (0xF#4).getLsbD i := by rw [← all, BitVec.getLsbD_extractLsb']; simp [h]
    exact ⟨bit 0 (by omega), bit 1 (by omega), bit 2 (by omega), bit 3 (by omega)⟩
  · rintro ⟨b0, b1, b2, b3⟩
    refine BitVec.eq_of_getLsbD_eq fun i h => ?_
    rw [BitVec.getLsbD_extractLsb', Nat.zero_add]
    interval_cases i <;> simp_all

/-- None of the four enables of the read index is set. -/
theorem indexEnables_none {e : Enables} :
    enablesAt e 0 4 = 0#4 ↔ ¬ (e.getLsbD 0 ∨ e.getLsbD 1 ∨ e.getLsbD 2 ∨ e.getLsbD 3) := by
  unfold enablesAt
  constructor
  · intro none_
    have bit (i : Nat) (h : i < 4) : e.getLsbD i = false := by
      have read : (e.extractLsb' 0 4).getLsbD i = e.getLsbD i := by rw [BitVec.getLsbD_extractLsb']; simp [h]
      rw [← read, none_, BitVec.getLsbD_zero]
    rw [bit 0 (by omega), bit 1 (by omega), bit 2 (by omega), bit 3 (by omega)]
    decide
  · intro none_
    refine BitVec.eq_of_getLsbD_eq fun i h => ?_
    rw [BitVec.getLsbD_extractLsb', Nat.zero_add]
    interval_cases i <;> simp_all

/-- Settles O23. -/
theorem readIndexWriteMovesH : Obligations.ReadIndexWriteMovesH := by
  unfold Obligations.ReadIndexWriteMovesH
  intro a d e s window
  have noGo : goWriteSlot 0x1040 e = none := by
    unfold goWriteSlot goSlotAt
    split <;> rfl
  have next : exec (.readIndexWrite a d e) s = .next (forwardWrite a d e none (s.modReport fun r => r.indexWrite d e)) := by
    change Host.Outcome.next (arriveWrite a d e false s) = _
    rw [arriveWrite, window]
    dsimp only
    rw [windowWrite, noGo]
    rfl
  refine ⟨_, next, rfl, ?_⟩
  intro all any v
  change (¬ any → s.report.indexWrite d e = s.report) ∧ _
  have write (h : all) : s.report.indexWrite d e = s.report.readIndex v := by
    unfold Report.indexWrite
    dsimp only
    rw [indexEnables_all.2 h]
    rfl
  refine ⟨fun none_ => ?_, fun some_ part => ?_, fun h unset => ?_, fun g h ring => ?_⟩
  · exact if_pos (indexEnables_none.2 none_)
  · exact (if_neg fun h => indexEnables_none.1 h some_).trans (if_neg fun h => part (indexEnables_all.1 h))
  · exact (write h).trans (Report.readIndex_of_unset unset v)
  · have moved := (write h).trans (Report.readIndex_of_ring ring v)
    refine ⟨fun refused => moved.trans (if_neg refused), fun accepted => ?_⟩
    rw [if_pos accepted] at moved
    change (s.report.indexWrite d e).h = v ∧ _
    have unread : (s.report.readUpTo g v).unread = ringDiff s.report.w v g.size :=
      Report.unread_of_ring (r := s.report.readUpTo g v) ring
    have urgent : (s.report.readUpTo g v).urgentPos = (match s.report.urgentPos with
        | some u => if ringDiff u s.report.h g.size < ringDiff v s.report.h g.size then none else some u
        | none => none) := by
      change s.report.urgentPos.filter _ = _
      cases s.report.urgentPos with
      | none => rfl
      | some u => by_cases released : ringDiff u s.report.h g.size < ringDiff v s.report.h g.size <;>
          simp [released, Option.filter]
    change _ ∧ (s.report.indexWrite d e).urgentPos = _ ∧ (s.report.indexWrite d e).timer =
        (if (s.report.indexWrite d e).unread = 0 then .stopped else s.report.timer) ∧
      (s.report.indexWrite d e).attention = (s.report.indexWrite d e).anyCause ∧ s.report.indexWrite d e = { s.report with
        h := v, urgentPos := (s.report.indexWrite d e).urgentPos, timer := (s.report.indexWrite d e).timer
        attention := (s.report.indexWrite d e).attention }
    rw [moved]
    refine ⟨rfl, urgent, ?_, rfl, rfl⟩
    rw [unread]
    rfl

/-! ## Upstream reads -/

theorem onOutput_of_ring {a : Addr} {l : LaneId} {i line : Nat} {r : LaneRecord} {o : OnLane} (ring : InRing s a l i line r o)
    (role : r.role = .output) : s.onOutput l = some (r, o) := onOutput_spec.2 ⟨ring.record, ring.on, role⟩

/-- A read of the ring of an ON OUTPUT lane meets the lane (R13 to R15). -/
theorem arriveRead_of_ring {a : Addr} {l : LaneId} {i line : Nat} {r : LaneRecord} {o : OnLane} (ring : InRing s a l i line r o)
    (role : r.role = .output) : arriveRead a s = ringRead l r o i line a s := by
  rw [arriveRead, ring.class_]
  dsimp only
  rw [onOutput_of_ring ring role]

/-- Settles O24. -/
theorem upstreamReadsWithoutDecision : Obligations.UpstreamReadsWithoutDecision := by
  unfold Obligations.UpstreamReadsWithoutDecision
  intro a s c name
  have next := exec_of_mem_readNames (c := c) (a := a) name s
  refine ⟨?_, fun l i line r o ring role last => ?_, fun l i line r o ring role other line0 => ?_, fun off window => ?_,
    fun plain => ?_⟩
  · obtain ⟨sv, l, ln, h, -⟩ := arriveRead_spec a s
    refine ⟨_, sv, next, ?_⟩
    rw [h]
    exact ⟨rfl, ⟨rfl, rfl, rfl, rfl, rfl, rfl, rfl, rfl, rfl⟩, rfl, rfl, rfl⟩
  · rw [next, arriveRead_of_ring ring role, ringRead, if_pos last]
    rfl
  · rw [next, arriveRead_of_ring ring role, ringRead, if_neg other, if_neg line0]
    rfl
  · rw [next, arriveRead, window]
    rfl
  · rw [next, arriveRead]
    rcases plain with h | h | h | h | ⟨l, i, line, r, o, ring, role⟩
    · rw [h]; rfl
    · rw [h]; rfl
    · rw [h]; rfl
    · rw [h]; rfl
    · have source : s.onOutput l = none := by
        rw [Option.eq_none_iff_forall_ne_some]
        rintro ⟨q, p⟩ out
        obtain ⟨record, -, output⟩ := onOutput_spec.1 out
        cases ring.record.symm.trans record
        cases role.symm.trans output
      rw [ring.class_]
      dsimp only
      rw [source]
      rfl

/-! ## The ports -/

/-- Settles O27. -/
theorem portsPassDataAndErrors : Obligations.PortsPassDataAndErrors := by
  unfold Obligations.PortsPassDataAndErrors
  refine ⟨fun err s n pending => ?_, fun d err s a rest c name => ?_⟩
  · change execWriteCompletion err s = _
    unfold execWriteCompletion
    rw [pending]
    rfl
  · have returned : exec c s = returnUp d err s := exec_of_mem_returnNames name s
    have served {sv : Serve} (due : nextDue s.memReads = some (.up a sv, rest)) :
        exec c s = .next (serveReturn a sv d err { s with memReads := rest }) := by
      rw [returned, returnUp, due]
    refine ⟨fun due => served due, fun l j due => ?_⟩
    intro copy sent
    have line : copiedLine { s with memReads := rest } l j d = sent.getD d := rfl
    have port : exec c s = .next { s with memReads := rest, upPort := some { addr := a, data := sent.getD d, err := err } } := by
      rw [served due, serveReturn, line]
      rfl
    exact ⟨fun y replaced => by rw [port, replaced]; rfl, fun passed => by rw [port, passed]; rfl⟩

/-! ## Taking a posting -/

/-- Settles O38. -/
theorem postingTakeWorksTheHead : Obligations.PostingTakeWorksTheHead := by
  unfold Obligations.PostingTakeWorksTheHead
  refine ⟨fun s k rest idle queue => ?_, fun s undue => ?_⟩
  · intro code known
    rw [exec_postingTake_of_idle idle queue]
    have may : knownKind (s.slot k).kind = true ↔ known := by
      change knownKind (s.slot k).kind = true ↔ (1 ≤ code ∧ code ≤ 12) ∨ code = 15
      simp [knownKind, code]
    unfold takePosting
    by_cases h : known
    · rw [if_pos h, if_pos (may.2 h)]
      rfl
    · rw [if_neg h, if_neg fun k => h (may.1 k)]
      change Host.Outcome.next { s with
        slots := s.slots.set k { s.slot k with state := .done, result := .badKind, detail := 0 }
        queue := rest
        working := none } = _
      rw [← idle]
  · change execPostingTake s = _
    unfold execPostingTake
    rcases undue with busy | empty
    · obtain ⟨w, working⟩ := Option.isSome_iff_exists.1 busy
      rw [working]
    · rw [empty]
      cases s.working <;> rfl

end Sys2Proof.Machine
end

section
/-! PROOF. The resets, the arbiter and the postings that load or clear: O10, O26, O40, O41 and O49. -/

namespace Sys2Proof.Machine

variable {s t : State} {c : Instr} {k : PostSlotId} {rest : List MemRead} {code : BitVec 8} {act : State → Carried}

/-! ## A posting that is due -/

theorem exec_of_due (posting : postingOf c = some (code, act)) (due : Due s k code rest) :
    exec c s = .next (finishPosting k (act { s with memReads := rest }).2.1 (act { s with memReads := rest }).2.2
      (act { s with memReads := rest }).1) := by
  rw [exec_of_postingOf posting, carryOut_of_due act due]

theorem exec_of_answer (posting : postingOf c = some (code, act)) (due : Due s k code rest) {res : PostResult} {n : Nat}
    (answer : act { s with memReads := rest } = (t, res, n)) : exec c s = .next (finishPosting k res n t) := by
  rw [exec_of_due posting due, answer]

/-- A posting whose action answers with the state it was given is refused. -/
theorem refused_of_answer (posting : postingOf c = some (code, act)) (due : Due s k code rest) {res : PostResult} {n : Nat}
    (answer : act { s with memReads := rest } = ({ s with memReads := rest }, res, n)) : Refused s k rest res n (exec c s) :=
  exec_of_answer posting due answer

theorem withLane_of_field_eq {x : RecordData} {l : LaneId} (named : field x 0 1 = l.val) (act : LaneId → State → Carried)
    (s : State) : withLane x act s = act l s := by
  have small : field x 0 1 < 64 := named ▸ l.isLt
  rw [withLane, dif_pos small]
  exact congrArg (act · s) (Fin.ext named)

theorem withLane_of_field_gt {x : RecordData} (above : 63 < field x 0 1) (act : LaneId → State → Carried) (s : State) :
    withLane x act s = (s, .badField, 1) := by
  rw [withLane, dif_neg (by omega)]

theorem withAlert_of_field_eq {x : RecordData} {a : AlertId} (named : field x 0 1 = a.val) (act : AlertId → State → Carried)
    (s : State) : withAlert x act s = act a s := by
  have small : field x 0 1 < 4 := named ▸ a.isLt
  rw [withAlert, dif_pos small]
  exact congrArg (act · s) (Fin.ext named)

theorem withAlert_of_field_gt {x : RecordData} (above : 3 < field x 0 1) (act : AlertId → State → Carried) (s : State) :
    withAlert x act s = (s, .badField, 1) := by
  rw [withAlert, dif_neg (by omega)]

/-! ## A posting refused -/

/-- The action completes OK or has left the state as it was. -/
def Settled (s : State) (x : Carried) : Prop := x.2.1 = .ok ∨ x.1 = s

theorem settled_refused (s : State) (res : PostResult) (n : Nat) : Settled s (s, res, n) := .inr rfl
theorem settled_ok (s t : State) (n : Nat) : Settled s (t, .ok, n) := .inl rfl

theorem settled_configureLane (x : RecordData) (l : LaneId) (s : State) : Settled s (configureLane x l s) := by
  unfold configureLane
  split
  · exact settled_refused ..
  · split
    · exact settled_refused ..
    · dsimp only
      repeat' split
      iterate 4 exact settled_refused ..
      exact settled_ok ..

theorem settled_enableLane (l : LaneId) (s : State) : Settled s (enableLane l s) := by
  unfold enableLane
  split
  · exact settled_refused ..
  · split
    · exact settled_refused ..
    · split
      · exact settled_refused ..
      · exact settled_ok ..

theorem settled_disableLane (l : LaneId) (s : State) : Settled s (disableLane l s) := by
  unfold disableLane
  split
  · exact settled_refused ..
  · split
    · exact settled_refused ..
    · exact settled_ok ..

theorem settled_declareClip (x : RecordData) (c : ClipId) (s : State) : Settled s (declareClip x c s) := by
  unfold declareClip
  split
  · exact settled_refused ..
  · split
    · exact settled_refused ..
    · dsimp only
      repeat' split
      iterate 3 exact settled_refused ..
      exact settled_ok ..

theorem settled_clearClip (c : ClipId) (s : State) : Settled s (clearClip c s) := by
  unfold clearClip
  split
  · exact settled_refused ..
  · split
    · exact settled_refused ..
    · exact settled_ok ..

theorem settled_loadOrder (x : RecordData) (s : State) : Settled s (loadOrder x s) := by
  unfold loadOrder
  dsimp only
  split
  · exact settled_refused ..
  · split
    · exact settled_refused ..
    · split
      · exact settled_refused ..
      · exact settled_ok ..

theorem settled_cancelOrder (x : RecordData) (s : State) : Settled s (cancelOrder x s) := by
  unfold cancelOrder
  dsimp only
  split
  · exact settled_refused ..
  · exact settled_ok ..
  · exact settled_ok ..
  · exact settled_ok ..
  · split
    · exact settled_refused ..
    · exact settled_ok ..

theorem settled_schedule (x : RecordData) (s : State) : Settled s (schedule x s) := by
  unfold schedule
  split
  · exact settled_refused ..
  · unfold scheduleOn
    split
    · exact settled_refused ..
    · split
      · dsimp only
        split
        · split
          · exact settled_refused ..
          · split
            · exact settled_refused ..
            · exact settled_ok ..
        · exact settled_refused ..
      · exact settled_refused ..

theorem settled_alertStartOn (x : RecordData) (a : AlertId) (s : State) : Settled s (alertStartOn x a s) := by
  unfold alertStartOn
  split
  · exact settled_refused ..
  · split
    · exact settled_refused ..
    · dsimp only
      split
      · exact settled_ok ..
      · exact settled_refused ..

theorem settled_alertEndOn (a : AlertId) (s : State) : Settled s (alertEndOn a s) := by
  unfold alertEndOn
  split
  · exact settled_ok ..
  · exact settled_refused ..

theorem settled_setUpReport (x : RecordData) (s : State) : Settled s (setUpReport x s) := by
  unfold setUpReport
  split
  · exact settled_refused ..
  · dsimp only
    repeat' split
    iterate 3 exact settled_refused ..
    exact settled_ok ..

/-- Every posting completes OK or leaves the state as it was (R163). -/
theorem settled_of_postingOf (posting : postingOf c = some (code, act)) (s : State) : Settled s (act s) := by
  have withLane {x : RecordData} {f : LaneId → State → Carried} (h : ∀ l, Settled s (f l s)) : Settled s (withLane x f s) := by
    unfold Machine.withLane
    split
    · exact h _
    · exact settled_refused ..
  have withClip {x : RecordData} {f : ClipId → State → Carried} (h : ∀ l, Settled s (f l s)) : Settled s (withClip x f s) := by
    unfold Machine.withClip
    split
    · exact h _
    · exact settled_refused ..
  have withAlert {x : RecordData} {f : AlertId → State → Carried} (h : ∀ l, Settled s (f l s)) :
      Settled s (withAlert x f s) := by
    unfold Machine.withAlert
    split
    · exact h _
    · exact settled_refused ..
  cases c with
  | laneConfigure x => cases posting; exact withLane fun l => settled_configureLane x l s
  | laneEnable x => cases posting; exact withLane fun l => settled_enableLane l s
  | laneDisable x => cases posting; exact withLane fun l => settled_disableLane l s
  | clipDeclare x => cases posting; exact withClip fun c => settled_declareClip x c s
  | clipClear x => cases posting; exact withClip fun c => settled_clearClip c s
  | orderLoad x => cases posting; exact settled_loadOrder x s
  | orderCancel x => cases posting; exact settled_cancelOrder x s
  | schedule x => cases posting; exact settled_schedule x s
  | alertStart x => cases posting; exact withAlert fun a => settled_alertStartOn x a s
  | alertEnd x => cases posting; exact withAlert fun a => settled_alertEndOn a s
  | reportSetup x => cases posting; exact settled_setUpReport x s
  | countersClear x => cases posting; exact settled_ok ..
  | partReset x => cases posting; exact settled_ok ..
  | _ => cases posting

/-- What a posting leaves of its own slot beside state, result and detail (Table 9-4). -/
theorem slot_of_postingOf (posting : postingOf c = some (code, act)) (s : State) (k : PostSlotId) (res : PostResult) (n : Nat) :
    { (act s).1.slot k with state := PostState.done, result := res, detail := n } =
      { s.slot k with state := PostState.done, result := res, detail := n } := by
  by_cases reset : ∃ x, c = .partReset x
  · obtain ⟨x, rfl⟩ := reset
    cases posting
    have slot : (resetPart s).1.slot k = (s.slot k).drop := mapEntries_get _ s.slots k
    rw [slot, PostSlot.drop]
    split <;> rfl
  · have slots := (outer_of_postingOf posting (fun x h => reset ⟨x, h⟩) s).slots
    rw [State.slot, slots]
    rfl

theorem finishPosting_slot (k : PostSlotId) (res : PostResult) (n : Nat) (s : State) :
    (finishPosting k res n s).slot k = { s.slot k with state := .done, result := res, detail := n } :=
  vec_get_set_self s.slots k _

/-- Settles O40. -/
theorem refusedPostingChangesNothing : Obligations.RefusedPostingChangesNothing := by
  unfold Obligations.RefusedPostingChangesNothing
  intro x c code s k rest kind due
  obtain ⟨act, posting⟩ : ∃ act, postingOf c = some (code, act) := by
    simp only [List.mem_cons, List.not_mem_nil, or_false, Prod.mk.injEq] at kind
    rcases kind with ⟨rfl, rfl⟩ | ⟨rfl, rfl⟩ | ⟨rfl, rfl⟩ | ⟨rfl, rfl⟩ | ⟨rfl, rfl⟩ | ⟨rfl, rfl⟩ | ⟨rfl, rfl⟩ | ⟨rfl, rfl⟩ |
      ⟨rfl, rfl⟩ | ⟨rfl, rfl⟩ | ⟨rfl, rfl⟩ | ⟨rfl, rfl⟩ | ⟨rfl, rfl⟩ <;> exact ⟨_, rfl⟩
  obtain ⟨⟨u, res, n⟩, answer⟩ : ∃ y, act { s with memReads := rest } = y := ⟨_, rfl⟩
  have slot := slot_of_postingOf posting { s with memReads := rest } k res n
  have settled := settled_of_postingOf posting { s with memReads := rest }
  rw [answer] at slot settled
  refine ⟨_, res, n, exec_of_answer posting due answer, rfl, (finishPosting_slot k res n u).trans slot, fun refused => ?_⟩
  obtain rfl : u = { s with memReads := rest } := settled.resolve_left refused
  rfl

/-! ## The areas met (R2, R59, R172) -/

theorem rangesMeet_iff {a n b m : Nat} : rangesMeet a n b m = true ↔ a < b + m ∧ b < a + n := by simp [rangesMeet]

theorem meetsLane_iff {but : Option LaneId} {a n : Nat} : meetsLane s but a n = true ↔ Meets s but a n 1 := by
  simp only [meetsLane, List.any_eq_true, Bool.and_eq_true, bne_iff_ne, List.mem_finRange, true_and]
  refine exists_congr fun m => ?_
  cases (s.lane m).record with
  | none => simp
  | some q => simp [rangesMeet_iff]

theorem meetsWindow_iff {but : Option LaneId} {a n : Nat} : meetsWindow s a n = true ↔ Meets s but a n 2 := by
  unfold meetsWindow Meets
  cases s.windowBase with
  | none => simp
  | some b => simp [rangesMeet_iff, windowSize]

theorem meetsReport_iff {but : Option LaneId} {a n : Nat} : meetsReport s a n = true ↔ Meets s but a n 3 := by
  unfold meetsReport Meets
  cases s.report.setup with
  | none => simp
  | some g => simp [rangesMeet_iff]

theorem meetsClip_iff_meets {but : Option LaneId} {a n : Nat} : meetsClip s a n = true ↔ Meets s but a n 4 := by
  rw [meetsClip_iff]
  simp only [rangesMeet_iff, Meets]

/-- The areas of Table 9-5 are numbered 1 to 4. -/
theorem meets_number {but : Option LaneId} {a n m : Nat} (meets : Meets s but a n m) : m = 1 ∨ m = 2 ∨ m = 3 ∨ m = 4 := by
  unfold Meets at meets
  split at meets
  · exact .inl rfl
  · exact .inr (.inl rfl)
  · exact .inr (.inr (.inl rfl))
  · exact .inr (.inr (.inr rfl))
  · exact meets.elim

/-! ## LANE CONFIGURE (R2) -/

theorem configureLane_of_on {x : RecordData} {l : LaneId} (on : (s.lane l).on.isSome = true) :
    configureLane x l s = (s, .badState, 0) := by simp [configureLane, on]

theorem configureLane_of_bad {x : RecordData} {l : LaneId} {i : Nat} (off : (s.lane l).on = none)
    (bad : firstBad (laneChecks x) = some i) : configureLane x l s = (s, .badField, i) := by simp [configureLane, off, bad]

theorem configureLane_of_good {x : RecordData} {l : LaneId} (off : (s.lane l).on = none)
    (good : firstBad (laneChecks x) = none) : configureLane x l s =
      let n := 192 * (laneRecordOf x).slots
      if meetsLane s (some l) (laneRecordOf x).base n then (s, .overlap, 1)
      else if meetsWindow s (laneRecordOf x).base n then (s, .overlap, 2)
      else if meetsReport s (laneRecordOf x).base n then (s, .overlap, 3)
      else if meetsClip s (laneRecordOf x).base n then (s, .overlap, 4)
      else (s.modLane l fun ln => { ln.clearCounts with record := some (laneRecordOf x) }, .ok, 0) := by
  simp [configureLane, off, good]

theorem configureLane_of_met {x : RecordData} {l : LaneId} {m : Nat} (off : (s.lane l).on = none)
    (good : firstBad (laneChecks x) = none)
    (met : FirstAt (Meets s (some l) (laneRecordOf x).base (192 * (laneRecordOf x).slots)) m) :
    configureLane x l s = (s, .overlap, m) := by
  rw [configureLane_of_good off good]
  dsimp only
  rcases meets_number met.1 with rfl | rfl | rfl | rfl
  · rw [if_pos (meetsLane_iff.2 met.1)]
  · rw [if_neg fun h => met.2 1 (by omega) (meetsLane_iff.1 h), if_pos (meetsWindow_iff.2 met.1)]
  · rw [if_neg fun h => met.2 1 (by omega) (meetsLane_iff.1 h), if_neg fun h => met.2 2 (by omega) (meetsWindow_iff.1 h),
      if_pos (meetsReport_iff.2 met.1)]
  · rw [if_neg fun h => met.2 1 (by omega) (meetsLane_iff.1 h), if_neg fun h => met.2 2 (by omega) (meetsWindow_iff.1 h),
      if_neg fun h => met.2 3 (by omega) (meetsReport_iff.1 h), if_pos (meetsClip_iff_meets.2 met.1)]

theorem configureLane_of_clear {x : RecordData} {l : LaneId} (off : (s.lane l).on = none)
    (good : firstBad (laneChecks x) = none)
    (clear : ∀ m, ¬ Meets s (some l) (laneRecordOf x).base (192 * (laneRecordOf x).slots) m) : configureLane x l s =
      (s.modLane l fun ln => { ln.clearCounts with record := some (laneRecordOf x) }, .ok, 0) := by
  rw [configureLane_of_good off good]
  dsimp only
  rw [if_neg fun h => clear 1 (meetsLane_iff.1 h), if_neg fun h => clear 2 (meetsWindow_iff.1 h),
    if_neg fun h => clear 3 (meetsReport_iff.1 h), if_neg fun h => clear 4 (meetsClip_iff_meets.1 h)]

/-- LANE CONFIGURE of lane `l`, as O41 states it. -/
theorem laneConfigure_loads {x : RecordData} (due : Due s k 0x01#8 rest) {l : LaneId} (named : field x 0 1 = l.val) :
    let area := Meets s (some l) (field x 8 5) (192 * field x 16 4)
    ((s.lane l).on.isSome = true → Refused s k rest .badState 0 (exec (.laneConfigure x) s)) ∧
    (∀ i, (s.lane l).on = none → FirstAt (LaneFieldBad x) i → Refused s k rest .badField i (exec (.laneConfigure x) s)) ∧
    (∀ n, (s.lane l).on = none → (∀ m, ¬ LaneFieldBad x m) → FirstAt area n →
      Refused s k rest .overlap n (exec (.laneConfigure x) s)) ∧
    ((s.lane l).on = none → (∀ m, ¬ LaneFieldBad x m) → (∀ n, ¬ area n) →
      LaneRead x (laneRecordOf x) ∧ exec (.laneConfigure x) s = .next (finishPosting k .ok 0
        { s with
          memReads := rest
          lanes := s.lanes.set l { s.lane l with
            record := some (laneRecordOf x), counts := Vector.replicate 21 0, flags := 0 } })) := by
  intro area
  have act := withLane_of_field_eq named (configureLane x) { s with memReads := rest }
  refine ⟨fun on => ?_, fun i off bad => ?_, fun n off good met => ?_, fun off good clear => ⟨laneRead_of x good, ?_⟩⟩
  · exact refused_of_answer rfl due (act.trans (configureLane_of_on on))
  · exact refused_of_answer rfl due (act.trans (configureLane_of_bad off (((laneChecks_iff x).2 i).2 bad)))
  · exact refused_of_answer rfl due (act.trans (configureLane_of_met off ((laneChecks_iff x).1.2 good) met))
  · exact exec_of_answer rfl due (act.trans (configureLane_of_clear off ((laneChecks_iff x).1.2 good) clear))

/-! ## CLIP DECLARE (R59) -/

theorem declareClip_of_locked {x : RecordData} {c : ClipId} (locked : 0 < (s.clip c).locks) :
    declareClip x c s = (s, .locked, 0) := by simp [declareClip, locked]

theorem declareClip_of_bad {x : RecordData} {c : ClipId} {i : Nat} (free : (s.clip c).locks = 0)
    (bad : firstBad (clipChecks x) = some i) : declareClip x c s = (s, .badField, i) := by simp [declareClip, free, bad]

theorem declareClip_of_good {x : RecordData} {c : ClipId} (free : (s.clip c).locks = 0)
    (good : firstBad (clipChecks x) = none) : declareClip x c s =
      let n := 192 * (clipBodyOf x).length
      if meetsLane s none (clipBodyOf x).address n then (s, .overlap, 1)
      else if meetsWindow s (clipBodyOf x).address n then (s, .overlap, 2)
      else if meetsReport s (clipBodyOf x).address n then (s, .overlap, 3)
      else (s.modClip c fun y => { y with body := some (clipBodyOf x), disturbed := false, readFault := false }, .ok, 0) := by
  simp [declareClip, free, good]

theorem declareClip_of_met {x : RecordData} {c : ClipId} {m : Nat} (free : (s.clip c).locks = 0)
    (good : firstBad (clipChecks x) = none) (notClip : m ≠ 4)
    (met : FirstAt (Meets s none (clipBodyOf x).address (192 * (clipBodyOf x).length)) m) :
    declareClip x c s = (s, .overlap, m) := by
  rw [declareClip_of_good free good]
  dsimp only
  rcases meets_number met.1 with rfl | rfl | rfl | rfl
  · rw [if_pos (meetsLane_iff.2 met.1)]
  · rw [if_neg fun h => met.2 1 (by omega) (meetsLane_iff.1 h), if_pos (meetsWindow_iff.2 met.1)]
  · rw [if_neg fun h => met.2 1 (by omega) (meetsLane_iff.1 h), if_neg fun h => met.2 2 (by omega) (meetsWindow_iff.1 h),
      if_pos (meetsReport_iff.2 met.1)]
  · exact absurd rfl notClip

theorem declareClip_of_clear {x : RecordData} {c : ClipId} (free : (s.clip c).locks = 0)
    (good : firstBad (clipChecks x) = none)
    (clear : ∀ m, m ≠ 4 → ¬ Meets s none (clipBodyOf x).address (192 * (clipBodyOf x).length) m) : declareClip x c s =
      ({ s with clips := s.clips.set c { body := some (clipBodyOf x), locks := 0, disturbed := false, readFault := false } },
        .ok, 0) := by
  rw [declareClip_of_good free good]
  dsimp only
  rw [if_neg fun h => clear 1 (by omega) (meetsLane_iff.1 h), if_neg fun h => clear 2 (by omega) (meetsWindow_iff.1 h),
    if_neg fun h => clear 3 (by omega) (meetsReport_iff.1 h), State.modClip, free]

/-- CLIP DECLARE of clip `c`, as O41 states it. -/
theorem clipDeclare_loads {x : RecordData} (due : Due s k 0x04#8 rest) {c : ClipId} (named : field x 0 2 = c.val) :
    let area := Meets s none (field x 8 5) (192 * (field x 16 3 + 1))
    (0 < (s.clip c).locks → Refused s k rest .locked 0 (exec (.clipDeclare x) s)) ∧
    (∀ i, (s.clip c).locks = 0 → FirstAt (ClipFieldBad x) i → Refused s k rest .badField i (exec (.clipDeclare x) s)) ∧
    (∀ n, (s.clip c).locks = 0 → (∀ m, ¬ ClipFieldBad x m) → n ≠ 4 → area n → (∀ m, m < n → ¬ area m) →
      Refused s k rest .overlap n (exec (.clipDeclare x) s)) ∧
    ((s.clip c).locks = 0 → (∀ m, ¬ ClipFieldBad x m) → (∀ n, n ≠ 4 → ¬ area n) →
      ClipRead x (clipBodyOf x) ∧ exec (.clipDeclare x) s = .next (finishPosting k .ok 0
        { s with
          memReads := rest
          clips := s.clips.set c { body := some (clipBodyOf x), locks := 0, disturbed := false, readFault := false } })) := by
  intro area
  have act := withClip_of_field_eq named (declareClip x) { s with memReads := rest }
  refine ⟨fun locked => ?_, fun i free bad => ?_, fun n free good notClip met first => ?_,
    fun free good clear => ⟨clipRead_of x good, ?_⟩⟩
  · exact refused_of_answer rfl due (act.trans (declareClip_of_locked locked))
  · exact refused_of_answer rfl due (act.trans (declareClip_of_bad free (((clipChecks_iff x).2 i).2 bad)))
  · exact refused_of_answer rfl due (act.trans (declareClip_of_met free ((clipChecks_iff x).1.2 good) notClip ⟨met, first⟩))
  · exact exec_of_answer rfl due (act.trans (declareClip_of_clear free ((clipChecks_iff x).1.2 good) clear))

/-! ## ORDER LOAD (R79) -/

theorem loadOrder_of_held {x : RecordData} {i : OrderId} (named : field x 0 1 = i.val)
    (held : (s.order i).state = .bound ∨ (s.order i).state = .active) : loadOrder x s = (s, .inUse, 0) := by
  simp [loadOrder, named, held]

theorem loadOrder_of_bad {x : RecordData} {i : OrderId} {n : Nat} (named : field x 0 1 = i.val)
    (free : ¬ ((s.order i).state = .bound ∨ (s.order i).state = .active)) (bad : firstBad (orderChecks s x) = some n) :
    loadOrder x s = (s, .badField, n) := by
  simp [loadOrder, named, free, bad]

theorem loadOrder_of_notReady {x : RecordData} {i : OrderId} {n : Nat} (named : field x 0 1 = i.val)
    (free : ¬ ((s.order i).state = .bound ∨ (s.order i).state = .active)) (good : firstBad (orderChecks s x) = none)
    (notReady : orderNotReady s (orderBodyOf x) = some n) : loadOrder x s = (s, .notReady, n) := by
  simp [loadOrder, named, free, good, notReady]

theorem loadOrder_of_ready {x : RecordData} {i : OrderId} (named : field x 0 1 = i.val)
    (free : ¬ ((s.order i).state = .bound ∨ (s.order i).state = .active)) (good : firstBad (orderChecks s x) = none)
    (ready : orderNotReady s (orderBodyOf x) = none) : loadOrder x s = (s.setOrder i
      { state := .armed, body := some (orderBodyOf x), remaining := (orderBodyOf x).uses, unlimited := (orderBodyOf x).uses == 0
        abort := false }, .ok, 0) := by
  simp [loadOrder, named, free, good, ready]

theorem clipReady_iff {c : ClipId} : s.clipReady c = true ↔ (s.clip c).body.isSome = true := Iff.rfl

theorem orderNotReady_playlist {b : OrderBody} {list : List ClipId} {pad : Option ClipId} (clips : b.source = .clips list pad)
    (missing : ∃ c, c ∈ list ∧ ¬ (s.clip c).body.isSome = true) : orderNotReady s b = some 9 := by
  obtain ⟨c, mem, empty⟩ := missing
  have some_ : (!list.all s.clipReady) = true := by
    rw [Bool.not_eq_true', List.all_eq_false]
    exact ⟨c, mem, empty⟩
  simp [orderNotReady, clips, some_]

theorem orderNotReady_pad {b : OrderBody} {list : List ClipId} {pad : Option ClipId} (clips : b.source = .clips list pad)
    (all : ∀ c, c ∈ list → (s.clip c).body.isSome = true) (missing : ∃ c, pad = some c ∧ ¬ (s.clip c).body.isSome = true) :
    orderNotReady s b = some 10 := by
  obtain ⟨c, rfl, empty⟩ := missing
  have none_ : (!list.all s.clipReady) = false := by
    rw [Bool.not_eq_false', List.all_eq_true]
    exact all
  have padEmpty : s.clipReady c = false := by rw [Bool.eq_false_iff]; exact empty
  simp [orderNotReady, clips, none_, padEmpty]

theorem orderNotReady_none {b : OrderBody}
    (all : ∀ list pad, b.source = .clips list pad → ∀ c, c ∈ list ∨ pad = some c → (s.clip c).body.isSome = true) :
    orderNotReady s b = none := by
  unfold orderNotReady
  split
  · next list pad clips =>
    have none_ : (!list.all s.clipReady) = false := by
      rw [Bool.not_eq_false', List.all_eq_true]
      exact fun c mem => all list pad clips c (.inl mem)
    have padReady : (pad.any fun c => !s.clipReady c) = false := by
      cases pad with
      | none => rfl
      | some c => simp [clipReady_iff.2 (all list (some c) clips c (.inr rfl))]
    rw [none_, padReady]
    rfl
  · rfl

/-- ORDER LOAD of order `i`, as O41 states it. -/
theorem orderLoad_loads {x : RecordData} (due : Due s k 0x06#8 rest) {i : OrderId} (named : field x 0 1 = i.val) :
    let free := (s.order i).state ≠ .bound ∧ (s.order i).state ≠ .active
    let ready : ClipId → Prop := fun c => (s.clip c).body.isSome = true
    (¬ free → Refused s k rest .inUse 0 (exec (.orderLoad x) s)) ∧
    (∀ n, free → FirstAt (OrderFieldBad s x) n → Refused s k rest .badField n (exec (.orderLoad x) s)) ∧
    (∀ list pad, free → (∀ m, ¬ OrderFieldBad s x m) → (orderBodyOf x).source = .clips list pad →
      ((∃ c, c ∈ list ∧ ¬ ready c) → Refused s k rest .notReady 9 (exec (.orderLoad x) s)) ∧
      ((∀ c, c ∈ list → ready c) → (∃ c, pad = some c ∧ ¬ ready c) →
        Refused s k rest .notReady 10 (exec (.orderLoad x) s))) ∧
    (free → (∀ m, ¬ OrderFieldBad s x m) →
      (∀ list pad, (orderBodyOf x).source = .clips list pad → ∀ c, c ∈ list ∨ pad = some c → ready c) →
      OrderRead x (orderBodyOf x) ∧ exec (.orderLoad x) s = .next (finishPosting k .ok 0
        { s with
          memReads := rest
          orders := s.orders.set i
            { state := .armed, body := some (orderBodyOf x), remaining := field x 2 1, unlimited := field x 2 1 == 0
              abort := false } })) := by
  intro free ready
  let u : State := { s with memReads := rest }
  have checks := orderChecks_iff u x
  have held : free → ¬ ((u.order i).state = .bound ∨ (u.order i).state = .active) := fun f h => h.elim f.1 f.2
  refine ⟨fun f => ?_, fun n f bad => ?_, fun list pad f good clips => ⟨fun missing => ?_, fun all missing => ?_⟩,
    fun f good all => ⟨orderRead_of s x good, ?_⟩⟩
  · refine refused_of_answer rfl due (loadOrder_of_held (s := u) named ?_)
    by_contra none_
    exact f ⟨fun h => none_ (.inl h), fun h => none_ (.inr h)⟩
  · exact refused_of_answer rfl due (loadOrder_of_bad (s := u) named (held f) ((checks.2 n).2 bad))
  · exact refused_of_answer rfl due
      (loadOrder_of_notReady (s := u) named (held f) (checks.1.2 good) (orderNotReady_playlist clips missing))
  · exact refused_of_answer rfl due
      (loadOrder_of_notReady (s := u) named (held f) (checks.1.2 good) (orderNotReady_pad clips all missing))
  · exact exec_of_answer rfl due (loadOrder_of_ready (s := u) named (held f) (checks.1.2 good) (orderNotReady_none all))

/-! ## REPORT SETUP (R172, R173) -/

theorem setUpReport_of_bad {x : RecordData} {i : Nat} (bad : firstBad (reportChecks x) = some i) :
    setUpReport x s = (s, .badField, i) := by simp [setUpReport, bad]

theorem setUpReport_of_good {x : RecordData} (good : firstBad (reportChecks x) = none) : setUpReport x s =
      let n := 32 * (ringSetupOf x).size
      if meetsLane s none (ringSetupOf x).base n then (s, .overlap, 1)
      else if meetsWindow s (ringSetupOf x).base n then (s, .overlap, 2)
      else if meetsClip s (ringSetupOf x).base n then (s, .overlap, 4)
      else (s.modReport (Report.setUp (ringSetupOf x)), .ok, 0) := by
  simp [setUpReport, good]

theorem setUpReport_of_met {x : RecordData} {m : Nat} (good : firstBad (reportChecks x) = none) (notRing : m ≠ 3)
    (met : Meets s none (ringSetupOf x).base (32 * (ringSetupOf x).size) m)
    (first : ∀ n, n < m → n ≠ 3 → ¬ Meets s none (ringSetupOf x).base (32 * (ringSetupOf x).size) n) :
    setUpReport x s = (s, .overlap, m) := by
  rw [setUpReport_of_good good]
  dsimp only
  rcases meets_number met with rfl | rfl | rfl | rfl
  · rw [if_pos (meetsLane_iff.2 met)]
  · rw [if_neg fun h => first 1 (by omega) (by omega) (meetsLane_iff.1 h), if_pos (meetsWindow_iff.2 met)]
  · exact absurd rfl notRing
  · rw [if_neg fun h => first 1 (by omega) (by omega) (meetsLane_iff.1 h),
      if_neg fun h => first 2 (by omega) (by omega) (meetsWindow_iff.1 h), if_pos (meetsClip_iff_meets.2 met)]

theorem setUpReport_of_clear {x : RecordData} (good : firstBad (reportChecks x) = none)
    (clear : ∀ m, m ≠ 3 → ¬ Meets s none (ringSetupOf x).base (32 * (ringSetupOf x).size) m) :
    setUpReport x s = (s.modReport (Report.setUp (ringSetupOf x)), .ok, 0) := by
  rw [setUpReport_of_good good]
  dsimp only
  rw [if_neg fun h => clear 1 (by omega) (meetsLane_iff.1 h), if_neg fun h => clear 2 (by omega) (meetsWindow_iff.1 h),
    if_neg fun h => clear 4 (by omega) (meetsClip_iff_meets.1 h)]

/-- Settles O41, posting by posting along the checks of each. -/
theorem loadsSetTheirEntry : Obligations.LoadsSetTheirEntry := by
  unfold Obligations.LoadsSetTheirEntry
  refine ⟨fun x s k rest due => ⟨fun above => ?_, fun l named => laneConfigure_loads due named⟩,
    fun x s k rest due => ⟨fun above => ?_, fun c named => clipDeclare_loads due named⟩,
    fun x s k rest i due named => orderLoad_loads due named, fun x s k rest due => ?_⟩
  · exact refused_of_answer rfl due (withLane_of_field_gt above _ _)
  · exact refused_of_answer rfl due (withClip_of_field_gt above _ _)
  · intro area
    refine ⟨fun i bad => ?_, fun n good notRing met first => ?_, fun good clear => ⟨ringRead_of x, ?_⟩⟩
    · exact refused_of_answer rfl due (setUpReport_of_bad (((reportChecks_iff x).2 i).2 bad))
    · exact refused_of_answer rfl due (setUpReport_of_met ((reportChecks_iff x).1.2 good) notRing met first)
    · exact exec_of_answer rfl due (setUpReport_of_clear ((reportChecks_iff x).1.2 good) clear)

/-! ## COUNTERS CLEAR -/

theorem clearCounters_clip (x : RecordData) (s : State) (c : ClipId) : (clearCounters x s).1.clip c =
    if markSet (field x 8 1) then { s.clip c with readFault := false } else s.clip c := by
  unfold clearCounters
  dsimp only
  split
  · exact mapEntries_get _ s.clips c
  · rfl

theorem clearCounters_laneIs (x : RecordData) (s : State) (l : LaneId) : (clearCounters x s).1.lane l =
    if (field x 0 8).testBit l.val then { s.lane l with counts := Vector.replicate 21 0, flags := 0 } else s.lane l := by
  have lanes : (clearCounters x s).1.lanes =
      mapEntries (fun l ln => if (field x 0 8).testBit l then ln.clearCounts else ln) s.lanes := by
    unfold clearCounters; dsimp only; split <;> rfl
  rw [State.lane, lanes, mapEntries_get]
  rfl

/-- Settles O49. -/
theorem countersClearClearsMarkedLanes : Obligations.CountersClearClearsMarkedLanes := by
  unfold Obligations.CountersClearClearsMarkedLanes
  intro x s k rest due mark
  refine ⟨(clearCounters x { s with memReads := rest }).1, exec_of_answer rfl due ?_, ?_, clearCounters_laneIs x _, fun c => ?_⟩
  · rfl
  · unfold clearCounters; dsimp only; split <;> rfl
  · refine (clearCounters_clip x _ c).trans (if_congr ?_ rfl rfl)
    unfold markSet
    simp
    omega

end Sys2Proof.Machine
end

section
/-! PROOF. The resets and the arbiter: O10 and O26. -/

namespace Sys2Proof.Machine

variable {s t : State} {k : PostSlotId} {rest : List MemRead}

/-! ## What the resets do to the memory path -/

/-- Every upstream read not yet granted is served as the memory returns it. -/
theorem plainUps_read {us : List UpTxn} {a : Addr} {sv : Serve} (mem : .read a sv ∈ plainUps (fun _ => true) us) : sv = .plain := by
  obtain ⟨x, -, eq⟩ := List.mem_map.1 mem
  cases x with
  | read => cases eq; rfl
  | write => cases eq

/-- Every upstream write waits on as it was presented. -/
theorem plainUps_write {p : Serve → Bool} {us : List UpTxn} {a : Addr} {d : Line} {e : Enables} {go : Option PostSlotId} :
    .write a d e go ∈ plainUps p us ↔ .write a d e go ∈ us := by
  constructor
  · intro mem
    obtain ⟨x, mem, eq⟩ := List.mem_map.1 mem
    cases x with
    | read => cases eq
    | write => cases eq; exact mem
  · exact fun mem => List.mem_map.2 ⟨_, mem, rfl⟩

theorem unmarkGo_read {us : List UpTxn} {a : Addr} {sv : Serve} (mem : .read a sv ∈ unmarkGo us) : .read a sv ∈ us := by
  obtain ⟨x, mem, eq⟩ := List.mem_map.1 mem
  cases x with
  | read => cases eq; exact mem
  | write => cases eq

/-- The reads on the memory port stay in their order, one for one. -/
theorem length_orphanReads (rs : List MemRead) : (orphanReads rs).length = rs.length := by
  unfold orphanReads
  induction rs with
  | nil => rfl
  | cons r rs ih => rw [List.foldr_cons]; cases r <;> exact congrArg Nat.succ ih

/-- An upstream read on the memory port is one that was there. -/
theorem mem_of_orphanReads {rs : List MemRead} {a : Addr} {sv : Serve} (mem : .up a sv ∈ orphanReads rs) : .up a sv ∈ rs := by
  unfold orphanReads at mem
  induction rs with
  | nil => exact mem
  | cons r rs ih =>
    rw [List.foldr_cons] at mem
    cases r with
    | up b sv' =>
      rcases List.mem_cons.1 mem with eq | mem
      · cases eq; exact List.mem_cons_self
      · exact List.mem_cons_of_mem _ (ih mem)
    | posting | fetch =>
      rcases List.mem_cons.1 mem with eq | mem
      · cases eq
      · exact List.mem_cons_of_mem _ (ih mem)

theorem resetBlocks_up {a : Addr} {sv : Serve} (mem : .up a sv ∈ (resetBlocks s).memReads) : sv = .plain := by
  obtain ⟨x, -, eq⟩ := List.mem_map.1 (mem_of_orphanReads mem)
  cases x with
  | up => cases eq; rfl
  | posting => cases eq
  | fetch => cases eq

theorem resetBlocks_length : (resetBlocks s).memReads.length = s.memReads.length := by
  rw [resetBlocks, length_orphanReads, plainReads, List.length_map]

theorem vec_replicate_get {α : Type} {n : Nat} (x : α) (i : Fin n) : (Vector.replicate n x)[i] = x := by simp

theorem resetBlocks_lane (l : LaneId) : (resetBlocks s).lane l = Lane.reset := vec_replicate_get Lane.reset l
theorem resetBlocks_clip (c : ClipId) : (resetBlocks s).clip c = Clip.reset := vec_replicate_get Clip.reset c
theorem resetBlocks_order (i : OrderId) : (resetBlocks s).order i = Order.reset := vec_replicate_get Order.reset i
theorem resetBlocks_alert (a : AlertId) : (resetBlocks s).alert a = Alert.reset := vec_replicate_get Alert.reset a

theorem finishPosting_slot_ne {j : PostSlotId} (other : j ≠ k) {res : PostResult} {n : Nat} :
    (finishPosting k res n s).slot j = s.slot j := by
  change (s.modSlot k fun x => { x with state := .done, result := res, detail := n }).slot j = s.slot j
  rw [State.slot_modSlot, if_neg other]

/-- Settles O10. -/
theorem resetsEmptyThePart : Obligations.ResetsEmptyThePart := by
  unfold Obligations.ResetsEmptyThePart
  refine ⟨fun s => ⟨pinResetState s, rfl, rfl, rfl, rfl, rfl, rfl, rfl, resetBlocks_lane (s := s),
    resetBlocks_clip (s := s), fun i => ?_,
    fun a => ?_, rfl, fun k => ?_, rfl, rfl, rfl, rfl, rfl, rfl, rfl, rfl, rfl, rfl, rfl, rfl, fun a sv mem => ?_,
    fun a sv mem => ?_, ?_, resetBlocks_length (s := s), rfl, rfl, rfl⟩, fun x s k rest due => ?_⟩
  · have reset : (pinResetState s).order i = Order.reset := resetBlocks_order (s := s) i
    rw [reset]; exact ⟨rfl, rfl, rfl, rfl⟩
  · have reset : (pinResetState s).alert a = Alert.reset := resetBlocks_alert (s := s) a
    rw [reset]; exact ⟨rfl, rfl, rfl, rfl, rfl, rfl, rfl⟩
  · exact vec_replicate_get PostSlot.reset k
  · exact resetBlocks_up (s := s) mem
  · exact plainUps_read (unmarkGo_read mem)
  · change (unmarkGo (plainUps _ s.upOrder)).length = _
    rw [unmarkGo, List.length_map, plainUps, List.length_map]
  · let u : State := { s with memReads := rest }
    have done : exec (.partReset x) s = .next (finishPosting k .ok 0 (resetPart u).1) := exec_of_answer rfl due rfl
    have slot (j : PostSlotId) : (resetPart u).1.slot j = (s.slot j).drop := mapEntries_get _ s.slots j
    refine ⟨_, done, rfl, rfl, rfl, fun j => ?_, rfl, rfl, rfl, rfl, rfl, rfl, resetBlocks_lane (s := u),
      resetBlocks_clip (s := u), fun i => ?_, fun a => ?_, rfl, rfl, rfl, rfl, fun a sv mem => resetBlocks_up (s := u) mem,
      fun a sv mem => plainUps_read mem, fun a d e go => plainUps_write.symm, rfl, rfl, rfl⟩
    · by_cases own : j = k
      · subst own
        rw [if_pos rfl, finishPosting_slot]
        exact slot_of_postingOf (c := .partReset x) rfl u j .ok 0
      · rw [if_neg own]
        rw [finishPosting_slot_ne own, slot, PostSlot.drop]
    · have reset : (finishPosting k .ok 0 (resetPart u).1).order i = Order.reset := resetBlocks_order (s := u) i
      rw [reset]; rfl
    · have reset : (finishPosting k .ok 0 (resetPart u).1).alert a = Alert.reset := resetBlocks_alert (s := u) a
      rw [reset]; exact ⟨rfl, rfl⟩

/-! ## The arbiter (R7) -/

theorem raisedRun_of_released {straps : BitVec 8} (released : s.pin = .released straps) :
    raisedRun s = min 4 (s.runCount + 1) := by
  unfold raisedRun
  rw [released]
  exact heldAt_eq_min 4 _

/-- The head of the upstream order is granted where nothing of the part's waits or the run count is below 4. -/
theorem grant_up {straps : BitVec 8} (released : s.pin = .released straps) {x : UpTxn} {us : List UpTxn}
    (order : s.upOrder = x :: us) (may : waitingPart s = none ∨ s.runCount < 4) :
    grant s = { grantUp x us s with runCount := min 4 (s.runCount + 1) } := by
  unfold grant
  rw [order]
  rcases may with none_ | low
  · rw [none_]
    dsimp only
    rw [raisedRun_of_released released]
  · cases waitingPart s with
    | none => dsimp only; rw [raisedRun_of_released released]
    | some p =>
      dsimp only
      rw [if_pos low, Nat.min_eq_right (by omega)]

/-- The part's transaction is granted where nothing else waits or the run count is 4. -/
theorem grant_part {p : PartTxn} (waits : waitingPart s = some p) (may : s.upOrder = [] ∨ s.runCount = 4) :
    grant s = { grantPart p s with runCount := 0 } := by
  unfold grant
  rw [waits]
  rcases may with empty | full
  · rw [empty]
  · cases s.upOrder with
    | nil => rfl
    | cons x us => exact if_neg (by omega)

theorem goWaits_iff {us : List UpTxn} {k : PostSlotId} : goWaits us k = true ↔ ∃ a d e, .write a d e (some k) ∈ us := by
  unfold goWaits
  rw [List.any_eq_true]
  constructor
  · rintro ⟨x, mem, go⟩
    cases x with
    | write a d e g => exact ⟨a, d, e, (eq_of_beq go : g = some k) ▸ mem⟩
    | read => cases go
  · rintro ⟨a, d, e, mem⟩
    exact ⟨_, mem, beq_self_eq_true _⟩

theorem waitingPart_posting {w : Working} (working : s.working = some w) (left : w.granted < 4)
    (clear : goWaits s.upOrder w.slot = false) : waitingPart s = some (.posting w) := by
  simp [waitingPart, working, Option.filter, left, clear]

theorem waitingPart_no_posting
    (none_ : ∀ w, s.working = some w → ¬ w.granted < 4 ∨ goWaits s.upOrder w.slot = true) : waitingPart s =
      match s.report.flight.filter fun x => !x.granted with
      | some x => some (.report x)
      | none => s.fetchWait.map fun w => .fetch w.1 w.2 := by
  unfold waitingPart
  cases working : s.working with
  | none => rfl
  | some w =>
    have closed : (decide (w.granted < 4) && !goWaits s.upOrder w.slot) = false := by
      rcases none_ w working with done | waits
      · simp [done]
      · simp [waits]
    rw [Option.filter_some, closed]
    rfl

/-- Settles O26. -/
theorem arbiterGrantsByClass : Obligations.ArbiterGrantsByClass := by
  unfold Obligations.ArbiterGrantsByClass
  refine ⟨runInv_step, fun straps s released run => ⟨fun us may => ⟨fun a d e go order => ?_, fun a sv order => ?_⟩,
    fun may => ⟨fun w waits => ?_, fun x waits => ?_, fun f j waits => ?_⟩, fun empty none_ => ?_,
    fun w working left clear => ?_, fun none_ => ⟨fun x flight ungranted => ?_, fun granted => ?_⟩⟩⟩
  · exact congrArg Host.Outcome.next (grant_up released order may)
  · exact congrArg Host.Outcome.next (grant_up released order may)
  · refine congrArg Host.Outcome.next ((grant_part waits may).trans ?_)
    have base : s.windowBase = some (straps.toNat * 268435456) := by rw [State.windowBase, released]
    rw [grantPart, recordLineAddr, base]
    rfl
  · exact congrArg Host.Outcome.next (grant_part waits may)
  · exact congrArg Host.Outcome.next (grant_part waits may)
  · refine congrArg Host.Outcome.next ?_
    unfold grant
    rw [empty, none_]
  · refine waitingPart_posting working left ?_
    rw [Bool.eq_false_iff, ne_eq, goWaits_iff]
    rintro ⟨a, d, e, mem⟩
    exact clear a d e mem
  · rw [waitingPart_no_posting fun w working => (none_ w working).imp_right goWaits_iff.2, flight]
    simp [Option.filter, ungranted]
  · rw [waitingPart_no_posting fun w working => (none_ w working).imp_right goWaits_iff.2]
    cases flight : s.report.flight with
    | none => rfl
    | some x => simp [Option.filter, granted x flight]

end Sys2Proof.Machine
end

section
/-! PROOF. Bytes of packets, stream time and the counts: O57 to O60. -/

namespace Sys2Proof.Machine

/-! ## Bytes -/

theorem getLsbD_getByte {n : Nat} (x : BitVec n) (k i : Nat) : (getByte x k).getLsbD i = (decide (i < 8) && x.getLsbD (8 * k + i)) := by
  rw [getByte, BitVec.getLsbD_extractLsb']

theorem getLsbD_setByte {n : Nat} (x : BitVec n) (k : Nat) (b : Byte) (i : Nat) : (setByte x k b).getLsbD i =
    (decide (i < n) && if 8 * k ≤ i ∧ i < 8 * k + 8 then b.getLsbD (i - 8 * k) else x.getLsbD i) := by
  have ones (j : Nat) : (0xFF#8).getLsbD j = decide (j < 8) := by
    rw [show (0xFF#8) = BitVec.allOnes 8 from rfl, BitVec.getLsbD_allOnes]
  simp only [setByte, BitVec.getLsbD_or, BitVec.getLsbD_and, BitVec.getLsbD_not, BitVec.getLsbD_shiftLeft,
    BitVec.getLsbD_setWidth, ones]
  by_cases inside : i < n
  · by_cases low : 8 * k ≤ i
    · by_cases high : i < 8 * k + 8
      · simp [inside, low, high, show ¬ i < 8 * k by omega, show i - 8 * k < 8 by omega, show i - 8 * k < n by omega]
      · have out : b.getLsbD (i - 8 * k) = false := BitVec.getLsbD_of_ge _ _ (by omega)
        simp [inside, low, high, show ¬ i < 8 * k by omega, show ¬ i - 8 * k < 8 by omega, out]
    · simp [inside, low, show i < 8 * k by omega]
  · simp [inside, BitVec.getLsbD_of_ge x i (by omega)]

theorem getByte_setByte_self {n : Nat} {x : BitVec n} {k : Nat} (within : 8 * k + 8 ≤ n) (b : Byte) :
    getByte (setByte x k b) k = b := by
  refine BitVec.eq_of_getLsbD_eq fun i h => ?_
  rw [getLsbD_getByte, getLsbD_setByte, if_pos (by omega)]
  simp [h, show 8 * k + i < n by omega]

theorem getByte_setByte_ne {n : Nat} {x : BitVec n} {j k : Nat} (other : j ≠ k) (b : Byte) :
    getByte (setByte x k b) j = getByte x j := by
  refine BitVec.eq_of_getLsbD_eq fun i h => ?_
  rw [getLsbD_getByte, getLsbD_setByte, if_neg (by omega), getLsbD_getByte]
  by_cases inside : 8 * j + i < n
  · simp [inside]
  · simp [BitVec.getLsbD_of_ge x (8 * j + i) (by omega)]

/-- Bits of a byte put together from kept bits and new ones. -/
theorem stampByte_value (b : Byte) (v : BitVec 7) : ((b &&& 0x01#8) ||| (v.setWidth 8 <<< 1)).extractLsb' 1 7 = v := by
  refine BitVec.eq_of_getLsbD_eq fun i h => ?_
  interval_cases i <;> simp

theorem stampByte_marker (b : Byte) (v : BitVec 7) :
    ((b &&& 0x01#8) ||| (v.setWidth 8 <<< 1)).extractLsb' 0 1 = b.extractLsb' 0 1 := by
  refine BitVec.eq_of_getLsbD_eq fun i h => ?_
  interval_cases i
  simp

theorem stampHead_value (b : Byte) (v : BitVec 3) : ((b &&& 0xF1#8) ||| (v.setWidth 8 <<< 1)).extractLsb' 1 3 = v := by
  refine BitVec.eq_of_getLsbD_eq fun i h => ?_
  interval_cases i <;> simp

theorem stampHead_marker (b : Byte) (v : BitVec 3) :
    ((b &&& 0xF1#8) ||| (v.setWidth 8 <<< 1)).extractLsb' 0 1 = b.extractLsb' 0 1 := by
  refine BitVec.eq_of_getLsbD_eq fun i h => ?_
  interval_cases i
  simp

theorem stampHead_prefix (b : Byte) (v : BitVec 3) :
    ((b &&& 0xF1#8) ||| (v.setWidth 8 <<< 1)).extractLsb' 4 4 = b.extractLsb' 4 4 := by
  refine BitVec.eq_of_getLsbD_eq fun i h => ?_
  interval_cases i <;> simp

theorem labelByte_kept (b : Byte) (v : BitVec 5) : ((b &&& 0xE0#8) ||| v.setWidth 8).extractLsb' 5 3 = b.extractLsb' 5 3 := by
  refine BitVec.eq_of_getLsbD_eq fun i h => ?_
  interval_cases i <;> simp

theorem labelByte_value (b : Byte) (lb : Label) :
    (((b &&& 0xE0#8) ||| (lb.extractLsb' 8 5).setWidth 8) ++ lb.extractLsb' 0 8 : BitVec (8 + 8)).setWidth 13 = lb := by
  refine BitVec.eq_of_getLsbD_eq fun i h => ?_
  simp only [BitVec.getLsbD_setWidth, BitVec.getLsbD_append, BitVec.getLsbD_extractLsb']
  interval_cases i <;> simp

theorem countByte_kept (b : Byte) (c : BitVec 4) : ((b &&& 0xF0#8) ||| c.setWidth 8).extractLsb' 4 4 = b.extractLsb' 4 4 := by
  refine BitVec.eq_of_getLsbD_eq fun i h => ?_
  interval_cases i <;> simp

theorem countByte_value (b : Byte) (c : BitVec 4) : ((b &&& 0xF0#8) ||| c.setWidth 8).setWidth 4 = c := by
  refine BitVec.eq_of_getLsbD_eq fun i h => ?_
  interval_cases i <;> simp

/-- The value bits of a stamp, piece by piece (12.1). -/
theorem stamp_pieces (t : Stamp) : (t.extractLsb' 30 3 ++ t.extractLsb' 22 8 ++ t.extractLsb' 15 7 ++ t.extractLsb' 7 8 ++
    t.extractLsb' 0 7 : BitVec (3 + 8 + 7 + 8 + 7)) = t := by
  refine BitVec.eq_of_getLsbD_eq fun i h => ?_
  simp only [BitVec.getLsbD_append, BitVec.getLsbD_extractLsb']
  interval_cases i <;> simp

theorem clockRef_pieces (base : Stamp) : (base.extractLsb' 25 8 ++ base.extractLsb' 17 8 ++ base.extractLsb' 9 8 ++
    base.extractLsb' 1 8 ++ base.extractLsb' 0 1 : BitVec (8 + 8 + 8 + 8 + 1)) = base := by
  refine BitVec.eq_of_getLsbD_eq fun i h => ?_
  simp only [BitVec.getLsbD_append, BitVec.getLsbD_extractLsb']
  interval_cases i <;> simp

theorem clockExt_pieces (ext : BitVec 9) : (ext.extractLsb' 8 1 ++ ext.extractLsb' 0 8 : BitVec (1 + 8)) = ext := by
  refine BitVec.eq_of_getLsbD_eq fun i h => ?_
  simp only [BitVec.getLsbD_append, BitVec.getLsbD_extractLsb']
  interval_cases i <;> simp

theorem clockByte_pieces (x : BitVec 1) (y : BitVec 1) : (x ++ 0x3F#6 ++ y : BitVec (1 + 6 + 1)).extractLsb' 7 1 = x ∧
    (x ++ 0x3F#6 ++ y : BitVec (1 + 6 + 1)).extractLsb' 0 1 = y ∧
    (x ++ 0x3F#6 ++ y : BitVec (1 + 6 + 1)).extractLsb' 1 6 = 0x3F#6 := by
  revert x y
  decide

/-! ## Rewrites (R185) -/

theorem setLabel_spec (p : Packet) (lb : Label) : packetLabel (setLabel p lb) = lb ∧
    (getByte (setLabel p lb) 1).extractLsb' 5 3 = (getByte p 1).extractLsb' 5 3 ∧
    ∀ j, j ≠ 1 → j ≠ 2 → getByte (setLabel p lb) j = getByte p j := by
  have first : getByte (setLabel p lb) 1 = (getByte p 1 &&& 0xE0#8) ||| (lb.extractLsb' 8 5).setWidth 8 := by
    rw [setLabel, getByte_setByte_ne (by omega), getByte_setByte_self (by omega)]
  have second : getByte (setLabel p lb) 2 = lb.extractLsb' 0 8 := by rw [setLabel, getByte_setByte_self (by omega)]
  refine ⟨?_, ?_, fun j h1 h2 => ?_⟩
  · rw [packetLabel, first, second, labelByte_value]
  · rw [first, labelByte_kept]
  · rw [setLabel, getByte_setByte_ne h2, getByte_setByte_ne h1]

theorem setCount_spec (p : Packet) (c : BitVec 4) : packetCount (setCount p c) = c ∧
    (getByte (setCount p c) 3).extractLsb' 4 4 = (getByte p 3).extractLsb' 4 4 ∧
    ∀ j, j ≠ 3 → getByte (setCount p c) j = getByte p j := by
  have byte : getByte (setCount p c) 3 = (getByte p 3 &&& 0xF0#8) ||| c.setWidth 8 := by
    rw [setCount, getByte_setByte_self (by omega)]
  refine ⟨?_, ?_, fun j h => ?_⟩
  · rw [packetCount, byte, countByte_value]
  · rw [byte, countByte_kept]
  · rw [setCount, getByte_setByte_ne h]

theorem setClockRef_spec (p : Packet) (base : Stamp) (ext : BitVec 9) :
    clockRefBase (setClockRef p base ext) = base ∧ clockRefExt (setClockRef p base ext) = ext ∧
      (getByte (setClockRef p base ext) 10).extractLsb' 1 6 = 0x3F#6 ∧
      ∀ j, j < 6 ∨ 11 < j → getByte (setClockRef p base ext) j = getByte p j := by
  have b6 : getByte (setClockRef p base ext) 6 = base.extractLsb' 25 8 := by
    simp [setClockRef, getByte_setByte_self, getByte_setByte_ne]
  have b7 : getByte (setClockRef p base ext) 7 = base.extractLsb' 17 8 := by
    simp [setClockRef, getByte_setByte_self, getByte_setByte_ne]
  have b8 : getByte (setClockRef p base ext) 8 = base.extractLsb' 9 8 := by
    simp [setClockRef, getByte_setByte_self, getByte_setByte_ne]
  have b9 : getByte (setClockRef p base ext) 9 = base.extractLsb' 1 8 := by
    simp [setClockRef, getByte_setByte_self, getByte_setByte_ne]
  have b10 : getByte (setClockRef p base ext) 10 =
      (base.extractLsb' 0 1 ++ 0x3F#6 ++ ext.extractLsb' 8 1 : BitVec (1 + 6 + 1)) := by
    simp [setClockRef, getByte_setByte_self, getByte_setByte_ne]
  have b11 : getByte (setClockRef p base ext) 11 = ext.extractLsb' 0 8 := by
    simp [setClockRef, getByte_setByte_self]
  obtain ⟨high, low, ones⟩ := clockByte_pieces (base.extractLsb' 0 1) (ext.extractLsb' 8 1)
  refine ⟨?_, ?_, ?_, fun j outside => ?_⟩
  · rw [clockRefBase, b6, b7, b8, b9, b10, high, clockRef_pieces]
  · rw [clockRefExt, b10, b11, low, clockExt_pieces]
  · rw [b10, ones]
  · simp only [setClockRef]
    rw [getByte_setByte_ne (by omega), getByte_setByte_ne (by omega), getByte_setByte_ne (by omega),
      getByte_setByte_ne (by omega), getByte_setByte_ne (by omega), getByte_setByte_ne (by omega)]

/-- The five bytes a stamp rewrite leaves (12.1). -/
theorem setStamp_bytes (p : Packet) {k : Nat} (within : k + 5 ≤ 188) (t : Stamp) :
    getByte (setStamp p k t) k = ((getByte p k &&& 0xF1#8) ||| ((t.extractLsb' 30 3).setWidth 8 <<< 1)) ∧
    getByte (setStamp p k t) (k + 1) = t.extractLsb' 22 8 ∧
    getByte (setStamp p k t) (k + 2) = ((getByte p (k + 2) &&& 0x01#8) ||| ((t.extractLsb' 15 7).setWidth 8 <<< 1)) ∧
    getByte (setStamp p k t) (k + 3) = t.extractLsb' 7 8 ∧
    getByte (setStamp p k t) (k + 4) = ((getByte p (k + 4) &&& 0x01#8) ||| ((t.extractLsb' 0 7).setWidth 8 <<< 1)) := by
  simp only [setStamp]
  refine ⟨?_, ?_, ?_, ?_, ?_⟩
  · rw [getByte_setByte_ne (by omega), getByte_setByte_ne (by omega), getByte_setByte_ne (by omega),
      getByte_setByte_ne (by omega), getByte_setByte_self (by omega)]
  · rw [getByte_setByte_ne (by omega), getByte_setByte_ne (by omega), getByte_setByte_ne (by omega),
      getByte_setByte_self (by omega)]
  · rw [getByte_setByte_ne (by omega), getByte_setByte_ne (by omega), getByte_setByte_self (by omega)]
  · rw [getByte_setByte_ne (by omega), getByte_setByte_self (by omega)]
  · rw [getByte_setByte_self (by omega)]

theorem setStamp_outside (p : Packet) {j k : Nat} (outside : j < k ∨ k + 5 ≤ j) (t : Stamp) :
    getByte (setStamp p k t) j = getByte p j := by
  simp only [setStamp]
  rw [getByte_setByte_ne (by omega), getByte_setByte_ne (by omega), getByte_setByte_ne (by omega),
    getByte_setByte_ne (by omega), getByte_setByte_ne (by omega)]

theorem setStamp_spec (p : Packet) {k : Nat} (within : k + 5 ≤ 188) (t : Stamp) : getStamp (setStamp p k t) k = t ∧
    (getByte (setStamp p k t) k).extractLsb' 4 4 = (getByte p k).extractLsb' 4 4 ∧
    ∀ j, j = 0 ∨ j = 2 ∨ j = 4 →
      (getByte (setStamp p k t) (k + j)).extractLsb' 0 1 = (getByte p (k + j)).extractLsb' 0 1 := by
  obtain ⟨b0, b1, b2, b3, b4⟩ := setStamp_bytes p within t
  refine ⟨?_, ?_, fun j place => ?_⟩
  · rw [getStamp, b0, b1, b2, b3, b4, stampHead_value, stampByte_value, stampByte_value, stamp_pieces]
  · rw [b0, stampHead_prefix]
  · rcases place with rfl | rfl | rfl
    · rw [Nat.add_zero, b0, stampHead_marker]
    · rw [b2, stampByte_marker]
    · rw [b4, stampByte_marker]

/-- Settles O59. -/
theorem rewritesChangeTheirBitsOnly : Obligations.RewritesChangeTheirBitsOnly := by
  unfold Obligations.RewritesChangeTheirBitsOnly
  refine ⟨fun p k t within => ?_, setLabel_spec, setCount_spec, setClockRef_spec⟩
  obtain ⟨value, kept, markers⟩ := setStamp_spec p within t
  exact ⟨value, kept, markers, fun j outside => setStamp_outside p outside t⟩

/-! ## The clock model (R28, R44) -/

/-- An estimate from a refreshed anchor is the estimate from the old one, where the arrival differences add up. -/
theorem estimateFrom_refreshed (an : Anchor) {a b : Arrival}
    (straight : arrivalDiff a an.stamp + arrivalDiff b a = arrivalDiff b an.stamp) :
    estimateFrom { clock := estimateFrom an a, stamp := a } b = estimateFrom an b := by
  have modulus : (0 : Int) < clockModulus := by decide
  have step : ((estimateFrom an a : Nat) : Int) = ((an.clock : Int) + arrivalDiff a an.stamp) % clockModulus :=
    Int.toNat_of_nonneg (Int.emod_nonneg _ modulus.ne')
  unfold estimateFrom at step ⊢
  dsimp only
  rw [step, Int.emod_add_emod, Int.add_assoc, straight]

theorem estimateFrom_lt (an : Anchor) (a : Arrival) : estimateFrom an a < clockModulus := by
  have modulus : (0 : Int) < clockModulus := by decide
  have below := Int.emod_lt_of_pos ((an.clock : Int) + arrivalDiff a an.stamp) modulus
  have least := Int.emod_nonneg ((an.clock : Int) + arrivalDiff a an.stamp) modulus.ne'
  unfold estimateFrom
  omega

/-- Settles O57. -/
theorem refreshKeepsTheRelation : Obligations.RefreshKeepsTheRelation := by
  unfold Obligations.RefreshKeepsTheRelation
  intro an cap a b _ straight
  exact ⟨⟨_, rfl, rfl, estimateFrom_lt an a, estimateFrom_refreshed an straight⟩,
    ⟨_, rfl, rfl, estimateFrom_lt an a, estimateFrom_refreshed an straight⟩⟩

/-! ## The counts of a map entry (R147 to R150) -/

/-- The counts that go out for network packets of the given counts, one after the other, after those of `out`. -/
def networkRun (e : BitVec 4) (inputs : List (BitVec 4)) (out : List (BitVec 4) × Continuity) : List (BitVec 4) × Continuity :=
  inputs.foldl
    (fun (acc : List (BitVec 4) × Continuity) x =>
      (acc.1 ++ [(Continuity.network e true x acc.2).1], (Continuity.network e true x acc.2).2)) out

theorem rising_cons (m : BitVec 4) (n : Nat) : (List.range (n + 1)).map (fun i => m + BitVec.ofNat 4 i) =
    [m] ++ (List.range n).map fun i => m + 1 + BitVec.ofNat 4 i := by
  rw [List.range_succ_eq_map, List.map_cons, List.map_map, List.singleton_append]
  refine congrArg₂ _ (BitVec.add_zero m) (List.map_congr_left fun i _ => ?_)
  change m + BitVec.ofNat 4 (i + 1) = _
  rw [BitVec.ofNat_add, BitVec.add_comm (BitVec.ofNat 4 i), ← BitVec.add_assoc]
  rfl

/-- Counts that come in one higher each go out one higher each. -/
theorem networkRun_rising (e : BitVec 4) (inputs : List (BitVec 4)) (out : List (BitVec 4)) (c : Continuity)
    (m first : BitVec 4) (last : c.last = some m) (settled : c.pending = false) (next : first + c.delta = m + 1)
    (rising : ∀ i (h : i < inputs.length), inputs[i] = first + BitVec.ofNat 4 i) :
    (networkRun e inputs (out, c)).1 = out ++ (List.range inputs.length).map fun i => m + 1 + BitVec.ofNat 4 i := by
  induction inputs generalizing out c m first with
  | nil => simp [networkRun]
  | cons x xs ih =>
    have head : x = first := (rising 0 (Nat.succ_pos _)).trans (BitVec.add_zero first)
    have step : Continuity.network e true x c = (m + 1, { c with last := some (m + 1) }) := by
      simp [Continuity.network, settled, last, head, next]
    have tail : ∀ i (h : i < xs.length), xs[i] = first + 1 + BitVec.ofNat 4 i := fun i h => by
      have := rising (i + 1) (by simpa using h)
      rw [List.getElem_cons_succ] at this
      rw [this, BitVec.ofNat_add, BitVec.add_comm (BitVec.ofNat 4 i), ← BitVec.add_assoc]
      rfl
    have run := ih (out ++ [m + 1]) { c with last := some (m + 1) } (m + 1) (first + 1) rfl settled
      (by rw [BitVec.add_assoc, BitVec.add_comm 1, ← BitVec.add_assoc, next]) tail
    rw [networkRun, List.foldl_cons]
    dsimp only
    rw [step]
    refine run.trans ?_
    rw [List.append_assoc, ← rising_cons]
    rfl

/-- Settles O60. -/
theorem continuityRunsUnbroken : Obligations.ContinuityRunsUnbroken := by
  unfold Obligations.ContinuityRunsUnbroken
  intro c n e last
  have counted : c.lastOr15 = n := by rw [Continuity.lastOr15, last]; rfl
  refine ⟨?_, ?_, by simp [Continuity.substituted, Continuity.lastOr15], fun inputs first rising pending => ?_⟩
  · rw [Continuity.substituted, counted]; rfl
  · rw [Continuity.substituted, counted]; rfl
  · intro run i h
    have counts : run.1 = (List.range inputs.length).map fun i => n + 1 + BitVec.ofNat 4 i := by
      change (networkRun e inputs ([], c)).1 = _
      cases inputs with
      | nil => rfl
      | cons x xs =>
        have head : x = first := (rising 0 (Nat.succ_pos _)).trans (BitVec.add_zero first)
        have step : Continuity.network e true x c =
            (n + 1, { last := some (n + 1), delta := n + 1 - x, pending := false }) := by
          simp [Continuity.network, pending, last]
        have tail : ∀ i (h : i < xs.length), xs[i] = x + 1 + BitVec.ofNat 4 i := fun i h => by
          have := rising (i + 1) (by simpa using h)
          rw [List.getElem_cons_succ] at this
          rw [this, head, BitVec.ofNat_add, BitVec.add_comm (BitVec.ofNat 4 i), ← BitVec.add_assoc]
          rfl
        have follows : x + 1 + (n + 1 - x) = n + 1 + 1 := by bv_omega
        have run := networkRun_rising e xs [n + 1]
          { last := some (n + 1), delta := n + 1 - x, pending := false } (n + 1) (x + 1) rfl rfl follows tail
        rw [networkRun, List.foldl_cons]
        dsimp only
        rw [step]
        refine run.trans ?_
        exact (rising_cons (n + 1) xs.length).symm
    rw [List.getElem_of_eq counts h]
    simp

/-! ## The section check (R35) -/

/-- The check takes one bit. -/
def crcBit (c : BitVec 32) (b : Bool) : BitVec 32 := if c.getLsbD 31 != b then (c <<< 1) ^^^ 0x04C11DB7#32 else c <<< 1

/-- The bits of a byte, most significant first. -/
def byteBits (b : Byte) : List Bool := (List.range 8).map fun i => b.getLsbD (7 - i)

/-- The word whose leading bits are the listed ones. -/
def leading : List Bool → BitVec 32
  | [] => 0
  | b :: bs => (if b then BitVec.twoPow 32 31 else 0) ^^^ (leading bs >>> 1)

theorem crcByte_eq (c : BitVec 32) (b : Byte) : crcByte c b = (byteBits b).foldl crcBit c := by
  rw [byteBits, List.foldl_map]
  rfl

theorem getLsbD_front (b : Bool) (i : Nat) :
    (if b then BitVec.twoPow 32 31 else 0 : BitVec 32).getLsbD i = (b && decide (i = 31)) := by
  cases b
  · simp
  · simp [BitVec.getLsbD_twoPow, eq_comm]

/-- The generator has its lowest bit set, so a check bit can be undone: it left a word with that bit clear exactly where the
word was its half with the bit taken in front. -/
theorem crcBit_eq_iff {c z : BitVec 32} {b : Bool} (even : z.getLsbD 0 = false) :
    crcBit c b = z ↔ c = (if b then BitVec.twoPow 32 31 else 0) ^^^ (z >>> 1) := by
  have half (i : Nat) : ((if b then BitVec.twoPow 32 31 else 0) ^^^ (z >>> 1)).getLsbD i =
      ((b && decide (i = 31)) ^^ z.getLsbD (1 + i)) := by
    rw [BitVec.getLsbD_xor, getLsbD_front, BitVec.getLsbD_ushiftRight]
  unfold crcBit
  split
  · next differs =>
    refine iff_of_false (fun same => ?_) fun same => ?_
    · have low := congrArg (fun w => BitVec.getLsbD w 0) same
      rw [even] at low
      simp at low
    · have high := half 31
      rw [← same, BitVec.getLsbD_of_ge z (1 + 31) (by omega)] at high
      rw [high] at differs
      simp at differs
  · next agrees =>
    have high : c.getLsbD 31 = b := by simpa using agrees
    constructor
    · rintro rfl
      refine BitVec.eq_of_getLsbD_eq fun i h => ?_
      rw [half, BitVec.getLsbD_shiftLeft]
      by_cases top : i = 31
      · subst top; rw [high]; simp
      · simp [top, show 1 + i < 32 by omega]
    · intro same
      refine BitVec.eq_of_getLsbD_eq fun i h => ?_
      rw [BitVec.getLsbD_shiftLeft]
      cases i with
      | zero => rw [even]; simp
      | succ i =>
        rw [same, Nat.add_sub_cancel, half]
        simp [h, show ¬ i = 31 by omega, Nat.add_comm 1 i]

theorem leading_low {bs : List Bool} {i : Nat} (low : i + bs.length < 32) : (leading bs).getLsbD i = false := by
  induction bs generalizing i with
  | nil => simp [leading]
  | cons b bs ih =>
    rw [List.length_cons] at low
    have rest := ih (i := 1 + i) (by omega)
    rw [leading, BitVec.getLsbD_xor, BitVec.getLsbD_ushiftRight, rest, getLsbD_front]
    simp [show ¬ i = 31 by omega]

/-- The check over listed bits ends at 0 exactly where it began with those bits leading and nothing else. -/
theorem foldl_crcBit_eq_zero {bs : List Bool} (few : bs.length ≤ 32) (c : BitVec 32) :
    bs.foldl crcBit c = 0 ↔ c = leading bs := by
  induction bs generalizing c with
  | nil => exact Iff.rfl
  | cons b bs ih =>
    rw [List.length_cons] at few
    rw [List.foldl_cons, ih (by omega), crcBit_eq_iff (leading_low (by omega))]
    rfl

theorem leading_byteBits (b : Byte) (bs : List Bool) :
    leading (byteBits b ++ bs) = (b.setWidth 32 <<< 24) ^^^ (leading bs >>> 8) := by
  generalize h : leading bs = w
  have unrolled : leading (byteBits b ++ bs) = leading (b.getLsbD 7 :: b.getLsbD 6 :: b.getLsbD 5 :: b.getLsbD 4 ::
    b.getLsbD 3 :: b.getLsbD 2 :: b.getLsbD 1 :: b.getLsbD 0 :: bs) := rfl
  rw [unrolled]
  simp only [leading, h]
  refine BitVec.eq_of_getLsbD_eq fun i hi => ?_
  simp only [BitVec.getLsbD_xor, BitVec.getLsbD_ushiftRight, getLsbD_front, BitVec.getLsbD_shiftLeft, BitVec.getLsbD_setWidth]
  interval_cases i <;> simp

theorem toNat_append_byte {n : Nat} (x : BitVec n) (y : Byte) : (x ++ y).toNat = x.toNat * 256 + y.toNat := by
  rw [BitVec.toNat_append, ← Nat.shiftLeft_add_eq_or_of_lt y.isLt, Nat.shiftLeft_eq]

theorem packetNumber_four (p : Packet) (k : Nat) : BitVec.ofNat 32 (packetNumber p k 4) =
    leading (byteBits (getByte p k) ++ (byteBits (getByte p (k + 1)) ++ (byteBits (getByte p (k + 2)) ++
      (byteBits (getByte p (k + 3)) ++ [])))) := by
  have number : BitVec.ofNat 32 (packetNumber p k 4) =
      (getByte p k ++ getByte p (k + 1) ++ getByte p (k + 2) ++ getByte p (k + 3) : BitVec (8 + 8 + 8 + 8)) := by
    apply BitVec.eq_of_toNat_eq
    have b0 := (getByte p k).isLt
    have b1 := (getByte p (k + 1)).isLt
    have b2 := (getByte p (k + 2)).isLt
    have b3 := (getByte p (k + 3)).isLt
    rw [toNat_append_byte, toNat_append_byte, toNat_append_byte, BitVec.toNat_ofNat]
    have value : packetNumber p k 4 = (((getByte p k).toNat * 256 + (getByte p (k + 1)).toNat) * 256 +
        (getByte p (k + 2)).toNat) * 256 + (getByte p (k + 3)).toNat := by
      simp [packetNumber, List.range_succ]
    rw [value]
    omega
  rw [number]
  simp only [leading_byteBits, leading]
  refine BitVec.eq_of_getLsbD_eq fun i h => ?_
  simp only [BitVec.getLsbD_append, BitVec.getLsbD_xor, BitVec.getLsbD_ushiftRight, BitVec.getLsbD_shiftLeft,
    BitVec.getLsbD_setWidth]
  interval_cases i <;> simp

/-- Settles O58: the check bit by bit, undone from its end at 0. -/
theorem sectionCheckResidueIsZero : Obligations.SectionCheckResidueIsZero := by
  unfold Obligations.SectionCheckResidueIsZero
  intro p at_ n
  have four : crcOver p at_ (n + 4) = (byteBits (getByte p (at_ + n)) ++ (byteBits (getByte p (at_ + n + 1)) ++
      (byteBits (getByte p (at_ + n + 2)) ++ (byteBits (getByte p (at_ + n + 3)) ++ [])))).foldl crcBit (crcOver p at_ n) := by
    simp only [crcOver, List.range_succ, List.foldl_append, List.foldl_cons, List.foldl_nil, crcByte_eq, Nat.add_assoc]
  rw [four, packetNumber_four]
  exact (foldl_crcBit_eq_zero (le_of_eq rfl) _).symm

end Sys2Proof.Machine
end

section
/-! PROOF. Completed fetches, record writes and timers: O51, O52 and O54. -/

namespace Sys2Proof.Machine

variable {s t : State} {r : Report}

/-! ## Timers (R29, R180) -/

theorem elapsedOver_iff {now start : Millis} {limit : Nat} : elapsedOver now start limit = true ↔ limit < (now - start).toNat := by
  simp [elapsedOver]

theorem execStaleTimer_of_due {l : LaneId} {q : LaneRecord} {o : OnLane} {an : Anchor} {cap : Millis}
    (on : s.onLane l = some (q, o)) (valid : o.clock = .valid an cap) (due : q.staleLimit < (s.stationMs - cap).toNat) :
    execStaleTimerExpiry l s = .next ((s.modOn l fun o => { o with clock := .stale an cap }).note l .stale .stale) := by
  unfold execStaleTimerExpiry
  rw [on]
  dsimp only
  rw [valid]
  exact if_pos (elapsedOver_iff.2 due)

theorem execStaleTimer_of_undue {l : LaneId}
    (undue : ∀ q o an cap, (s.lane l).record = some q → (s.lane l).on = some o → o.clock = .valid an cap →
      (s.stationMs - cap).toNat ≤ q.staleLimit) : execStaleTimerExpiry l s = .next s := by
  unfold execStaleTimerExpiry
  split
  · rfl
  · next q o on =>
    obtain ⟨record, context⟩ := onLane_spec.1 on
    split
    · next an cap valid =>
      refine if_neg fun past => ?_
      have := undue q o an cap record context valid
      rw [elapsedOver_iff] at past
      omega
    · rfl

/-- A lane changed twice is a lane changed. -/
theorem State.modOn_note (s : State) (l : LaneId) (f : OnLane → OnLane) (c : Counter) (g : Flag) {o : OnLane}
    (on : (s.lane l).on = some o) : (s.modOn l f).note l c g = s.setLane l { (s.lane l).note c g with on := some (f o) } := by
  have lane : (s.modOn l f).lane l = { s.lane l with on := some (f o) } := by
    rw [State.lane_modOn_self, on]; rfl
  rw [State.note, State.modLane, lane]
  exact State.setLane_setLane s l _ _

theorem Report.coalesceExpiry_of_due {g : RingSetup} {start now : Millis} (ring : r.setup = some g)
    (running : r.timer = .running start) (due : g.coalesce < (now - start).toNat) :
    r.coalesceExpiry now = ({ r with timer := .expired } : Report).judge := by
  unfold Report.coalesceExpiry
  rw [ring, running]
  exact if_pos (elapsedOver_iff.2 due)

theorem Report.coalesceExpiry_of_undue {now : Millis}
    (undue : ∀ g start, r.setup = some g → r.timer = .running start → (now - start).toNat ≤ g.coalesce) :
    r.coalesceExpiry now = r := by
  unfold Report.coalesceExpiry
  split
  · next g start ring running =>
    refine if_neg fun past => ?_
    have := undue g start ring running
    rw [elapsedOver_iff] at past
    omega
  · rfl

/-- Settles O54. -/
theorem staleAndCoalesceTimersExpire : Obligations.StaleAndCoalesceTimersExpire := by
  unfold Obligations.StaleAndCoalesceTimersExpire
  refine ⟨⟨fun s l q o an cap record on valid due => ?_, fun s l undue => execStaleTimer_of_undue undue⟩,
    fun s g start ring running due unread => ?_, fun s undue => ?_⟩
  · refine (execStaleTimer_of_due (onLane_spec.2 ⟨record, on⟩) valid due).trans ?_
    rw [State.modOn_note s l _ _ _ on]
    rfl
  · have caused : ({ s.report with timer := .expired } : Report).anyCause = true := by
      have coalesce : ({ s.report with timer := .expired } : Report).coalesceCause = true := by
        change (s.report.setup.isSome && decide (0 < s.report.unread) && true) = true
        rw [ring, decide_eq_true unread]
        rfl
      rw [Report.anyCause, coalesce]
      simp
    change Host.Outcome.next { s with report := s.report.coalesceExpiry s.stationMs } = _
    rw [Report.coalesceExpiry_of_due ring running due, Report.judge, caused]
  · change Host.Outcome.next { s with report := s.report.coalesceExpiry s.stationMs } = _
    rw [Report.coalesceExpiry_of_undue undue]

/-! ## Completed fetches (R69, R73) -/

theorem completeFetch_of_discarded {f : FetchTag} {d : SlotData} {errs : BitVec 3}
    (gone : (s.lane f.lane).on = none ∨ f.dead = true ∨ f.gen ≠ (s.lane f.lane).gen f.interject) :
    completeFetch f d errs s = s := by
  unfold completeFetch
  split
  · rfl
  · next o on =>
    refine if_pos ?_
    rcases gone with off | old
    · cases off.symm.trans on
    · exact old

theorem completeFetch_of_living {f : FetchTag} {d : SlotData} {errs : BitVec 3} {o : OnLane} (on : (s.lane f.lane).on = some o)
    (living : f.dead = false) (gen : f.gen = (s.lane f.lane).gen f.interject) : completeFetch f d errs s =
      if f.interject then
        (if errs ≠ 0 then interjectFault f.lane o f.origin s
         else s.modOn f.lane fun o =>
          { o with fetch := { o.fetch with interject := o.fetch.interject ++ [entryOf f d errs] } })
      else s.modOn f.lane fun o =>
        { o with fetch := { o.fetch with queue := o.fetch.queue ++ [entryOf f d errs] } } := by
  unfold completeFetch
  rw [on]
  dsimp only
  rw [if_neg]
  rintro (dead | old)
  · exact Bool.false_ne_true (living.symm.trans dead)
  · exact old gen

theorem State.modOn_of_on (s : State) (l : LaneId) (f : OnLane → OnLane) {o : OnLane} (on : (s.lane l).on = some o) :
    s.modOn l f = s.setLane l { s.lane l with on := some (f o) } := by
  rw [State.modOn, State.modLane, on]
  rfl

theorem exec_fetchComplete {d : SlotData} {errs : BitVec 3} {f : FetchTag} {last : Bool} {rest : List MemRead}
    (due : nextDue s.memReads = some (.fetch f last, rest)) :
    exec (.fetchComplete d errs) s = .next (completeFetch f d errs { s with memReads := rest }) := by
  change execFetchComplete d errs s = _
  unfold execFetchComplete
  rw [due]

theorem stepLoop_of_body {c : ClipId} {b : ClipBody} (body : (s.clip c).body = some b) (n : Nat) :
    stepLoop s c n = if n + 1 < b.length then n + 1 else 0 := by
  unfold stepLoop clipLength
  rw [body]
  rfl

/-- The part after a faulted interject fetch of a clip, the entry of the effective alert apart (R73). -/
def clipFaulted (l : LaneId) (c : ClipId) (s : State) : State :=
  (s.modClip c fun x => { x with readFault := true }).note l .fetchFault .fetchFault

theorem clipFaulted_lane (l : LaneId) (c : ClipId) (s : State) :
    (clipFaulted l c s).lane l = (s.lane l).note .fetchFault .fetchFault := State.lane_modLane_self _ l _

theorem clipFaulted_clip (l : LaneId) (c : ClipId) (s : State) (m : ClipId) :
    (clipFaulted l c s).clip m = if m = c then { s.clip m with readFault := true } else s.clip m := by
  refine (State.clip_modClip s c m fun x => { x with readFault := true }).trans ?_
  split
  · next same => rw [same]
  · rfl

theorem stepLoop_congr {c : ClipId} (body : (t.clip c).body = (s.clip c).body) (n : Nat) : stepLoop t c n = stepLoop s c n := by
  unfold stepLoop clipLength
  rw [body]

/-- A faulted interject fetch of a clip, with and without an effective alert (R73, R134). -/
theorem interjectFault_clip (l : LaneId) (o : OnLane) (c : ClipId) (n : Nat) (s : State) : interjectFault l o (.clip c n) s =
    match effectiveEntry s o.stack with
    | none => clipFaulted l c s
    | some e => ((clipFaulted l c s).modAlert e.id fun a => { a with fetchFault := true }).modOn l fun o =>
        { o with stack := modEntry o.stack e.id fun z => { z with cursor := stepLoop s c e.cursor } } := by
  have still : ((clipFaulted l c s).clip c).body = (s.clip c).body := by rw [clipFaulted_clip, if_pos rfl]
  have entry : effectiveEntry (clipFaulted l c s) o.stack = effectiveEntry s o.stack := rfl
  change (match effectiveEntry (clipFaulted l c s) o.stack with
    | none => clipFaulted l c s
    | some e => ((clipFaulted l c s).modAlert e.id fun a => { a with fetchFault := true }).modOn l fun o =>
        { o with stack := modEntry o.stack e.id fun z => { z with cursor := stepLoop (clipFaulted l c s) c e.cursor } }) = _
  simp only [entry, stepLoop_congr still]

/-- Settles O51. -/
theorem fetchCompleteJoinsTheQueue : Obligations.FetchCompleteJoinsTheQueue := by
  unfold Obligations.FetchCompleteJoinsTheQueue
  intro d errs s f last rest due entry
  have done := exec_fetchComplete (d := d) (errs := errs) due
  have presentGen : (s.lane f.lane).gen f.interject =
      if f.interject then (s.lane f.lane).interjectGen else (s.lane f.lane).queueGen := rfl
  refine ⟨fun gone => ?_, fun o on living => ⟨fun queue gen => ?_, fun interject gen fine => ?_,
    fun interject gen fault c n origin => ?_⟩⟩
  · rw [done]
    exact congrArg Host.Outcome.next (completeFetch_of_discarded (s := { s with memReads := rest }) gone)
  · have present : f.gen = (s.lane f.lane).gen f.interject := by rw [presentGen, queue]; exact gen
    rw [done, completeFetch_of_living (s := { s with memReads := rest }) on living present, queue]
    exact congrArg Host.Outcome.next (State.modOn_of_on { s with memReads := rest } f.lane _ on)
  · have present : f.gen = (s.lane f.lane).gen f.interject := by rw [presentGen, interject]; exact gen
    rw [done, completeFetch_of_living (s := { s with memReads := rest }) on living present, interject, if_pos rfl,
      if_neg (not_not.2 fine)]
    exact congrArg Host.Outcome.next (State.modOn_of_on { s with memReads := rest } f.lane _ on)
  · have present : f.gen = (s.lane f.lane).gen f.interject := by rw [presentGen, interject]; exact gen
    rw [done, completeFetch_of_living (s := { s with memReads := rest }) on living present, interject, if_pos rfl,
      if_pos fault, origin, interjectFault_clip]
    have lane := clipFaulted_lane f.lane c { s with memReads := rest }
    have flagged (ln : Lane) : (ln.note .fetchFault .fetchFault).flag .fetchFault = true := by
      simp [Lane.note, Lane.setFlag, Lane.flag]
    have effective : effectiveEntry { s with memReads := rest } o.stack = effectiveEntry s o.stack := rfl
    rw [effective]
    cases found : effectiveEntry s o.stack with
    | none =>
      dsimp only
      refine ⟨_, rfl, rfl, ?_, ?_, ?_, clipFaulted_clip f.lane c _, fun _ => ⟨rfl, ?_⟩, fun e b some_ => ?_⟩
      · rw [lane]; rfl
      · rw [lane]; exact flagged _
      · rw [lane]; exact congrArg _ on
      · rw [lane]; exact on
      · cases some_
    | some e =>
      dsimp only
      have faulted (g : OnLane → OnLane) :
          (((clipFaulted f.lane c { s with memReads := rest }).modAlert e.id fun a => { a with fetchFault := true }).modOn
            f.lane g).lane f.lane = { (s.lane f.lane).note .fetchFault .fetchFault with on := some (g o) } := by
        refine (State.lane_modOn_self _ f.lane g).trans ?_
        have kept : ((clipFaulted f.lane c { s with memReads := rest }).modAlert e.id
          fun a => { a with fetchFault := true }).lane f.lane = (s.lane f.lane).note .fetchFault .fetchFault := lane
        rw [kept]
        exact congrArg (fun x => { (s.lane f.lane).note .fetchFault .fetchFault with on := x }) (congrArg (Option.map g) on)
      refine ⟨_, rfl, rfl, ?_, ?_, ?_, clipFaulted_clip f.lane c _, fun none_ => ?_, fun e' b some_ body => ⟨?_, fun z other => ?_, ?_⟩⟩
      · rw [faulted]; rfl
      · rw [faulted]; exact flagged _
      · rw [faulted]; rfl
      · cases none_
      · cases some_; exact (State.alert_of_set (s := s) rfl _).trans (if_pos rfl)
      · cases some_; exact (State.alert_of_set (s := s) rfl _).trans (if_neg other)
      · cases some_
        rw [faulted, stepLoop_of_body (s := { s with memReads := rest }) body]
        rfl

end Sys2Proof.Machine
end

section
/-! PROOF. Packed fields (R187) and the record writes: O52. -/

namespace Sys2Proof.Machine

variable {s t : State} {r : Report}

/-! ## Packed fields -/

/-- Two fields `(offset, size, value)` share no byte. -/
def Apart (f g : Nat × Nat × Nat) : Prop := f.1 + f.2.1 ≤ g.1 ∨ g.1 + g.2.1 ≤ f.1

theorem apart_symm : Std.Symm Apart := ⟨fun _ _ h => h.symm⟩

theorem testBit_field {n : Nat} (x : BitVec n) (off size j : Nat) :
    (field x off size).testBit j = (decide (j < 8 * size) && x.getLsbD (8 * off + j)) := by
  rw [field, BitVec.testBit_toNat, BitVec.getLsbD_extractLsb']

theorem getLsbD_packFields (n : Nat) (fs : List (Nat × Nat × Nat)) (i : Nat) : (packFields n fs).getLsbD i =
    (decide (i < n) && fs.any fun f => decide (8 * f.1 ≤ i) && (f.2.2 % 2 ^ (8 * f.2.1)).testBit (i - 8 * f.1)) := by
  have folded (acc : BitVec n) : (fs.foldl (fun acc f => acc ||| (BitVec.ofNat n (f.2.2 % 2 ^ (8 * f.2.1)) <<< (8 * f.1)))
      acc).getLsbD i = (acc.getLsbD i || (decide (i < n) &&
        fs.any fun f => decide (8 * f.1 ≤ i) && (f.2.2 % 2 ^ (8 * f.2.1)).testBit (i - 8 * f.1))) := by
    induction fs generalizing acc with
    | nil => simp
    | cons f fs ih =>
      rw [List.foldl_cons, ih, BitVec.getLsbD_or, BitVec.getLsbD_shiftLeft, BitVec.getLsbD_ofNat, List.any_cons]
      by_cases inside : i < n
      · by_cases low : 8 * f.1 ≤ i
        · simp [inside, low, show ¬ i < 8 * f.1 by omega, show i - 8 * f.1 < n by omega, Bool.or_assoc]
        · simp [inside, low, show i < 8 * f.1 by omega]
      · simp [inside]
  rw [packFields, folded]
  simp

/-- Each of several fields that share no byte reads back, as far as its size holds it. -/
theorem field_packFields {n : Nat} {fs : List (Nat × Nat × Nat)} {f : Nat × Nat × Nat} (mem : f ∈ fs)
    (apart : fs.Pairwise Apart) (within : 8 * (f.1 + f.2.1) ≤ n) :
    field (packFields n fs) f.1 f.2.1 = f.2.2 % 2 ^ (8 * f.2.1) := by
  refine Nat.eq_of_testBit_eq fun j => ?_
  rw [testBit_field, getLsbD_packFields]
  by_cases inside : j < 8 * f.2.1
  · have small : 8 * f.1 + j < n := by omega
    simp only [inside, small, decide_true, Bool.true_and]
    rw [Bool.eq_iff_iff, List.any_eq_true]
    constructor
    · rintro ⟨g, other, bit⟩
      rw [Bool.and_eq_true, decide_eq_true_eq] at bit
      obtain ⟨low, bit⟩ := bit
      by_cases same : f = g
      · subst same
        rwa [Nat.add_sub_cancel_left] at bit
      · rw [Nat.testBit_mod_two_pow, Bool.and_eq_true, decide_eq_true_eq] at bit
        have := apart_symm
        rcases apart.forall mem other same with before | after
        · omega
        · omega
    · intro bit
      exact ⟨f, mem, by rw [Bool.and_eq_true, decide_eq_true_eq, Nat.add_sub_cancel_left]; exact ⟨by omega, bit⟩⟩
  · rw [Nat.testBit_mod_two_pow]
    simp [inside]

theorem getLsbD_placed {n : Nat} (y : BitVec n) (k i : Nat) : (y.setWidth 512 <<< (8 * k) : Line).getLsbD i =
    (decide (i < 512) && (decide (8 * k ≤ i) && y.getLsbD (i - 8 * k))) := by
  rw [BitVec.getLsbD_shiftLeft, BitVec.getLsbD_setWidth]
  by_cases inside : i < 512
  · by_cases low : 8 * k ≤ i
    · simp [inside, low, show ¬ i < 8 * k by omega, show i - 8 * k < 512 by omega]
    · simp [inside, low, show i < 8 * k by omega]
  · simp [inside]

/-- A value laid into a line at byte `k` shows its fields there. -/
theorem field_placed {n : Nat} (y : BitVec n) {k off size : Nat} (within : k + off + size ≤ 64) :
    field (y.setWidth 512 <<< (8 * k) : Line) (k + off) size = field y off size := by
  refine Nat.eq_of_testBit_eq fun j => ?_
  rw [testBit_field, testBit_field, getLsbD_placed]
  by_cases inside : j < 8 * size
  · have place : 8 * (k + off) + j - 8 * k = 8 * off + j := by omega
    simp [inside, place, show 8 * (k + off) + j < 512 by omega, show 8 * k ≤ 8 * (k + off) + j by omega]
  · simp [inside]

theorem getByte_placed_outside {n : Nat} (y : BitVec (8 * n)) {j k : Nat} (outside : ¬ (k ≤ j ∧ j < k + n)) :
    getByte (y.setWidth 512 <<< (8 * k) : Line) j = 0#8 := by
  refine BitVec.eq_of_getLsbD_eq fun i h => ?_
  rw [getLsbD_getByte, getLsbD_placed, BitVec.getLsbD_zero]
  by_cases low : k ≤ j
  · rw [BitVec.getLsbD_of_ge y _ (by omega)]
    simp
  · simp [show ¬ 8 * k ≤ 8 * j + i by omega]

/-- Packed fields that share no byte show where the packed value is laid. -/
theorem shows_packFields {n : Nat} {fs : List (Nat × Nat × Nat)} {k : Nat} (apart : fs.Pairwise Apart)
    (within : ∀ f ∈ fs, 8 * (f.1 + f.2.1) ≤ n ∧ k + f.1 + f.2.1 ≤ 64) :
    Shows ((packFields n fs).setWidth 512 <<< (8 * k)) k fs := fun f mem => by
  rw [field_placed _ (within f mem).2, field_packFields mem apart (within f mem).1]

/-! ## The record write (R175, Table 12-8) -/

/-- The fields of an as-run record. -/
def recordFields (x : AsRun) (gap : Nat) : List (Nat × Nat × Nat) :=
  [(0, 1, x.kind.code), (1, 1, x.lane), (2, 1, x.flags.toNat), (3, 1, x.order), (4, 2, x.firstClip),
   (6, 4, x.event.toNat), (10, 5, x.timeIn.toNat), (15, 5, x.timeOut.toNat), (20, 4, countField x.served),
   (24, 2, min 65535 x.underrun), (26, 2, gap), (28, 4, x.ms.toNat)]

theorem recordBits_eq (x : AsRun) (gap : Nat) : recordBits x gap = packFields 256 (recordFields x gap) := by
  rw [recordBits, heldAt_eq_min]
  rfl

theorem shows_recordWrite (g : RingSetup) (w gap : Nat) (x : AsRun) :
    Shows (recordWrite g w gap x).data (32 * (w % 2)) (recordFields x gap) := by
  have place : (if w % 2 = 0 then 0 else 256) = 8 * (32 * (w % 2)) := by split <;> omega
  have data : (recordWrite g w gap x).data = (packFields 256 (recordFields x gap)).setWidth 512 <<< (8 * (32 * (w % 2))) := by
    rw [← place, ← recordBits_eq]
    rfl
  rw [data]
  refine shows_packFields ?_ fun f mem => ?_
  · simp [recordFields, Apart]
  · have := Nat.mod_lt w (show 0 < 2 by omega)
    simp only [recordFields, List.mem_cons, List.not_mem_nil, or_false] at mem
    rcases mem with rfl | rfl | rfl | rfl | rfl | rfl | rfl | rfl | rfl | rfl | rfl | rfl <;> dsimp only <;> omega

theorem recordWrite_outside (g : RingSetup) (w gap : Nat) (x : AsRun) {j : Nat}
    (outside : ¬ (32 * (w % 2) ≤ j ∧ j < 32 * (w % 2) + 32)) : getByte (recordWrite g w gap x).data j = 0 := by
  have place : (if w % 2 = 0 then 0 else 256) = 8 * (32 * (w % 2)) := by split <;> omega
  have data : (recordWrite g w gap x).data = (recordBits x gap).setWidth 512 <<< (8 * (32 * (w % 2))) := by
    rw [← place]
    rfl
  rw [data]
  exact getByte_placed_outside (n := 32) (recordBits x gap) outside

theorem Report.issue_of_full {g : RingSetup} {y : AsRun} {q : List AsRun} (ring : r.setup = some g)
    (queue : r.queue = y :: q) (idle : r.flight = none) (full : r.unread = g.size - 1) :
    r.issue = { r with queue := q, gap := min 65535 (r.gap + 1) } := by
  simp only [Report.issue, ring, queue, idle, if_pos full, heldAt_eq_min]

theorem Report.issue_of_undue (undue : r.setup = none ∨ r.queue = [] ∨ r.flight.isSome = true) : r.issue = r := by
  unfold Report.issue
  split
  · next ring queue idle =>
    rcases undue with unset | empty | busy
    · cases unset.symm.trans ring
    · cases empty.symm.trans queue
    · rw [idle] at busy; cases busy
  · rfl

theorem Report.complete_of_abandoned {g : RingSetup} {x : RecordWrite} (owed : r.orphans = 0) (ring : r.setup = some g)
    (inFlight : r.flight = some x) (granted : x.granted = true) (abandoned : x.abandoned = true) (err : Bool) (now : Millis) :
    r.complete err now = some { r with flight := none } := by
  simp [Report.complete, owed, ring, inFlight, granted, abandoned]

theorem Report.complete_of_owed {n : Nat} (owed : r.orphans = n + 1) (err : Bool) (now : Millis) :
    r.complete err now = some { r with orphans := n } := by
  simp [Report.complete, owed]

/-- The issue of the head record, as O52 states it. -/
theorem recordWriteIssue_fills {g : RingSetup} {x : AsRun} {q : List AsRun} (ring : s.report.setup = some g)
    (queue : s.report.queue = x :: q) (idle : s.report.flight = none) (room : s.report.unread ≠ g.size - 1) :
    exec .recordWriteIssue s = .next { s with
      report := { s.report with queue := q, gap := 0, flight := some (recordWrite g s.report.w s.report.gap x) } } := by
  rw [exec_recordWriteIssue, Report.issue_of_room ring queue idle room]

/-- Settles O52. -/
theorem recordWritesFillTheRing : Obligations.RecordWritesFillTheRing := by
  unfold Obligations.RecordWritesFillTheRing
  refine ⟨⟨fun s g x q ring queue idle => ?_, fun s undue => ?_⟩, fun s g x owed ring flight granted kept => ?_,
    fun err s g x owed ring flight granted abandoned => ?_, fun err s n owed => ?_⟩
  · intro half
    have unread : s.report.unread = (s.report.w + g.size - s.report.h) % g.size := Report.unread_of_ring ring
    refine ⟨fun full => ?_, fun room => ⟨(recordWrite g s.report.w s.report.gap x).data, ?_, ?_, fun small => ?_,
      fun j _ outside => recordWrite_outside g _ _ x outside⟩⟩
    · rw [exec_recordWriteIssue, Report.issue_of_full ring queue idle (unread.trans full)]
    · exact recordWriteIssue_fills ring queue idle fun h => room (unread.symm.trans h)
    · have shown := shows_recordWrite g s.report.w s.report.gap x
      intro f mem
      have parts : f ∈ (recordFields x s.report.gap).take 8 ++ (recordFields x s.report.gap).drop 9 := mem
      rcases List.mem_append.1 parts with front | back
      · exact shown f (List.mem_of_mem_take front)
      · exact shown f (List.mem_of_mem_drop back)
    · intro f mem
      rw [List.mem_singleton.1 mem]
      have shown := shows_recordWrite g s.report.w s.report.gap x (20, 4, countField x.served) (by simp [recordFields])
      rw [countField, if_pos small] at shown
      exact shown
  · rw [exec_recordWriteIssue, Report.issue_of_undue undue]
  · exact ⟨_, exec_recordWriteComplete_of_complete (Report.complete_of_granted owed ring flight granted kept false _), rfl, rfl,
      rfl⟩
  · exact exec_recordWriteComplete_of_complete (Report.complete_of_abandoned owed ring flight granted abandoned err _)
  · exact exec_recordWriteComplete_of_complete (Report.complete_of_owed owed err _)

end Sys2Proof.Machine
end

section
/-! PROOF. Lane operations write one lane and the waiting prefetch read: the form the judgement of the fetch source (R63) and
of the effective alert (R125) take there, what they read of the tables, and runs of them over all lanes. -/

namespace Sys2Proof.Machine

variable {s t u : State} {l m : LaneId} {ln : Lane} {r : LaneRecord} {o o' : OnLane}

/-! ## One lane written -/

/-- Lane `l` replaced, and the waiting prefetch read with it: all that a lane operation of the fetcher does. -/
def State.put (s : State) (l : LaneId) (ln : Lane) (w : Option (FetchTag × Nat)) : State :=
  { s with lanes := s.lanes.set l ln, fetchWait := w }

theorem State.lane_put (s : State) (l : LaneId) (ln : Lane) (w : Option (FetchTag × Nat)) (m : LaneId) :
    (s.put l ln w).lane m = if m = l then ln else s.lane m :=
  State.lane_setLane s l m ln

@[simp] theorem State.lane_put_self (s : State) (l : LaneId) (ln : Lane) (w : Option (FetchTag × Nat)) :
    (s.put l ln w).lane l = ln := by
  rw [State.lane_put, if_pos rfl]

theorem State.lane_put_ne (s : State) (ln : Lane) (w : Option (FetchTag × Nat)) (other : m ≠ l) :
    (s.put l ln w).lane m = s.lane m := by
  rw [State.lane_put, if_neg other]

theorem State.put_put (s : State) (l : LaneId) (a b : Lane) (v w : Option (FetchTag × Nat)) :
    (s.put l a v).put l b w = s.put l b w := by
  have twice := congrArg State.lanes (State.setLane_setLane s l a b)
  change ({ s with lanes := ((s.setLane l a).setLane l b).lanes, fetchWait := w } : State) = _
  rw [twice]
  rfl

theorem State.put_modLane (s : State) (l : LaneId) (ln : Lane) (w : Option (FetchTag × Nat)) (f : Lane → Lane) :
    (s.put l ln w).modLane l f = s.put l (f ln) w := by
  have := State.put_put s l ln (f ((s.put l ln w).lane l)) w w
  rw [State.lane_put_self] at this
  rw [← this]
  unfold State.modLane
  rw [State.lane_put_self]
  rfl

theorem State.modLane_put (s : State) (l : LaneId) (f : Lane → Lane) :
    s.modLane l f = s.put l (f (s.lane l)) s.fetchWait := rfl

theorem State.put_modOn (s : State) (l : LaneId) (ln : Lane) (w : Option (FetchTag × Nat)) (f : OnLane → OnLane) :
    (s.put l ln w).modOn l f = s.put l { ln with on := ln.on.map f } w :=
  State.put_modLane s l ln w _

theorem State.modOn_put (on : (s.lane l).on = some o) (f : OnLane → OnLane) :
    s.modOn l f = s.put l { s.lane l with on := some (f o) } s.fetchWait := by
  change s.put l { s.lane l with on := (s.lane l).on.map f } s.fetchWait = _
  rw [on]
  rfl

theorem State.modOn_modOn (s : State) (l : LaneId) (f g : OnLane → OnLane) :
    (s.modOn l f).modOn l g = s.modOn l fun o => g (f o) := by
  unfold State.modOn State.modLane
  rw [State.lane_setLane_self, State.setLane_setLane]
  dsimp only
  rw [Option.map_map]
  rfl

/-! ## What the judgements read of the tables -/

/-- The alerts' and orders' fields, the lane records, and the place and fill of every ON lane's ingest cursor stand. -/
structure Agree (s t : State) : Prop where
  alerts : ∀ a, (t.alert a).body = (s.alert a).body
  orders : ∀ i, (t.order i).body = (s.order i).body
  records : ∀ m, (t.lane m).record = (s.lane m).record
  places : ∀ m, (t.lane m).on.map (fun o => (o.track.ingest, o.track.fill)) =
    (s.lane m).on.map fun o => (o.track.ingest, o.track.fill)

theorem Agree.refl (s : State) : Agree s s := ⟨fun _ => rfl, fun _ => rfl, fun _ => rfl, fun _ => rfl⟩

theorem Agree.trans (a : Agree s t) (b : Agree t u) : Agree s u :=
  ⟨fun x => (b.alerts x).trans (a.alerts x), fun x => (b.orders x).trans (a.orders x),
    fun x => (b.records x).trans (a.records x), fun x => (b.places x).trans (a.places x)⟩

theorem Agree.symm (a : Agree s t) : Agree t s :=
  ⟨fun x => (a.alerts x).symm, fun x => (a.orders x).symm, fun x => (a.records x).symm, fun x => (a.places x).symm⟩

theorem Agree.of_tables (lanes : t.lanes = s.lanes) (orders : t.orders = s.orders) (alerts : t.alerts = s.alerts) :
    Agree s t := by
  have lane : ∀ m, t.lane m = s.lane m := fun m => by unfold State.lane; rw [lanes]
  have order : ∀ i, t.order i = s.order i := fun i => by unfold State.order; rw [orders]
  have alert : ∀ a, t.alert a = s.alert a := fun a => by unfold State.alert; rw [alerts]
  exact ⟨fun a => by rw [alert], fun i => by rw [order], fun m => by rw [lane], fun m => by rw [lane]⟩

/-- A lane that keeps its record and its tracker's place and fill may be written. -/
theorem Agree.put (s : State) (w : Option (FetchTag × Nat)) (record : ln.record = (s.lane l).record)
    (places : ln.on.map (fun o => (o.track.ingest, o.track.fill)) =
      (s.lane l).on.map fun o => (o.track.ingest, o.track.fill)) : Agree s (s.put l ln w) := by
  refine ⟨fun _ => rfl, fun _ => rfl, fun m => ?_, fun m => ?_⟩ <;> rw [State.lane_put] <;> split
  · next same => rw [record, same]
  · rfl
  · next same => rw [places, same]
  · rfl

section
variable (agree : Agree s t)
include agree

theorem Agree.isOverride (a : AlertId) : isOverride t a = isOverride s a := by
  unfold Machine.isOverride; rw [agree.alerts]

theorem Agree.effectiveEntry (st : List StackEntry) : effectiveEntry t st = effectiveEntry s st := by
  unfold Machine.effectiveEntry
  simp only [agree.isOverride]

theorem Agree.overrideEffective (st : List StackEntry) : overrideEffective t st = overrideEffective s st := by
  unfold Machine.overrideEffective
  simp only [agree.effectiveEntry, agree.isOverride]

theorem Agree.wantedSource (r : LaneRecord) (o : OnLane) : wantedSource t r o = wantedSource s r o := by
  have below : wantedSource.wantedBelow t r o = wantedSource.wantedBelow s r o := by
    unfold wantedSource.wantedBelow
    simp only [agree.orders]
  unfold Machine.wantedSource
  simp only [agree.effectiveEntry, agree.isOverride, below]

theorem Agree.placeTap (src : LaneId) (lag : Nat) : placeTap t src lag = placeTap s src lag := by
  have records := agree.records src
  have places := agree.places src
  unfold Machine.placeTap State.onLane
  rw [records]
  cases before : (s.lane src).on with
  | none =>
    rw [before, Option.map_none, Option.map_eq_none_iff] at places
    rw [places]
  | some x =>
    rw [before, Option.map_some, Option.map_eq_some_iff] at places
    obtain ⟨y, after, same⟩ := places
    rw [after]
    obtain ⟨ingest, fill⟩ := Prod.mk.injEq .. ▸ same
    cases (s.lane src).record with
    | none => rfl
    | some r => simp only [ingest, fill]

theorem Agree.placeCursor (r : LaneRecord) (o : OnLane) (i : FetchId) :
    placeCursor t r o i = placeCursor s r o i := by
  unfold Machine.placeCursor
  simp only [agree.alerts, agree.orders, agree.placeTap]

theorem Agree.setSource (r : LaneRecord) (want : Option FetchId) (o : OnLane) :
    setSource t r want o = setSource s r want o := by
  have place : Machine.placeCursor t r o = Machine.placeCursor s r o := funext fun i => agree.placeCursor r o i
  unfold Machine.setSource
  rw [place]

end

/-! ## The judgement of the fetch source as a write of its lane (R63 to R65) -/

/-- Lane `ln`, whose context is `o`, with the fetch source judged. -/
def judged (s : State) (ln : Lane) (o : OnLane) : Lane :=
  match ln.record with
  | some r =>
    if r.role = .output ∧ wantedSource s r o ≠ o.fetch.source then
      { ln with
        queueGen := ln.queueGen + 1
        on := some (setSource s r (wantedSource s r o) { o with fetch := { o.fetch with queue := [] } }) }
    else { ln with on := some o }
  | none => { ln with on := some o }

theorem Agree.judged (agree : Agree s t) (ln : Lane) (o : OnLane) : judged t ln o = judged s ln o := by
  unfold Machine.judged
  simp only [agree.wantedSource, agree.setSource]

theorem judged_of_unset (s : State) (o : OnLane) (record : ln.record = none) :
    judged s ln o = { ln with on := some o } := by
  unfold judged
  rw [record]

theorem judged_of_still (record : ln.record = some r)
    (still : ¬ (r.role = .output ∧ wantedSource s r o ≠ o.fetch.source)) : judged s ln o = { ln with on := some o } := by
  unfold judged
  rw [record]
  exact if_neg still

theorem judged_of_moved (record : ln.record = some r) (moved : r.role = .output ∧ wantedSource s r o ≠ o.fetch.source) :
    judged s ln o = { ln with
      queueGen := ln.queueGen + 1
      on := some (setSource s r (wantedSource s r o) { o with fetch := { o.fetch with queue := [] } }) } := by
  unfold judged
  rw [record]
  exact if_pos moved

theorem State.onOutput_none (record : (s.lane l).record = none) : s.onOutput l = none := by
  unfold State.onOutput State.onLane
  rw [record]
  rfl

theorem State.onOutput_output (record : (s.lane l).record = some r) (on : (s.lane l).on = some o) (role : r.role = .output) :
    s.onOutput l = some (r, o) :=
  onOutput_spec.2 ⟨record, on, role⟩

theorem State.onOutput_source (record : (s.lane l).record = some r) (role : r.role ≠ .output) : s.onOutput l = none := by
  unfold State.onOutput State.onLane
  rw [record]
  cases (s.lane l).on with
  | none => rfl
  | some o => simp [Option.filter, role]

theorem State.put_same (on : (s.lane l).on = some o) :
    s.put l { s.lane l with on := some o } s.fetchWait = s := by
  have same : ({ s.lane l with on := some o } : Lane) = s.lane l := by rw [← on]
  have lanes : s.lanes.set l (s.lane l) = s.lanes := Vector.set_getElem_self _
  rw [same]
  unfold State.put
  rw [lanes]

theorem flushQueue_put (on : (s.lane l).on = some o) : ∃ w, flushQueue l s = s.put l { s.lane l with
    queueGen := (s.lane l).queueGen + 1, on := some { o with fetch := { o.fetch with queue := [] } } } w := by
  have mapped : (s.lane l).on.map (fun o => { o with fetch := { o.fetch with queue := [] } }) =
      some { o with fetch := { o.fetch with queue := [] } } := by rw [on]; rfl
  unfold flushQueue
  rw [State.modLane_put, mapped]
  exact ⟨_, rfl⟩

theorem flushInterject_put (on : (s.lane l).on = some o) : ∃ w, flushInterject l s = s.put l { s.lane l with
    interjectGen := (s.lane l).interjectGen + 1, on := some { o with fetch := { o.fetch with interject := [] } } } w := by
  have mapped : (s.lane l).on.map (fun o => { o with fetch := { o.fetch with interject := [] } }) =
      some { o with fetch := { o.fetch with interject := [] } } := by rw [on]; rfl
  unfold flushInterject
  rw [State.modLane_put, mapped]
  exact ⟨_, rfl⟩

theorem judgeSource_put (on : (s.lane l).on = some o) : ∃ w, judgeSource l s = s.put l (judged s (s.lane l) o) w := by
  unfold judgeSource
  rcases Option.eq_none_or_eq_some (s.lane l).record with record | ⟨r, record⟩
  · rw [State.onOutput_none record, judged_of_unset s o record]
    exact ⟨_, (State.put_same on).symm⟩
  · by_cases role : r.role = .output
    · rw [State.onOutput_output record on role]
      dsimp only
      by_cases same : wantedSource s r o = o.fetch.source
      · rw [if_pos same, judged_of_still record fun h => h.2 same]
        exact ⟨_, (State.put_same on).symm⟩
      · obtain ⟨w, flushed⟩ := flushQueue_put on
        rw [if_neg same, judged_of_moved record ⟨role, same⟩, flushed, State.put_modOn]
        exact ⟨_, rfl⟩
    · rw [State.onOutput_source record role, judged_of_still record fun h => role h.1]
      exact ⟨_, (State.put_same on).symm⟩

theorem judged_over_on (s : State) (ln : Lane) (x : Option OnLane) (o : OnLane) :
    judged s { ln with on := x } o = judged s ln o := by
  unfold judged
  cases ln.record <;> rfl

/-- A judgement right after the lane's context has changed, its tracker apart. -/
theorem judgeSource_modOn (on : (s.lane l).on = some o) (f : OnLane → OnLane) (track : (f o).track = o.track) :
    ∃ w, judgeSource l (s.modOn l f) = s.put l (judged s (s.lane l) (f o)) w := by
  rw [State.modOn_put on]
  obtain ⟨w, judgement⟩ := judgeSource_put (l := l) (o := f o)
    (s := s.put l { s.lane l with on := some (f o) } s.fetchWait) (by rw [State.lane_put_self])
  have agree : Agree s (s.put l { s.lane l with on := some (f o) } s.fetchWait) := by
    refine .put s _ rfl ?_
    rw [on, Option.map_some, Option.map_some, track]
  rw [judgement, State.put_put, State.lane_put_self, agree.judged, judged_over_on]
  exact ⟨w, rfl⟩

/-- Lane context `o'` is `o` with at most the fetch source, queue and cursor and the loss-source run state changed. -/
structure SourceOnly (o o' : OnLane) : Prop where
  track : o'.track = o.track
  clock : o'.clock = o.clock
  cues : o'.cues = o.cues
  feed : o'.feed = o.feed
  active : o'.active = o.active
  waiting : o'.waiting = o.waiting
  stack : o'.stack = o.stack
  interject : o'.fetch.interject = o.fetch.interject
  interjectCursor : o'.fetch.interjectCursor = o.fetch.interjectCursor
  lastWasInterject : o'.fetch.lastWasInterject = o.fetch.lastWasInterject
  sel : o'.sel = { o.sel with lossRun := o'.sel.lossRun }

theorem judged_keeps (s : State) (ln : Lane) (o : OnLane) : ∃ o', judged s ln o =
    { ln with queueGen := (judged s ln o).queueGen, on := some o' } ∧ SourceOnly o o' := by
  unfold judged
  split
  · split
    · exact ⟨_, rfl, ⟨rfl, rfl, rfl, rfl, rfl, rfl, rfl, rfl, rfl, rfl, rfl⟩⟩
    · exact ⟨_, rfl, ⟨rfl, rfl, rfl, rfl, rfl, rfl, rfl, rfl, rfl, rfl, rfl⟩⟩
  · exact ⟨_, rfl, ⟨rfl, rfl, rfl, rfl, rfl, rfl, rfl, rfl, rfl, rfl, rfl⟩⟩

/-- A judgement leaves standing what it reads. -/
theorem Agree.put_judged (s u : State) (w : Option (FetchTag × Nat)) (on : (u.lane l).on = some o)
    (track : o'.track = o.track) : Agree u (u.put l (Machine.judged s (u.lane l) o') w) := by
  obtain ⟨x, lane, kept⟩ := judged_keeps s (u.lane l) o'
  refine .put u w (by rw [lane]) ?_
  rw [lane, on, Option.map_some, Option.map_some, kept.track, track]

theorem wantedBelow_of_active {x : ActiveInsertion} (active : o.active = some x) (running : x.suspended = false) :
    wantedSource.wantedBelow t r o = some (.insertion x.order) := by
  unfold wantedSource.wantedBelow
  rw [active]
  simp [Option.filter, running]

theorem wantedBelow_of_idle (idle : ∀ x, o.active = some x → x.suspended = true) : wantedSource.wantedBelow t r o =
    if o.feed.state ≠ .live then (if r.lossSource = .filler then none else some .loss)
    else o.waiting.bind fun w =>
      match (t.order w.order).body.map OrderBody.source with
      | some (.clips _ _) => some (.insertion w.order)
      | _ => none := by
  have none : o.active.filter (fun a => !a.suspended) = none := by
    cases active : o.active with
    | none => rfl
    | some x => simp [Option.filter, idle x active]
  unfold wantedSource.wantedBelow
  rw [none]
  dsimp only
  split
  · rfl
  · cases o.waiting <;> rfl

theorem wantedSource_of_override {e : StackEntry} (effective : effectiveEntry t o.stack = some e)
    (override : isOverride t e.id = true) : wantedSource t r o = some (.alert e.id) := by
  unfold wantedSource
  rw [effective]
  exact if_pos override

theorem wantedSource_of_plain (plain : overrideEffective t o.stack = false) :
    wantedSource t r o = wantedSource.wantedBelow t r o := by
  unfold overrideEffective at plain
  unfold wantedSource
  split
  · next e effective =>
    rw [effective] at plain
    exact if_neg (Bool.eq_false_iff.1 plain)
  · rfl

/-- The first line of Table 4-3 that applies is the source wanted. -/
theorem fetchSourceIs_iff : FetchSourceIs t r o ↔ o.fetch.source = wantedSource t r o := by
  refine ⟨fun is => ?_, fun source => ⟨fun e effective override => ?_, fun plain x active running => ?_,
    fun plain idle lost => ?_, fun plain idle live => ?_⟩⟩
  · by_cases override : overrideEffective t o.stack = true
    · unfold overrideEffective at override
      split at override
      · next e effective => rw [is.override e effective override, wantedSource_of_override effective override]
      · cases override
    · have plain := Bool.eq_false_iff.2 override
      rw [wantedSource_of_plain plain]
      by_cases running : ∃ x, o.active = some x ∧ x.suspended = false
      · obtain ⟨x, active, running⟩ := running
        rw [is.insertion plain x active running, wantedBelow_of_active active running]
      · have idle : ∀ x, o.active = some x → x.suspended = true := fun x active =>
          Bool.eq_true_of_not_eq_false fun free => running ⟨x, active, free⟩
        rw [wantedBelow_of_idle idle]
        split
        · next lost => exact is.loss plain idle lost
        · next live => exact is.priming plain idle (not_not.1 live)
  · rw [source, wantedSource_of_override effective override]
  · rw [source, wantedSource_of_plain plain, wantedBelow_of_active active running]
  · rw [source, wantedSource_of_plain plain, wantedBelow_of_idle idle, if_pos lost]
  · rw [source, wantedSource_of_plain plain, wantedBelow_of_idle idle, if_neg (not_not.2 live)] <;> rfl

/-- R63 to R65: a judgement with the tables of `s` is the one `SourceJudged` states, with any tables that agree. -/
theorem sourceJudged_judged (agree : Agree s t) {ln₀ : Lane} {o₀ : OnLane} (record : ln.record = some r)
    (gen : ln.queueGen = ln₀.queueGen) (sel : o.sel = o₀.sel) (source : o.fetch.source = o₀.fetch.source)
    (queue : o.fetch.queue = o₀.fetch.queue) (cursor : o.fetch.cursor = o₀.fetch.cursor)
    (after : (judged s ln o).on = some o') : SourceJudged t r ln₀ o₀ (judged s ln o) o' := by
  rw [← agree.judged ln o] at after ⊢
  by_cases moved : r.role = .output ∧ wantedSource t r o ≠ o.fetch.source
  · rw [judged_of_moved record moved] at after ⊢
    cases after
    refine ⟨fun _ => fetchSourceIs_iff.2 rfl, ?_⟩
    rw [if_pos ⟨moved.1, source ▸ moved.2⟩]
    exact ⟨rfl, congrArg (· + 1) gen, by rw [← sel]; rfl, rfl⟩
  · rw [judged_of_still record moved] at after ⊢
    cases after
    refine ⟨fun role => fetchSourceIs_iff.2 (by_contra fun other => moved ⟨role, Ne.symm other⟩), ?_⟩
    rw [if_neg fun h => h.2 source]
    exact ⟨queue, gen, cursor, source, sel⟩

/-- A judgement sees of the lane before it only the fetch source, queue and cursor, the selector and the generation. -/
theorem SourceJudged.of_before {ln₀ ln' : Lane} {o₀ : OnLane} (judged : SourceJudged t r ln o ln' o')
    (gen : ln.queueGen = ln₀.queueGen) (sel : o.sel = o₀.sel) (source : o.fetch.source = o₀.fetch.source)
    (queue : o.fetch.queue = o₀.fetch.queue) (cursor : o.fetch.cursor = o₀.fetch.cursor) :
    SourceJudged t r ln₀ o₀ ln' o' := by
  refine ⟨judged.source, ?_⟩
  rw [← gen, ← sel, ← source, ← queue, ← cursor]
  exact judged.moved

/-- A judgement stands with tables that call for the same source and place its cursor in the same way. -/
theorem SourceJudged.of_tables {ln' : Lane} (judged : SourceJudged u r ln o ln' o')
    (wanted : wantedSource t r o' = wantedSource u r o')
    (place : ∀ i, wantedSource u r o' = some i → placeCursor t r o' i = placeCursor u r o' i) :
    SourceJudged t r ln o ln' o' := by
  refine ⟨fun role => fetchSourceIs_iff.2 ((fetchSourceIs_iff.1 (judged.source role)).trans wanted.symm), ?_⟩
  have moved := judged.moved
  split at moved
  · next moves =>
    have source := fetchSourceIs_iff.1 (judged.source moves.1)
    have same : o'.fetch.source.bind (placeCursor t r o') = o'.fetch.source.bind (placeCursor u r o') := by
      rw [source]
      cases wants : wantedSource u r o' with
      | none => rfl
      | some i => exact place i wants
    rw [if_pos moves, same]
    exact moved
  · next still =>
    rw [if_neg still]
    exact moved

theorem SourceJudged.of_agree {ln' : Lane} (judged : SourceJudged u r ln o ln' o') (agree : Agree u t) :
    SourceJudged t r ln o ln' o' :=
  judged.of_tables (agree.wantedSource r o') fun i _ => agree.placeCursor r o' i

/-- State `t` is `u` with context `x` of lane `l`, judged as `o'`. -/
structure Judgement (u : State) (l : LaneId) (x : OnLane) (t : State) (o' : OnLane) : Prop where
  state : t = u.put l (t.lane l) t.fetchWait
  lane : t.lane l = { u.lane l with queueGen := (t.lane l).queueGen, on := some o' }
  kept : SourceOnly x o'
  tables : Agree u t
  judged : ∀ v r, Agree u v → (u.lane l).record = some r → SourceJudged v r (u.lane l) x (t.lane l) o'

theorem judgement_modOn (on : (u.lane l).on = some o) (f : OnLane → OnLane) (track : (f o).track = o.track) :
    ∃ o', Judgement u l (f o) (judgeSource l (u.modOn l f)) o' := by
  obtain ⟨w, state⟩ := judgeSource_modOn on f track
  obtain ⟨o', lane, kept⟩ := judged_keeps u (u.lane l) (f o)
  rw [state]
  refine ⟨o', ?_, ?_, kept, .put_judged u u w on track, fun v r agree record => ?_⟩
  · rw [State.lane_put_self]; rfl
  · rw [State.lane_put_self]; exact lane
  · rw [State.lane_put_self]
    exact sourceJudged_judged agree record rfl rfl rfl rfl rfl (by rw [lane])

section
variable {x : OnLane} (j : Judgement u l x t o')
include j

theorem Judgement.on : (t.lane l).on = some o' := congrArg Lane.on j.lane

theorem Judgement.elsewhere (other : m ≠ l) : t.lane m = u.lane m := by
  rw [j.state, State.lane_put_ne _ _ _ other]

theorem Judgement.orders : t.orders = u.orders := by rw [j.state]; rfl
theorem Judgement.alerts : t.alerts = u.alerts := by rw [j.state]; rfl
theorem Judgement.clips : t.clips = u.clips := by rw [j.state]; rfl
theorem Judgement.report : t.report = u.report := by rw [j.state]; rfl

theorem Judgement.order (i : OrderId) : t.order i = u.order i := by unfold State.order; rw [j.orders]
theorem Judgement.alert (a : AlertId) : t.alert a = u.alert a := by unfold State.alert; rw [j.alerts]
theorem Judgement.clip (c : ClipId) : t.clip c = u.clip c := by unfold State.clip; rw [j.clips]

theorem Judgement.engine : SameEngine u t := by
  rw [j.state]
  exact ⟨rfl, rfl, rfl⟩

theorem Judgement.ports : SamePorts u t := by
  rw [j.state]
  exact ⟨rfl, rfl, rfl, rfl, rfl, rfl, rfl, rfl, rfl⟩

theorem Judgement.forceList : t.forceList = u.forceList := by rw [j.state]; rfl
theorem Judgement.upOrder : t.upOrder = u.upOrder := by rw [j.state]; rfl

end

end Sys2Proof.Machine
end

section
/-! PROOF. The effective alert of a lane judged again (R125) as a write of that lane; a run of such writes over all lanes; and
the ending of an alert (R121): O48 and O56. The loss timer (R104 to R106): O55. -/

namespace Sys2Proof.Machine

variable {s t u : State} {l m : LaneId} {ln : Lane} {r : LaneRecord} {o o' : OnLane} {st : List StackEntry}

/-! ## The loss timer -/

theorem exec_lossTimerExpiry {start : Millis} (record : (s.lane l).record = some r) (on : (s.lane l).on = some o)
    (timer : o.feed.lossTimer = some start) : exec (.lossTimerExpiry l) s =
      if r.lossLimit < (s.stationMs - start).toNat then
        match o.feed.state with
        | .live => .next (feedLost l r o s)
        | .recovering => .next (feedFlap l s)
        | .lost => .next s
      else .next s := by
  have onLane : s.onLane l = some (r, o) := by unfold State.onLane; rw [record, on]
  have run : exec (.lossTimerExpiry l) s = execLossTimerExpiry l s := rfl
  rw [run]
  unfold execLossTimerExpiry
  rw [onLane]
  dsimp only
  rw [timer]
  dsimp only
  simp only [elapsedOver_iff] <;> rfl

/-- The lane's context as a feed lost leaves it before the judgement. -/
def OnLane.lost (o : OnLane) (start : Stamp) : OnLane :=
  { o with
    feed := Feed.inLost (some { start := start, served := 0, underrun := 0 })
    active := o.active.map ActiveInsertion.markFeedLost }

theorem feedLost_judgement (on : (s.lane l).on = some o) : ∃ o', Judgement
    (s.handOver (feedLostRecord l r o (lossTime r o) s.stationMs)) l (o.lost (lossTime r o)) (feedLost l r o s) o' := by
  have merged : feedLost l r o s = _ := congrArg (judgeSource l)
    (State.modOn_modOn (s.handOver (feedLostRecord l r o (lossTime r o) s.stationMs)) l
      (fun o' => { o' with feed := Feed.inLost (some { start := lossTime r o, served := 0, underrun := 0 }) })
      fun o' => { o' with active := o'.active.map ActiveInsertion.markFeedLost })
  rw [merged]
  exact judgement_modOn (u := s.handOver (feedLostRecord l r o (lossTime r o) s.stationMs)) on
    (fun o' => o'.lost (lossTime r o)) rfl

theorem feedFlap_of_on (on : (s.lane l).on = some o) :
    feedFlap l s = s.setLane l { (s.lane l).note .flap .flap with
      on := some { o with feed := Feed.inLost o.feed.outage } } :=
  State.modOn_note s l _ _ _ on

/-- Settles O55: an expiry that is due is `feedLost` or `feedFlap`, of which the first ends in a judgement of the lane's fetch
source. -/
theorem lossTimerTakesTheFeedToLost : Obligations.LossTimerTakesTheFeedToLost := by
  unfold Obligations.LossTimerTakesTheFeedToLost
  refine ⟨fun s l r o start record on timer past => ?_, fun s l undue => ?_⟩
  · have run := exec_lossTimerExpiry record on timer
    rw [if_pos past] at run
    intro time
    refine ⟨fun live => ?_, fun recovering => ?_⟩
    · obtain ⟨o', j⟩ := feedLost_judgement (r := r) on
      rw [live] at run
      exact ⟨_, o', run, j.on, j.kept.feed, j.kept.active, j.kept.track, j.kept.waiting, j.kept.stack,
        (j.judged _ r j.tables record).of_before rfl rfl rfl rfl rfl, j.kept.interject, j.lane,
        fun m other => j.elsewhere other, j.orders, j.clips, j.report⟩
    · rw [recovering] at run
      exact run.trans (congrArg Host.Outcome.next (feedFlap_of_on on))
  · have run : exec (.lossTimerExpiry l) s = execLossTimerExpiry l s := rfl
    rw [run]
    unfold execLossTimerExpiry State.onLane
    cases record : (s.lane l).record with
    | none => rfl
    | some r =>
      cases on : (s.lane l).on with
      | none => rfl
      | some o =>
        dsimp only
        cases timer : o.feed.lossTimer with
        | none => rfl
        | some start =>
          dsimp only
          simp only [elapsedOver_iff]
          split
          · next past =>
            rw [(undue r o start record on timer).resolve_right (Nat.not_le.2 past)]
          · rfl

/-! ## The effective alert judged again (R125) -/

/-- State `t` is `u` with the stack of lane `l`, of context `o`, become `st` and its effective alert judged again. -/
structure Restacking (u : State) (l : LaneId) (o : OnLane) (st : List StackEntry) (t : State) (o' : OnLane) : Prop where
  state : t = u.put l (t.lane l) t.fetchWait
  on : (t.lane l).on = some o'
  flags : (t.lane l).flags = (u.lane l).flags
  track : o'.track = o.track
  ids : o'.stack.map StackEntry.id = st.map StackEntry.id
  tables : Agree u t
  judged : ∀ v r, Agree u v → (u.lane l).record = some r → StackJudged v r st (u.lane l) o (t.lane l) o'

theorem modEntry_ids (st : List StackEntry) (a : AlertId) (f : StackEntry → StackEntry) (keeps : ∀ e, (f e).id = e.id) :
    (modEntry st a f).map StackEntry.id = st.map StackEntry.id := by
  unfold modEntry
  rw [List.map_map]
  refine List.map_congr_left fun e _ => ?_
  dsimp only [Function.comp]
  split
  · exact keeps e
  · rfl

theorem restart_id (s : State) (e : StackEntry) : (e.restart s).id = e.id := by
  unfold StackEntry.restart
  dsimp only
  split <;> rfl

theorem restart_eq_restarted (agree : Agree s t) (e : StackEntry) : e.restart s = restarted t e := by
  have body := agree.alerts e.id
  unfold StackEntry.restart restarted isOverride alertInterval
  dsimp only
  rw [body]
  cases (s.alert e.id).body with
  | none => rfl
  | some b =>
    cases mode : b.mode with
    | override => simp [mode]
    | interject lb n => simp [mode]

theorem setOverride_eq (was now : Bool) (x : ActiveInsertion) : x.setOverride was now =
    match was, now with
    | false, true => { x with suspended := true, flags := { x.flags with interrupted := true } }
    | true, false => { x with suspended := false }
    | _, _ => x := by
  cases was <;> cases now <;> rfl

theorem interjectStart_eq (agree : Agree s t) (e : Option StackEntry) : interjectStart s e = e.bind fun e =>
    (t.alert e.id).body.bind fun b => if b.mode = .override then none else some { clip := b.clip, packet := 0, fresh := true } := by
  cases e with
  | none => rfl
  | some e =>
    unfold interjectStart isOverride alertClip
    dsimp only [Option.bind_some]
    rw [agree.alerts]
    cases (s.alert e.id).body with
    | none => rfl
    | some b => by_cases override : b.mode = .override <;> simp [override]

theorem restack_of_on (on : (u.lane l).on = some o) (f : List StackEntry → List StackEntry) :
    ∃ o', Restacking u l o (f o.stack) (restack l f u) o' := by
  unfold restack
  rw [on]
  dsimp only
  by_cases same : (effectiveEntry u o.stack).map StackEntry.id = (effectiveEntry u (f o.stack)).map StackEntry.id
  · rw [if_pos same, State.modOn_put on]
    refine ⟨{ o with stack := f o.stack }, ?_, ?_, ?_, rfl, rfl, ?_, fun v r agree record => ?_⟩
    · rw [State.lane_put_self]; rfl
    · rw [State.lane_put_self]
    · rw [State.lane_put_self]
    · exact .put u _ rfl (by rw [on]; rfl)
    · rw [State.lane_put_self]
      refine ⟨⟨rfl, rfl, rfl⟩, fun _ => ⟨rfl, rfl, rfl⟩, fun other => ?_⟩
      rw [agree.effectiveEntry, agree.effectiveEntry] at other
      exact absurd same other
  · rw [if_neg same]
    obtain ⟨w, flushed⟩ := flushInterject_put on
    have lane := congrArg (fun v => State.lane v l) flushed
    dsimp only at lane
    rw [State.lane_put_self] at lane
    have flushKeeps : Agree u (flushInterject l u) := by
      rw [flushed]
      exact .put u _ rfl (by rw [on]; rfl)
    obtain ⟨o', j⟩ := judgement_modOn (u := flushInterject l u) (l := l) (congrArg Lane.on lane)
      (fun x => x.restack u (f x.stack)) rfl
    generalize judgeSource l ((flushInterject l u).modOn l fun x => x.restack u (f x.stack)) = t at j ⊢
    have after := j.lane
    rw [lane] at after
    refine ⟨o', ?_, j.on, ?_, j.kept.track, ?_, flushKeeps.trans j.tables, fun v r agree record => ?_⟩
    · have state := j.state
      rw [flushed, State.put_put] at state
      exact state
    · rw [after]
    · rw [j.kept.stack]
      dsimp only [OnLane.restack]
      cases effectiveEntry u (f o.stack) with
      | none => rfl
      | some e => exact modEntry_ids _ _ _ (restart_id u)
    · have recorded : ((flushInterject l u).lane l).record = some r := by rw [lane]; exact record
      have source := j.judged v r (flushKeeps.symm.trans agree) recorded
      refine ⟨⟨?_, ?_, ?_⟩, fun equal => ?_, fun _ => ⟨?_, ?_, ?_, ?_, ?_, ?_⟩⟩
      · rw [after]
      · rw [after]
      · exact OnLane.mk.injEq .. ▸ ⟨j.kept.track, j.kept.clock, j.kept.cues, j.kept.feed, rfl, j.kept.waiting, rfl, rfl, j.kept.sel⟩
      · rw [agree.effectiveEntry, agree.effectiveEntry] at equal
        exact absurd equal same
      · rw [j.kept.stack, agree.effectiveEntry]
        dsimp only [OnLane.restack]
        cases effectiveEntry u (f o.stack) with
        | none => rfl
        | some e => simp only [modEntry, restart_eq_restarted agree]
      · rw [j.kept.active, agree.overrideEffective, agree.overrideEffective]
        exact congrArg (fun g => Option.map g o.active) (funext (setOverride_eq _ _))
      · rw [j.kept.interject]
        rfl
      · rw [after]
      · rw [j.kept.interjectCursor, agree.effectiveEntry]
        exact interjectStart_eq agree _
      · refine source.of_before ?_ rfl rfl rfl rfl
        rw [lane]

/-! ## A run of lane operations over distinct lanes -/

theorem State.put_lane_self (s : State) (l : LaneId) : s.put l (s.lane l) s.fetchWait = s := by
  have lanes : s.lanes.set l (s.lane l) = s.lanes := Vector.set_getElem_self _
  unfold State.put
  rw [lanes]

/-- What a run of operations, each on its own lane, makes of state `s`. -/
structure LaneRun (F : State → LaneId → State) (ls : List LaneId) (s t : State) : Prop where
  tables : Agree s t
  rest : ∃ lanes w, t = { s with lanes := lanes, fetchWait := w }
  elsewhere : ∀ l, l ∉ ls → t.lane l = s.lane l
  each : ∀ l, l ∈ ls → ∃ u, Agree s u ∧ u.lane l = s.lane l ∧ t.lane l = (F u l).lane l

theorem foldl_laneRun (F : State → LaneId → State) (tables : ∀ u l, Agree u (F u l))
    (writes : ∀ u l, F u l = u.put l ((F u l).lane l) (F u l).fetchWait) (ls : List LaneId) :
    ∀ s : State, ls.Nodup → LaneRun F ls s (ls.foldl F s) := by
  induction ls with
  | nil => exact fun s _ => ⟨.refl s, ⟨s.lanes, s.fetchWait, rfl⟩, fun _ _ => rfl, fun l no => absurd no List.not_mem_nil⟩
  | cons x xs ih =>
    intro s distinct
    obtain ⟨notIn, distinct⟩ := List.nodup_cons.1 distinct
    have run := ih (F s x) distinct
    rw [List.foldl_cons]
    have other : ∀ l, l ≠ x → (F s x).lane l = s.lane l := fun l ne => by rw [writes, State.lane_put_ne _ _ _ ne]
    refine ⟨(tables s x).trans run.tables, ?_, fun l out => ?_, fun l isIn => ?_⟩
    · obtain ⟨lanes, w, rest⟩ := run.rest
      refine ⟨lanes, w, rest.trans ?_⟩
      rw [writes]
      rfl
    · have ⟨ne, out⟩ := not_or.1 (mt List.mem_cons.2 out)
      rw [run.elsewhere l out, other l ne]
    · by_cases same : l = x
      · subst same
        exact ⟨s, .refl s, rfl, run.elsewhere l notIn⟩
      · obtain ⟨u, agree, lane, after⟩ := run.each l ((List.mem_cons.1 isIn).resolve_left same)
        exact ⟨u, (tables s x).trans agree, lane.trans (other l same), after⟩

/-! ## The ending of an alert (R121) -/

/-- Lane `l` leaves the alert, where it holds it. -/
def leaveOn (a : AlertId) (s : State) (l : LaneId) : State :=
  match (s.lane l).on with
  | some o => if o.stack.any fun e => e.id == a then restack l (fun st => st.filter fun e => e.id != a) s else s
  | none => s

theorem any_id_iff {a : AlertId} : (st.any fun e => e.id == a) = true ↔ a ∈ st.map StackEntry.id := by
  simp [List.any_eq_true]

theorem leaveOn_of_holder {a : AlertId} (on : (u.lane l).on = some o) (holds : a ∈ o.stack.map StackEntry.id) :
    ∃ o', Restacking u l o (o.stack.filter fun e => e.id != a) (leaveOn a u l) o' := by
  have left : leaveOn a u l = restack l (fun st => st.filter fun e => e.id != a) u := by
    unfold leaveOn
    rw [on]
    exact if_pos (any_id_iff.2 holds)
  rw [left]
  exact restack_of_on on _

theorem leaveOn_of_other {a : AlertId} (out : ∀ o, (u.lane l).on = some o → a ∉ o.stack.map StackEntry.id) :
    leaveOn a u l = u := by
  unfold leaveOn
  cases on : (u.lane l).on with
  | none => rfl
  | some o => exact if_neg fun holds => out o on (any_id_iff.1 holds)

theorem leaveOn_writes (a : AlertId) (u : State) (l : LaneId) :
    Agree u (leaveOn a u l) ∧ leaveOn a u l = u.put l ((leaveOn a u l).lane l) (leaveOn a u l).fetchWait := by
  by_cases holder : ∃ o, (u.lane l).on = some o ∧ a ∈ o.stack.map StackEntry.id
  · obtain ⟨o, on, holds⟩ := holder
    obtain ⟨o', stacked⟩ := leaveOn_of_holder on holds
    exact ⟨stacked.tables, stacked.state⟩
  · have out := leaveOn_of_other (u := u) (l := l) (a := a) fun o on holds => holder ⟨o, on, holds⟩
    rw [out]
    exact ⟨.refl u, (State.put_lane_self u l).symm⟩

theorem leaveAlert_run (a : AlertId) (s : State) : LaneRun (leaveOn a) (List.finRange 64) s (leaveAlert a s) :=
  foldl_laneRun (leaveOn a) (fun u l => (leaveOn_writes a u l).1) (fun u l => (leaveOn_writes a u l).2) _ s
    (List.nodup_finRange 64)

theorem filter_map_id (st : List StackEntry) (a : AlertId) :
    (st.filter fun z => z.id != a).map StackEntry.id = (st.map StackEntry.id).filter fun c => c != a :=
  (List.filter_map (f := StackEntry.id) (p := fun c => c != a) (l := st)).symm

theorem State.clip_of_set {k : ClipId} {x : Clip} (clips : t.clips = s.clips.set k x) (c : ClipId) :
    t.clip c = if c = k then x else s.clip c := by
  rw [State.clip, clips]
  split
  · next same => subst same; exact vec_get_set_self _ _ _
  · next other => exact vec_get_set_ne _ _ _ _ other

theorem alertEnd_flags (b : AlertBody) (cause : AlertCause) (disturbed fault : Bool) :
    marks [b.modeBit, cause == .expired, false, disturbed, fault] =
      (if b.mode = .override then 0 else 1) + (if cause = .expired then 2 else 0) + (if disturbed then 8 else 0) +
        (if fault then 16 else 0) := by
  have mode : b.modeBit.toNat = if b.mode = .override then 0 else 1 := by
    unfold AlertBody.modeBit
    cases b.mode with
    | override => rfl
    | interject lb n => rfl
  have expired : (cause == .expired).toNat = if cause = .expired then 1 else 0 := by cases cause <;> rfl
  have bit : ∀ x : Bool, x.toNat = if x then 1 else 0 := fun x => by cases x <;> rfl
  simp only [marks, List.foldr_cons, List.foldr_nil]
  rw [mode, expired, bit disturbed, bit fault]
  split <;> split <;> split <;> split <;> rfl

theorem endAlert_ends (a : AlertId) (b : AlertBody) (cause : AlertCause) (s : State) :
    AlertEnding s (endAlert a b cause s) a b cause := by
  have run := leaveAlert_run a s
  obtain ⟨lanes, w, left⟩ := run.rest
  unfold endAlert
  generalize leaveAlert a s = u at left run ⊢
  have alert : u.alert a = s.alert a := by rw [left]; rfl
  have alerts : u.alerts = s.alerts := by rw [left]
  have clips : u.clips = s.clips := by rw [left]
  dsimp only
  generalize final : State.handOver _ _ = t
  have finalAlerts : t.alerts = s.alerts.set a
      { s.alert a with timer := false, inForce := false, lastCause := some cause } := by
    rw [← final, ← alerts, ← alert]; rfl
  have finalClips : t.clips = s.clips.set b.clip { s.clip b.clip with locks := (s.clip b.clip).locks - 1 } := by
    have clip : u.clip b.clip = s.clip b.clip := by unfold State.clip; rw [clips]
    rw [← final, ← clips, ← clip]; rfl
  have lane : ∀ l, t.lane l = u.lane l := fun l => by rw [← final]; rfl
  have agree : Agree s t := by
    refine ⟨fun c => ?_, fun i => ?_, fun m => ?_, fun m => ?_⟩
    · rw [State.alert_of_set finalAlerts]
      split
      · next same => rw [same]
      · rfl
    · rw [← run.tables.orders, ← final]; rfl
    · rw [lane, run.tables.records]
    · rw [lane, run.tables.places]
  have member : ∀ l : LaneId, l ∈ List.finRange 64 := List.mem_finRange
  constructor
  case entry => rw [State.alert_of_set finalAlerts, if_pos rfl]
  case others => exact fun c other => by rw [State.alert_of_set finalAlerts, if_neg other]
  case forceList => rw [← final, left]; rfl
  case stackIds =>
    intro l
    obtain ⟨v, tables, before, after⟩ := run.each l (member l)
    rw [lane, after, ← before]
    cases on : (v.lane l).on with
    | none => rw [leaveOn_of_other (by rw [on]; exact fun _ no => nomatch no), on]; rfl
    | some o =>
      by_cases holds : a ∈ o.stack.map StackEntry.id
      · obtain ⟨o', stacked⟩ := leaveOn_of_holder on holds
        rw [stacked.on, Option.map_some, stacked.ids, filter_map_id]
        rfl
      · rw [leaveOn_of_other (by rw [on]; rintro x ⟨⟩; exact holds), on, Option.map_some, Option.map_some,
          List.filter_eq_self.2]
        intro c isIn
        exact bne_iff_ne.2 fun same => holds (same ▸ isIn)
  case judged =>
    intro l r o record on holds
    obtain ⟨v, tables, before, after⟩ := run.each l (member l)
    rw [lane, after]
    rw [← before] at record on ⊢
    obtain ⟨o', stacked⟩ := leaveOn_of_holder on holds
    exact ⟨o', stacked.on, stacked.flags, stacked.judged t r (tables.symm.trans agree) record⟩
  case elsewhere =>
    intro l out
    obtain ⟨v, tables, before, after⟩ := run.each l (member l)
    rw [lane, after, leaveOn_of_other (by rw [before]; exact out), before]
  case trackers =>
    intro l
    obtain ⟨v, tables, before, after⟩ := run.each l (member l)
    unfold State.tracker
    rw [lane, after, ← before]
    by_cases holder : ∃ o, (v.lane l).on = some o ∧ a ∈ o.stack.map StackEntry.id
    · obtain ⟨o, on, holds⟩ := holder
      obtain ⟨o', stacked⟩ := leaveOn_of_holder on holds
      rw [stacked.on, on, Option.map_some, Option.map_some, stacked.track]
    · rw [leaveOn_of_other fun o on holds => holder ⟨o, on, holds⟩]
  case clips =>
    intro c
    rw [State.clip_of_set finalClips]
    split
    · next same => rw [same]
    · rfl
  case orders => rw [← final, left]; rfl
  case engine => rw [← final, left]; exact ⟨rfl, rfl, rfl⟩
  case report =>
    have handed : t.report = s.report.handOver (alertEndRecord t a b cause) := by rw [← final, left]; rfl
    have ms : t.stationMs = s.stationMs := by rw [← final, left]; rfl
    rw [handed]
    unfold alertEndRecord
    rw [State.alert_of_set finalAlerts, if_pos rfl, State.clip_of_set finalClips, if_pos rfl]
    dsimp only
    rw [alertEnd_flags, ms]

/-- Settles O56: an expiry that is due ends the alert. -/
theorem alertDurationEndsTheAlert : Obligations.AlertDurationEndsTheAlert := by
  unfold Obligations.AlertDurationEndsTheAlert
  refine ⟨fun s a b body timer past => ⟨_, ?_, endAlert_ends a b .expired s⟩, fun s a undue => ?_⟩
  · have run : exec (.alertDurationExpiry a) s = execAlertDurationExpiry a s := rfl
    rw [run]
    unfold execAlertDurationExpiry
    rw [body]
    exact if_pos ⟨timer, elapsedOver_iff.2 past⟩
  · have run : exec (.alertDurationExpiry a) s = execAlertDurationExpiry a s := rfl
    rw [run]
    unfold execAlertDurationExpiry
    cases body : (s.alert a).body with
    | none => rfl
    | some b =>
      exact if_neg fun due => Nat.not_lt.2 (undue b body due.1) (elapsedOver_iff.1 due.2)

theorem endAlert_ports (a : AlertId) (b : AlertBody) (cause : AlertCause) (s : State) :
    SamePorts s (endAlert a b cause s) := by
  obtain ⟨lanes, w, left⟩ := (leaveAlert_run a s).rest
  unfold endAlert
  rw [left]
  exact ⟨rfl, rfl, rfl, rfl, rfl, rfl, rfl, rfl, rfl⟩

/-- Settles O48: the posting ends the alert, or its checks refuse. -/
theorem alertEndEndsTheAlert : Obligations.AlertEndEndsTheAlert := by
  unfold Obligations.AlertEndEndsTheAlert
  intro x s k rest due
  refine ⟨fun above => exec_of_answer rfl due (withAlert_of_field_gt above _ _), fun a named => ⟨fun idle => ?_, ?_⟩⟩
  · refine exec_of_answer rfl due ((withAlert_of_field_eq named _ _).trans ?_)
    have idle : (({ s with memReads := rest } : State).alert a).inForce = false := idle
    unfold alertEndOn
    rw [idle]
  · intro b inForce body
    have ends := endAlert_ends a b .ended { s with memReads := rest }
    refine ⟨endAlert a b .ended { s with memReads := rest }, ?_, endAlert_ports a b .ended _, ends.entry, ends.others,
      ends.forceList, ends.stackIds, ends.judged, ends.elsewhere, ends.trackers, ends.clips, ends.orders,
      ⟨ends.engine.slots, ends.engine.queue, ends.engine.working⟩, ends.report⟩
    refine exec_of_answer rfl due ((withAlert_of_field_eq named _ _).trans ?_)
    have inForce : (({ s with memReads := rest } : State).alert a).inForce = true := inForce
    have body : (({ s with memReads := rest } : State).alert a).body = some b := body
    unfold alertEndOn
    rw [inForce, body]

end Sys2Proof.Machine
end

section
/-! PROOF. A waiting cue bound and removed (R81, R93), and the postings that do it: O45 and O46. -/

namespace Sys2Proof.Machine

variable {s t u : State} {l m : LaneId} {ln : Lane} {r : LaneRecord} {o o' : OnLane} {i : OrderId} {b : OrderBody}

/-- From `s` to `u` order `i` has become `x`, and the locks of the clips listed have changed by `f`, each clip's once. -/
structure OrderMove (s u : State) (i : OrderId) (x : Order) (held : List ClipId) (f : Nat → Nat) : Prop where
  order : u.order i = x
  others : ∀ j, j ≠ i → u.order j = s.order j
  clips : ∀ c, u.clip c = { s.clip c with locks := if c ∈ held then f (s.clip c).locks else (s.clip c).locks }
  rest : ∃ orders clips, u = { s with orders := orders, clips := clips }

theorem OrderMove.lane {x : Order} {f : Nat → Nat} {held : List ClipId} (move : OrderMove s u i x held f) (m : LaneId) : u.lane m = s.lane m := by
  obtain ⟨_, _, same⟩ := move.rest
  rw [same]
  rfl

theorem OrderMove.report {x : Order} {f : Nat → Nat} {held : List ClipId} (move : OrderMove s u i x held f) : u.report = s.report := by
  obtain ⟨_, _, same⟩ := move.rest
  rw [same]

theorem OrderMove.alerts {x : Order} {f : Nat → Nat} {held : List ClipId} (move : OrderMove s u i x held f) : u.alerts = s.alerts := by
  obtain ⟨_, _, same⟩ := move.rest
  rw [same]

theorem orderMove_lock (s : State) (i : OrderId) (f : Order → Order) (b : OrderBody) :
    OrderMove s (lockOrder (s.modOrder i f) b) i (f (s.order i)) b.clips (· + 1) := by
  obtain ⟨cs, same⟩ := lockOrder_eq (s.modOrder i f) b
  have clip := lockOrder_clip (s.modOrder i f) b
  refine ⟨?_, fun j other => ?_, fun c => ?_, ?_⟩
  · rw [same]
    exact State.order_modOrder_self s i f
  · rw [same]
    exact (State.order_of_set (s := s) rfl j).trans (if_neg other)
  · rw [clip]
    split <;> rfl
  · rw [same]
    exact ⟨_, cs, rfl⟩

theorem orderMove_release (s : State) (i : OrderId) (f : Order → Order) (b : OrderBody) :
    OrderMove s (releaseOrder (s.modOrder i f) b) i (f (s.order i)) b.clips (· - 1) := by
  obtain ⟨cs, same⟩ := releaseOrder_eq (s.modOrder i f) b
  have clip := releaseOrder_clip (s.modOrder i f) b
  refine ⟨?_, fun j other => ?_, fun c => ?_, ?_⟩
  · rw [same]
    exact State.order_modOrder_self s i f
  · rw [same]
    exact (State.order_of_set (s := s) rfl j).trans (if_neg other)
  · rw [clip]
    split <;> rfl
  · rw [same]
    exact ⟨_, cs, rfl⟩

/-- The waiting cue that binds order `i` of fields `b` (R50, R81). -/
def boundCue (i : OrderId) (b : OrderBody) (event : BitVec 32) (kind : BreakKind) (time : Stamp) (duration : Option Stamp) :
    WaitingCue :=
  { order := i, event := event, kind := kind, splice := time, ret := returnTime time duration b.maxLength }

/-- R81: the waiting cue is on its lane, its order BOUND with its clips locked, and the source judged. -/
theorem bindOrder_judgement (body : (s.order i).body = some b) (on : (s.lane l).on = some o) (event : BitVec 32)
    (kind : BreakKind) (time : Stamp) (duration : Option Stamp) : ∃ u o',
      OrderMove s u i { s.order i with state := .bound } b.clips (· + 1) ∧
      Judgement u l { o with waiting := some (boundCue i b event kind time duration) }
        (bindOrder l i event kind time duration s) o' := by
  have move := orderMove_lock s i (fun x => { x with state := .bound }) b
  obtain ⟨o', j⟩ := judgement_modOn (u := lockOrder (s.modOrder i fun x => { x with state := .bound }) b) (l := l) (o := o)
    (by rw [move.lane]; exact on) (fun o => { o with waiting := some (boundCue i b event kind time duration) })
    rfl
  refine ⟨_, o', move, ?_⟩
  unfold bindOrder
  rw [body]
  exact j

theorem heldClips_of_body (body : (s.order i).body = some b) : heldClips s (some i) = b.clips := by
  unfold heldClips
  rw [Option.bind_some, body]
  rfl

theorem heldClips_of_empty (empty : (s.order i).body = none) : heldClips s (some i) = [] := by
  unfold heldClips
  rw [Option.bind_some, empty]
  rfl

/-- An order changed, and the clips it has locked released where it has fields. -/
theorem orderMove_let_go (s : State) (i : OrderId) (f : Order → Order) : OrderMove s
    (match (s.order i).body with
      | some b => releaseOrder (s.modOrder i f) b
      | none => s.modOrder i f) i (f (s.order i)) (heldClips s (some i)) (· - 1) := by
  cases body : (s.order i).body with
  | some b =>
    rw [heldClips_of_body body]
    exact orderMove_release s i f b
  | none =>
    rw [heldClips_of_empty body]
    exact ⟨State.order_modOrder_self s i f, fun j other => (State.order_of_set (s := s) rfl j).trans (if_neg other),
      fun c => rfl, _, s.clips, rfl⟩

/-- R93: the waiting cue is gone, its order ARMED with its clips released, and the source judged. -/
theorem removeWaiting_judgement (w : WaitingCue) (on : (s.lane l).on = some o) :
    ∃ u o', OrderMove s u w.order { s.order w.order with state := .armed } (heldClips s (some w.order)) (· - 1) ∧
      Judgement u l { o with waiting := none } (removeWaiting l w s) o' := by
  have move := orderMove_let_go s w.order fun x => { x with state := .armed }
  have body : ((s.modOrder w.order fun x => { x with state := .armed }).order w.order).body = (s.order w.order).body := by
    rw [State.order_modOrder_self]
  obtain ⟨o', j⟩ := judgement_modOn (l := l) (o := o) (by rw [move.lane]; exact on) (fun o => { o with waiting := none }) rfl
  refine ⟨_, o', move, ?_⟩
  unfold removeWaiting
  dsimp only
  rw [body]
  exact j

/-- R86, R100: the insertion is gone, its order disposed of with its clips released and its record handed over, and the source
judged. -/
theorem endInsertion_judgement (a : ActiveInsertion) (kind : RecordKind) (out : Option Stamp)
    (on : (s.lane l).on = some o) : ∃ u o',
      OrderMove (s.handOver (endedRecord s l a kind (out.getD a.ret))) u a.order (leftActive (s.order a.order))
        (heldClips s (some a.order)) (· - 1) ∧
      Judgement u l { o with active := none } (endInsertion l a kind out s) o' := by
  have move := orderMove_let_go (s.handOver (endedRecord s l a kind (out.getD a.ret))) a.order Order.dispose
  obtain ⟨o', j⟩ := judgement_modOn (l := l) (o := o) (by rw [move.lane]; exact on) (fun o => { o with active := none }) rfl
  exact ⟨_, o', move, j⟩

/-! ## ORDER CANCEL (R94) -/

theorem cancelOrder_of_named {x : RecordData} (named : field x 0 1 = i.val) : cancelOrder x s =
    match (s.order i).state with
    | .empty => (s, .badState, 0)
    | .armed => (s.setOrder i Order.reset, .ok, 0)
    | .spent => (s.setOrder i Order.reset, .ok, 0)
    | .bound => ((unbind i s).setOrder i Order.reset, .ok, 0)
    | .active =>
      if (s.order i).abort then (s, .badState, 0)
      else (s.modOrder i fun y => { y with abort := true }, .ok, 0) := by
  have same : Fin.ofNat 256 (field x 0x00 1) = i := Fin.ext (by rw [Fin.val_ofNat, named, Nat.mod_eq_of_lt i.isLt])
  unfold cancelOrder
  rw [same] <;> rfl

theorem unbind_of_waiting {w : WaitingCue} (body : (s.order i).body = some b) (on : (s.lane b.lane).on = some o)
    (waiting : o.waiting = some w) (holds : w.order = i) : unbind i s = removeWaiting b.lane w s := by
  unfold unbind
  rw [body]
  dsimp only
  rw [on, Option.bind_some, waiting]
  simp [Option.filter, holds]

/-- A context without a waiting cue and with no insertion of order `i` calls for the same source, placed in the same way, whatever
becomes of that order. -/
theorem SourceJudged.of_order_gone {ln' : Lane} (judged : SourceJudged u r ln o ln' o') (lanes : t.lanes = u.lanes)
    (alerts : t.alerts = u.alerts) (others : ∀ j, j ≠ i → t.order j = u.order j) (free : o'.waiting = none)
    (apart : ∀ y, o'.active = some y → y.order ≠ i) : SourceJudged t r ln o ln' o' := by
  have override : ∀ a, isOverride t a = isOverride u a := fun a => by unfold isOverride State.alert; rw [alerts]
  have effective : ∀ st, effectiveEntry t st = effectiveEntry u st := fun st => by
    unfold effectiveEntry
    simp only [override]
  have below : wantedSource.wantedBelow t r o' = wantedSource.wantedBelow u r o' := by
    unfold wantedSource.wantedBelow
    rw [free]
  have wanted : wantedSource t r o' = wantedSource u r o' := by
    unfold wantedSource
    simp only [effective, override, below]
  have tap : ∀ src lag, placeTap t src lag = placeTap u src lag := fun src lag => by
    unfold placeTap State.onLane State.lane
    rw [lanes]
  refine judged.of_tables wanted fun k wants => ?_
  unfold placeCursor
  cases k with
  | alert a => exact congrArg (fun x : Alert => x.body.map _) (by unfold State.alert; rw [alerts])
  | loss => simp only [tap]
  | insertion j =>
    have other : j ≠ i := by
      by_cases overriding : overrideEffective u o'.stack = true
      · unfold overrideEffective at overriding
        split at overriding
        · next e effective =>
          rw [wantedSource_of_override effective overriding] at wants
          cases wants
        · cases overriding
      · rw [wantedSource_of_plain (Bool.eq_false_iff.2 overriding)] at wants
        by_cases running : ∃ y, o'.active = some y ∧ y.suspended = false
        · obtain ⟨y, active, running⟩ := running
          rw [wantedBelow_of_active active running] at wants
          cases wants
          exact apart y active
        · rw [wantedBelow_of_idle fun y active => Bool.eq_true_of_not_eq_false fun run => running ⟨y, active, run⟩,
            free] at wants
          split at wants
          · split at wants <;> cases wants
          · cases wants
    simp only [others j other, tap]

/-- Settles O45. -/
theorem orderCancelActsByState : Obligations.OrderCancelActsByState := by
  unfold Obligations.OrderCancelActsByState
  intro x s k rest i due named
  dsimp only
  have act := cancelOrder_of_named (s := { s with memReads := rest }) named
  change _ = match (s.order i).state with
    | .empty => _ | .armed => _ | .spent => _ | .bound => _ | .active => _ at act
  refine ⟨?_, ?_, fun state unmarked => ?_, fun b o w state body on waiting holds => ?_⟩
  · rintro (state | ⟨state, marked⟩)
    · rw [state] at act
      exact refused_of_answer rfl due act
    · rw [state] at act
      exact refused_of_answer rfl due (act.trans (if_pos marked))
  · rintro (state | state)
    · rw [state] at act
      exact exec_of_answer rfl due act
    · rw [state] at act
      exact exec_of_answer rfl due act
  · rw [state] at act
    exact exec_of_answer rfl due (act.trans (if_neg (by rw [show (({ s with memReads := rest } : State).order i).abort = false from unmarked]; exact Bool.false_ne_true)))
  · rw [state] at act
    dsimp only at act
    rw [unbind_of_waiting (s := { s with memReads := rest }) body on waiting holds] at act
    subst holds
    obtain ⟨u, o', move, j⟩ := removeWaiting_judgement (s := { s with memReads := rest }) (l := b.lane) w on
    rw [heldClips_of_body (s := { s with memReads := rest }) body] at move
    have slot := slot_of_postingOf (c := .orderCancel x) rfl { s with memReads := rest } k .ok 0
    rw [act] at slot
    generalize removeWaiting b.lane w { s with memReads := rest } = v at act slot j
    have orders : ∀ i, i ≠ w.order → v.order i = s.order i :=
      fun i other => (j.order i).trans (move.others i other)
    refine ⟨_, o', exec_of_answer rfl due act, (finishPosting_slot _ _ _ _).trans slot, State.order_setOrder_self _ _ _,
      fun i other => ?_, j.on, j.kept.waiting, j.kept.active, j.kept.track, fun m other => ?_, fun c => ?_,
      fun r record apart => ?_, j.report.trans move.report, j.alerts.trans move.alerts⟩
    · exact (State.order_of_set (s := v) rfl i).trans
        ((if_neg other).trans (orders i other))
    · exact (j.elsewhere other).trans (move.lane m)
    · exact (j.clip c).trans (move.clips c)
    · have lane := move.lane b.lane
      have judged := j.judged _ r j.tables (by rw [lane]; exact record)
      rw [lane] at judged
      refine (judged.of_order_gone (i := w.order) (t := finishPosting k .ok 0 (v.setOrder w.order Order.reset))
        rfl rfl (fun i other => ?_) j.kept.waiting ?_).of_before rfl rfl rfl rfl rfl
      · exact (State.order_of_set (s := v) rfl i).trans (if_neg other)
      · rw [j.kept.active]
        exact apart

/-! ## SCHEDULE (R95, R96) -/

theorem schedule_of_bad {x : RecordData} {n : Nat} (bad : firstBad (scheduleChecks x) = some n) :
    schedule x s = (s, .badField, n) := by
  unfold schedule
  rw [bad]

theorem schedule_of_good {x : RecordData} (good : firstBad (scheduleChecks x) = none) (named : field x 0 1 = l.val) :
    schedule x s = scheduleOn x l s := by
  have same : Fin.ofNat 64 (field x 0x00 1) = l := Fin.ext (by rw [Fin.val_ofNat, named, Nat.mod_eq_of_lt l.isLt])
  unfold schedule
  rw [good, same]

/-- R95: what a SCHEDULE asks of its lane. -/
def TakesSchedule (x : RecordData) (s : State) (l : LaneId) (r : LaneRecord) (o : OnLane) : Prop :=
  (s.lane l).record = some r ∧ (s.lane l).on = some o ∧ r.role = .output ∧
    o.clock.isValid = true ∧ o.waiting = none ∧ (field x 2 1 = 1 → o.track.prevStamp.isSome = true)

theorem presentation_isSome {c : ClockModel} {delay : Nat} {a : Option Arrival} (valid : c.isValid = true) :
    (presentation c delay a).isSome = a.isSome := by
  cases c with
  | valid an cap => cases a <;> rfl
  | unset => cases valid
  | stale an cap => cases valid

theorem scheduleTime_isSome {x : RecordData} (valid : o.clock.isValid = true) :
    (scheduleTime x r o).isSome = true ↔ (field x 2 1 = 1 → o.track.prevStamp.isSome = true) := by
  unfold scheduleTime
  by_cases immediate : field x 2 1 = 1
  · rw [if_pos immediate, presentation_isSome valid]
    exact ⟨fun some _ => some, fun some => some immediate⟩
  · rw [if_neg immediate]
    exact iff_of_true rfl fun yes => absurd yes immediate

theorem scheduleOn_of_refusing {x : RecordData} (refuses : ∀ r o, ¬ TakesSchedule x s l r o) :
    scheduleOn x l s = (s, .badState, 0) := by
  unfold scheduleOn
  cases found : s.onOutput l with
  | none => rfl
  | some p =>
    obtain ⟨r, o⟩ := p
    obtain ⟨record, on, role⟩ := onOutput_spec.1 found
    dsimp only
    split
    · next time takes some =>
      rw [Bool.and_eq_true, Option.isNone_iff_eq_none] at takes
      refine absurd ?_ (refuses r o)
      exact ⟨record, on, role, takes.1, takes.2, (scheduleTime_isSome takes.1).1 (by rw [some]; rfl)⟩
    · rfl

theorem scheduleOn_of_taking {x : RecordData} {time : Stamp} (takes : TakesSchedule x s l r o)
    (splice : scheduleTime x r o = some time) (named : field x 1 1 = i.val) : scheduleOn x l s =
      match (s.order i).state == .armed, (s.order i).body with
      | true, some b =>
        if b.lane ≠ l then (s, .inUse, 0)
        else if !orderReady s b then (s, .notReady, 2)
        else
          let duration := if field x 0x03 1 = 1 then some (BitVec.ofNat 33 (field x 0x10 5)) else none
          (bindOrder l i (BitVec.ofNat 32 (field x 0x04 4)) .scheduled time duration s, .ok, 0)
      | _, _ => (s, .inUse, 0) := by
  obtain ⟨record, on, role, valid, free, -⟩ := takes
  have same : Fin.ofNat 256 (field x 0x01 1) = i := Fin.ext (by rw [Fin.val_ofNat, named, Nat.mod_eq_of_lt i.isLt])
  unfold scheduleOn
  rw [State.onOutput_output record on role]
  dsimp only
  rw [valid, free, splice, same]
  rfl

theorem scheduleOn_of_other {x : RecordData} {time : Stamp} (takes : TakesSchedule x s l r o)
    (splice : scheduleTime x r o = some time) (named : field x 1 1 = i.val)
    (other : ¬ ((s.order i).state = .armed ∧ ∃ b, (s.order i).body = some b ∧ b.lane = l)) :
    scheduleOn x l s = (s, .inUse, 0) := by
  rw [scheduleOn_of_taking takes splice named]
  split
  · next b armed body => exact if_pos fun lane => other ⟨eq_of_beq armed, b, body, lane⟩
  · rfl

theorem scheduleOn_of_armed {x : RecordData} {time : Stamp} (takes : TakesSchedule x s l r o)
    (splice : scheduleTime x r o = some time) (named : field x 1 1 = i.val) (armed : (s.order i).state = .armed)
    (body : (s.order i).body = some b) (lane : b.lane = l) : scheduleOn x l s =
      if orderReady s b then (bindOrder l i (BitVec.ofNat 32 (field x 4 4)) .scheduled time
        (if field x 3 1 = 1 then some (BitVec.ofNat 33 (field x 16 5)) else none) s, .ok, 0)
      else (s, .notReady, 2) := by
  rw [scheduleOn_of_taking takes splice named, armed, body]
  dsimp only
  rw [beq_self_eq_true]
  dsimp only
  rw [if_neg (not_not.2 lane)]
  cases orderReady s b <;> rfl

theorem returnTime_scheduled (x : RecordData) (time : Stamp) (b : OrderBody) (good : ∀ n, ¬ ScheduleFieldBad x n) :
    returnTime time (if field x 3 1 = 1 then some (BitVec.ofNat 33 (field x 16 5)) else none) b.maxLength =
      time + BitVec.ofNat 33 (if field x 3 1 = 1 then min (field x 16 5) b.maxLength else b.maxLength) := by
  unfold returnTime
  by_cases given : field x 3 1 = 1
  · have small : field x 16 5 < 2 ^ 33 := Nat.lt_of_not_le fun high => good 7 ⟨given, high⟩
    rw [if_pos given, if_pos given]
    dsimp only
    rw [BitVec.toNat_ofNat, Nat.mod_eq_of_lt small]
  · rw [if_neg given, if_neg given]

/-- Settles O46: the checks in the order of R95, and the binding of R96. -/
theorem scheduleBindsTheOrder : Obligations.ScheduleBindsTheOrder := by
  unfold Obligations.ScheduleBindsTheOrder
  intro x s k rest due
  refine ⟨fun n bad => refused_of_answer rfl due (schedule_of_bad (((scheduleChecks_iff x).2 n).2 bad)),
    fun l i good named order => ?_⟩
  intro takes
  have act : schedule x { s with memReads := rest } = _ :=
    schedule_of_good (s := { s with memReads := rest }) ((scheduleChecks_iff x).1.2 good) named
  have on_taking : ∀ r o, TakesSchedule x { s with memReads := rest } l r o → ∃ time,
      scheduleTime x r o = some time := fun r o takes =>
    Option.isSome_iff_exists.1 ((scheduleTime_isSome takes.2.2.2.1).2 takes.2.2.2.2.2)
  refine ⟨fun refuses => ?_, fun ⟨r, o, taken⟩ other => ?_, fun b ⟨r, o, taken⟩ armed body lane unready => ?_,
    fun r o b time record on role valid free armed body lane ready splice => ?_⟩
  · exact refused_of_answer rfl due (act.trans (scheduleOn_of_refusing fun r o taken => refuses ⟨r, o, taken⟩))
  · obtain ⟨time, splice⟩ := on_taking r o taken
    exact refused_of_answer rfl due (act.trans
      (scheduleOn_of_other (s := { s with memReads := rest }) taken splice order other))
  · obtain ⟨time, splice⟩ := on_taking r o taken
    exact refused_of_answer rfl due (act.trans
      ((scheduleOn_of_armed (s := { s with memReads := rest }) taken splice order armed body lane).trans
        (if_neg (Bool.eq_false_iff.1 unready))))
  · have taken : TakesSchedule x { s with memReads := rest } l r o :=
      ⟨record, on, role, valid, free, (scheduleTime_isSome (r := r) valid).1 (Option.isSome_iff_exists.2 ⟨time, splice⟩)⟩
    have act := act.trans ((scheduleOn_of_armed (s := { s with memReads := rest }) taken splice order armed body lane).trans
      (if_pos ready))
    obtain ⟨u, o', move, j⟩ := bindOrder_judgement (s := { s with memReads := rest }) (l := l) (i := i) body on
      (BitVec.ofNat 32 (field x 4 4)) .scheduled time
      (if field x 3 1 = 1 then some (BitVec.ofNat 33 (field x 16 5)) else none)
    have slot := slot_of_postingOf (c := .schedule x) rfl { s with memReads := rest } k .ok 0
    have waiting := j.kept.waiting
    rw [act] at slot
    generalize bindOrder l i _ _ _ _ _ = v at act slot j
    dsimp only [boundCue] at waiting
    rw [returnTime_scheduled x time b good] at waiting
    have judged := j.judged _ r j.tables (by rw [move.lane]; exact record)
    rw [move.lane] at judged
    refine ⟨_, o', exec_of_answer rfl due act, (finishPosting_slot _ _ _ _).trans slot, j.on, waiting, j.kept.active,
      j.kept.track, j.kept.clock, j.kept.cues, (j.order i).trans move.order, fun i other => (j.order i).trans (move.others i other),
      fun m other => (j.elsewhere other).trans (move.lane m), fun c => (j.clip c).trans (move.clips c), ?_,
      j.report.trans move.report, j.alerts.trans move.alerts⟩
    exact (judged.of_agree (t := finishPosting k .ok 0 v) (.of_tables rfl rfl rfl)).of_before rfl rfl rfl rfl rfl

end Sys2Proof.Machine
end

section
/-! PROOF. The fetch scan (R67, R68) and the next packet of every fetch cursor (Table 4-5, R70, R75): O50. -/

namespace Sys2Proof.Machine

variable {s : State} {l : LaneId} {r : LaneRecord} {o : OnLane}

/-! ## The scan -/

theorem issueFor_none : issueFor l s = none ↔ prefetchToMake s l = none ∧ interjectToMake s l = none := by
  unfold issueFor
  cases prefetchToMake s l <;> cases interjectToMake s l <;> simp

theorem exec_fetchIssue (s : State) : exec .fetchIssue s = execFetchIssue s := rfl

theorem exec_fetchIssue_of_nothing (nothing : s.fetchWait.isSome = true ∨
    ∀ l, prefetchToMake s l = none ∧ interjectToMake s l = none) : exec .fetchIssue s = .next s := by
  rw [exec_fetchIssue]
  unfold execFetchIssue
  by_cases waits : s.fetchWait.isSome = true
  · exact if_pos waits
  · have none : scanFetch s = none :=
      List.findSome?_eq_none_iff.2 fun l _ => by
        rw [issueFor_none.2 (nothing.resolve_left waits l)]
        rfl
    rw [if_neg waits, none]

/-- The scan's places before place `n`, that place, and those after it. -/
theorem scanOrder_split (pos : LaneId) {n : Nat} (small : n < 64) : ∃ after, scanOrder pos =
    ((List.range n).map fun k => pos + Fin.ofNat 64 k) ++ (pos + Fin.ofNat 64 n) :: after := by
  have split : List.range 64 = List.range n ++ n :: (List.range 64).drop (n + 1) := by
    have parts := (List.range 64).take_append_drop n
    rw [List.take_range, Nat.min_eq_left small.le, List.drop_eq_getElem_cons (by rw [List.length_range]; exact small),
      List.getElem_range] at parts
    exact parts.symm
  unfold scanOrder
  rw [split, List.map_append, List.map_cons]
  exact ⟨_, rfl⟩

theorem exec_fetchIssue_of_first {n : Nat} {t : State} (free : s.fetchWait = none) (small : n < 64)
    (place : l = s.scanPos + Fin.ofNat 64 n)
    (first : ∀ m, m < n →
      prefetchToMake s (s.scanPos + Fin.ofNat 64 m) = none ∧ interjectToMake s (s.scanPos + Fin.ofNat 64 m) = none)
    (issued : issueFor l s = some t) : exec .fetchIssue s = .next { t with scanPos := l + 1 } := by
  obtain ⟨after, order⟩ := scanOrder_split s.scanPos small
  have found : scanFetch s = some (l, t) := by
    refine List.findSome?_eq_some_iff.2 ⟨_, l, after, by rw [place]; exact order, by rw [issued]; rfl, fun x isBefore => ?_⟩
    obtain ⟨m, before, same⟩ := List.mem_map.1 isBefore
    rw [← same, issueFor_none.2 (first m (List.mem_range.1 before))]
    rfl
  rw [exec_fetchIssue]
  unfold execFetchIssue
  rw [free, found]
  rfl

theorem issueFor_prefetch {f : Origin × Nat × Bool × FetchCursor} (makes : prefetchToMake s l = some f)
    (on : (s.lane l).on = some o) (turn : interjectToMake s l = none ∨ o.fetch.lastWasInterject ≠ some false) :
    issueFor l s = some (issuePrefetch l f s) := by
  unfold issueFor
  rw [makes, on, Option.bind_some]
  cases other : interjectToMake s l with
  | none => rfl
  | some i =>
    have turn := turn.resolve_left (by rw [other]; exact nofun)
    have last : o.fetch.lastWasInterject.getD true = true := by
      cases kind : o.fetch.lastWasInterject with
      | none => rfl
      | some b => cases b <;> [exact absurd kind turn; rfl]
    dsimp only
    rw [if_pos last]

theorem issueFor_interject {f : Origin × Nat × Bool × InterjectCursor} (makes : interjectToMake s l = some f)
    (on : (s.lane l).on = some o) (turn : prefetchToMake s l = none ∨ o.fetch.lastWasInterject = some false) :
    issueFor l s = some (issueInterject l f s) := by
  unfold issueFor
  rw [makes, on, Option.bind_some]
  cases other : prefetchToMake s l with
  | none => rfl
  | some i =>
    rw [turn.resolve_left (by rw [other]; exact nofun)]
    rfl

/-! ## What a lane has to make -/

theorem inFlight_flying (s : State) (l : LaneId) (i : Bool) : s.inFlight l i = (s.fetches.filter fun f =>
    decide (f.lane = l ∧ f.interject = i ∧ f.dead = false ∧
      f.gen = if i then (s.lane l).interjectGen else (s.lane l).queueGen)).length := by
  unfold State.inFlight
  refine congrArg List.length (List.filter_congr fun f _ => ?_)
  rw [Bool.eq_iff_iff]
  simp only [FetchTag.isOf, Lane.gen, Bool.and_eq_true, beq_iff_eq, Bool.not_eq_true', decide_eq_true_eq]
  tauto

theorem heldBack_iff (s : State) (l : LaneId) (i : Bool) : s.heldBack l i = true ↔ ∃ f, f ∈ s.fetches ∧ (f.dead = true ∨
    (f.lane = l ∧ f.interject = i ∧ f.gen ≠ if i then (s.lane l).interjectGen else (s.lane l).queueGen)) := by
  unfold State.heldBack
  simp only [FetchTag.isOf, Lane.gen, List.any_eq_true, Bool.or_eq_true, Bool.and_eq_true, beq_iff_eq, bne_iff_ne,
    and_assoc]

theorem prefetchToMake_iff (record : (s.lane l).record = some r) (on : (s.lane l).on = some o) (role : r.role = .output)
    (f : Origin × Nat × Bool × FetchCursor) : prefetchToMake s l = some f ↔ o.fetch.source.isSome = true ∧
      o.fetch.queue.length + s.inFlight l false < 8 ∧ ¬ s.heldBack l false = true ∧
        ∃ c, o.fetch.cursor = some c ∧ nextFetch s c = some f := by
  unfold prefetchToMake
  rw [State.onOutput_output record on role]
  dsimp only
  split
  · next may =>
    rw [Option.bind_eq_some_iff]
    exact ⟨fun next => ⟨may.1, may.2.1, may.2.2, next⟩, fun ⟨_, _, _, next⟩ => next⟩
  · next not => exact iff_of_false nofun fun ⟨source, room, clear, _⟩ => not ⟨source, room, clear⟩

theorem interjectToMake_iff (record : (s.lane l).record = some r) (on : (s.lane l).on = some o) (role : r.role = .output)
    (f : Origin × Nat × Bool × InterjectCursor) : interjectToMake s l = some f ↔
      o.fetch.interject.length + s.inFlight l true < 2 ∧ ¬ s.heldBack l true = true ∧
        ∃ c b, o.fetch.interjectCursor = some c ∧ (s.clip c.clip).body = some b ∧
          f = (.clip c.clip c.packet, b.address + 192 * c.packet, c.fresh || c.packet == 0,
            { clip := c.clip, packet := if c.packet + 1 < b.length then c.packet + 1 else 0, fresh := false }) := by
  unfold interjectToMake
  rw [State.onOutput_output record on role]
  dsimp only
  cases o.fetch.interjectCursor with
  | none => exact iff_of_false nofun fun ⟨_, _, _, _, cursor, _⟩ => nomatch cursor
  | some c =>
    dsimp only
    split
    · next may =>
      rw [Option.map_eq_some_iff]
      constructor
      · rintro ⟨b, body, rfl⟩
        exact ⟨may.1, may.2, c, b, rfl, body, by rw [stepLoop_of_body body]⟩
      · rintro ⟨-, -, _, b, ⟨⟩, body, rfl⟩
        exact ⟨b, body, by rw [stepLoop_of_body body]⟩
    · next not => exact iff_of_false nofun fun ⟨room, clear, _⟩ => not ⟨room, clear⟩

theorem toMake_of_idle (idle : s.onOutput l = none) : prefetchToMake s l = none ∧ interjectToMake s l = none := by
  unfold prefetchToMake interjectToMake
  rw [idle]
  exact ⟨rfl, rfl⟩

theorem State.onOutput_off (off : (s.lane l).on = none) : s.onOutput l = none := by
  unfold State.onOutput State.onLane
  rw [off]
  cases (s.lane l).record <;> rfl

/-! ## The next packet of a cursor (Table 4-5) -/

section
variable {b : OrderBody} {list : List ClipId} {pad : Option ClipId} {c : ClipId} {cb : ClipBody}

theorem clipLength_of_body (clip : (s.clip c).body = some cb) : clipLength s c = cb.length := by
  unfold clipLength
  rw [clip]
  rfl

theorem cursorClip_playlist {n : Nat} (source : b.source = .clips list pad) (place : list[n]? = some c) (k : Nat) :
    cursorClip b (.playlist n k) = some (c, k) := by
  unfold cursorClip
  rw [source]
  dsimp only
  rw [place]
  rfl

theorem cursorClip_pad (source : b.source = .clips list (some c)) (k : Nat) : cursorClip b (.pad k) = some (c, k) := by
  unfold cursorClip
  rw [source]
  rfl

theorem stepCursor_playlist {n : Nat} (source : b.source = .clips list pad) (place : list[n]? = some c)
    (clip : (s.clip c).body = some cb) (k : Nat) : stepCursor s b (.playlist n k) =
      if k + 1 < cb.length then .playlist n (k + 1)
      else if n + 1 < list.length then .playlist (n + 1) 0
      else if pad.isSome then .pad 0 else .exhausted := by
  unfold stepCursor
  rw [source]
  dsimp only
  rw [place]
  dsimp only
  rw [clipLength_of_body clip]

theorem stepCursor_pad (source : b.source = .clips list (some c)) (clip : (s.clip c).body = some cb) (k : Nat) :
    stepCursor s b (.pad k) = if k + 1 < cb.length then .pad (k + 1) else .pad 0 := by
  unfold stepCursor
  rw [source]
  dsimp only
  rw [clipLength_of_body clip]

theorem cursorClip_exhausted (b : OrderBody) : cursorClip b .exhausted = none := by
  unfold cursorClip
  cases b.source <;> rfl

theorem nextFetch_loop (clip : (s.clip c).body = some cb) (k : Nat) (fresh : Bool) : nextFetch s (.loop c k fresh) =
    some (.clip c k, cb.address + 192 * k, fresh || k == 0,
      .loop c (if k + 1 < cb.length then k + 1 else 0) false) := by
  unfold nextFetch
  dsimp only
  rw [clip, stepLoop_of_body clip]
  rfl

theorem nextFetch_insertion {i : OrderId} {pos : ClipCursor} {k : Nat} (body : (s.order i).body = some b)
    (names : cursorClip b pos = some (c, k)) (clip : (s.clip c).body = some cb) (fresh : Bool) :
    nextFetch s (.insertion i pos fresh) =
      some (.clip c k, cb.address + 192 * k, fresh || k == 0, .insertion i (stepCursor s b pos) false) := by
  unfold nextFetch
  dsimp only
  rw [body]
  dsimp only
  rw [names]
  dsimp only
  rw [clip]
  rfl

theorem nextFetch_exhausted (s : State) (i : OrderId) (fresh : Bool) : nextFetch s (.insertion i .exhausted fresh) = none := by
  unfold nextFetch
  dsimp only
  cases (s.order i).body with
  | none => rfl
  | some b =>
    dsimp only
    rw [cursorClip_exhausted]

theorem nextFetch_tap {u : Tap} {ru : LaneRecord} (record : (s.lane u.source).record = some ru) :
    nextFetch s (.tap u) = match u.pos with
      | .placed n (d + 1) => some (.tap u.source n, ru.base + 192 * n, u.fresh,
        .tap { u with pos := .placed ((n + 1) % ru.slots) d, fresh := false })
      | _ => none := by
  unfold nextFetch
  dsimp only
  rw [record]
  obtain ⟨source, lag, pos, fresh⟩ := u
  match pos with
  | .waiting => rfl
  | .placed n 0 => rfl
  | .placed n (d + 1) => rfl

end

/-- Settles O50. -/
theorem fetchScanIssuesTheNext : Obligations.FetchScanIssuesTheNext := by
  unfold Obligations.FetchScanIssuesTheNext
  refine ⟨fun s nothing => exec_fetchIssue_of_nothing nothing, fun s n l free small place first =>
    ⟨fun f o makes on turn => ?_, fun f o makes on turn => ?_⟩, fun s l => ?_⟩
  · rw [exec_fetchIssue_of_first free small place first (issueFor_prefetch makes on turn)]
    unfold issuePrefetch
    rw [State.modOn_put (s := { s with fetchWait := some (s.tagOf l false f.1 f.2.1 f.2.2.1, 0) }) on]
    rfl
  · rw [exec_fetchIssue_of_first free small place first (issueFor_interject makes on turn)]
    unfold issueInterject
    rw [State.modOn_put (s := { s with fetchWait := some (s.tagOf l true f.1 f.2.1 f.2.2.1, 0) }) on]
    rfl
  · intro flying outdated
    refine ⟨fun off => toMake_of_idle (State.onOutput_off off), fun r o record on => ⟨fun role => ?_, fun role =>
      ⟨fun f => ?_, fun f => ?_⟩, fun c k b fresh body => ?_, fun i b list pad n c k cb fresh body source place clip => ?_,
      fun i b list c k cb fresh body source clip => ?_, fun i fresh => ?_, fun u ru record => ?_⟩⟩
    · exact toMake_of_idle (State.onOutput_source record (by rw [role]; exact nofun))
    · rw [prefetchToMake_iff record on role, inFlight_flying, heldBack_iff]
    · rw [interjectToMake_iff record on role, inFlight_flying, heldBack_iff]
    · exact nextFetch_loop body k fresh
    · rw [nextFetch_insertion body (cursorClip_playlist source place k) clip, stepCursor_playlist source place clip]
    · rw [nextFetch_insertion body (cursorClip_pad source k) clip, stepCursor_pad source clip]
    · exact nextFetch_exhausted s i fresh
    · exact nextFetch_tap record

end Sys2Proof.Machine
end

section
/-! PROOF. The lanes of an alert's zones join it (R124, R126), and ALERT START (R119, R120): O47. -/

namespace Sys2Proof.Machine

variable {s t u : State} {l m : LaneId} {ln : Lane} {r : LaneRecord} {o o' : OnLane} {a : AlertId} {b : AlertBody}

theorem carries_iff (r : LaneRecord) (lb : Label) : r.carries lb = true ↔
    r.clockLabel = lb ∨ r.cueLabel = some lb ∨ ∃ en, en ∈ r.labelMap ∧ en.label = lb := by
  simp only [LaneRecord.carries, Bool.or_eq_true, beq_iff_eq, List.any_eq_true, or_assoc]

/-- R126: the alert is an INTERJECT alert whose label the lane carries. -/
theorem clashes_iff (r : LaneRecord) (b : AlertBody) : clashes r b = true ↔ ∃ lb n, b.mode = .interject lb n ∧
    (r.clockLabel = lb ∨ r.cueLabel = some lb ∨ ∃ en, en ∈ r.labelMap ∧ en.label = lb) := by
  unfold clashes
  cases mode : b.mode with
  | override => exact iff_of_false nofun fun ⟨_, _, other, _⟩ => nomatch other
  | interject lb n =>
    dsimp only
    rw [carries_iff]
    exact ⟨fun carried => ⟨lb, n, rfl, carried⟩, fun ⟨_, _, same, carried⟩ => by cases same; exact carried⟩

/-! ## Joins -/

/-- A new judgement sees of the lane before it only its record, counters and generations. -/
theorem StackJudged.of_before {st : List StackEntry} {ln₀ ln' : Lane} (judged : StackJudged t r st ln o ln' o')
    (record : ln.record = ln₀.record) (counts : ln.counts = ln₀.counts) (queue : ln.queueGen = ln₀.queueGen)
    (interject : ln.interjectGen = ln₀.interjectGen) : StackJudged t r st ln₀ o ln' o' := by
  refine ⟨record ▸ counts ▸ judged.kept, queue ▸ interject ▸ judged.same, fun other => ?_⟩
  obtain ⟨stack, active, emptied, gen, cursor, source⟩ := judged.changed other
  exact ⟨stack, active, emptied, interject ▸ gen, cursor, source.of_before queue rfl rfl rfl rfl⟩

/-- Lane `l`, of record `r` and context `o`, has joined alert `a`, from `u` to `t`. -/
structure Joined (a : AlertId) (b : AlertBody) (l : LaneId) (r : LaneRecord) (o : OnLane) (u t : State) (o' : OnLane) :
    Prop where
  state : t = u.put l (t.lane l) t.fetchWait
  on : (t.lane l).on = some o'
  flags : (t.lane l).flags = if clashes r b then ((u.lane l).setFlag .clash).flags else (u.lane l).flags
  track : o'.track = o.track
  tables : Agree u t
  judged : ∀ v, Agree u v → StackJudged v r (o.stack ++ [newEntry r a b]) (u.lane l) o (t.lane l) o'

theorem joinAlert_of_output (record : (u.lane l).record = some r) (on : (u.lane l).on = some o) (role : r.role = .output)
    (a : AlertId) (b : AlertBody) : ∃ o', Joined a b l r o u (joinAlert a b l u) o' := by
  unfold joinAlert
  rw [State.onOutput_output record on role]
  dsimp only
  by_cases clash : clashes r b = true
  · rw [if_pos clash]
    have lane : (u.modLane l fun ln => ln.setFlag .clash).lane l = (u.lane l).setFlag .clash := State.lane_modLane_self _ _ _
    have agree : Agree u (u.modLane l fun ln => ln.setFlag .clash) := by
      rw [State.modLane_put]
      exact .put u _ rfl rfl
    obtain ⟨o', stacked⟩ := restack_of_on (u := u.modLane l fun ln => ln.setFlag .clash) (l := l) (o := o)
      (by rw [lane]; exact on) (fun st => st ++ [newEntry r a b])
    refine ⟨o', ?_, stacked.on, ?_, stacked.track, agree.trans stacked.tables, fun v tables => ?_⟩
    · have state := stacked.state
      rw [State.modLane_put u, State.put_put] at state
      exact state
    · rw [if_pos clash, stacked.flags, lane]
    · have judged := stacked.judged v r (agree.symm.trans tables) (by rw [lane]; exact record)
      rw [lane] at judged
      exact judged.of_before rfl rfl rfl rfl
  · rw [if_neg clash]
    obtain ⟨o', stacked⟩ := restack_of_on on (fun st => st ++ [newEntry r a b])
    refine ⟨o', stacked.state, stacked.on, ?_, stacked.track, stacked.tables, fun v tables => stacked.judged v r tables record⟩
    rw [if_neg clash, stacked.flags]

theorem joinAlert_writes (a : AlertId) (b : AlertBody) (u : State) (l : LaneId) :
    Agree u (joinAlert a b l u) ∧ joinAlert a b l u = u.put l ((joinAlert a b l u).lane l) (joinAlert a b l u).fetchWait := by
  cases found : u.onOutput l with
  | none =>
    have same : joinAlert a b l u = u := by
      unfold joinAlert
      rw [found]
    rw [same]
    exact ⟨.refl u, (State.put_lane_self u l).symm⟩
  | some p =>
    obtain ⟨record, on, role⟩ := onOutput_spec.1 found
    obtain ⟨o', joined⟩ := joinAlert_of_output record on role a b
    exact ⟨joined.tables, joined.state⟩

theorem coveredLanes_nodup (s : State) (b : AlertBody) : (coveredLanes s b).Nodup := (List.nodup_finRange 64).filter _

theorem mem_coveredLanes : l ∈ coveredLanes s b ↔
    ∃ r o, (s.lane l).record = some r ∧ (s.lane l).on = some o ∧ r.role = .output ∧ b.zones.getLsbD r.zone = true := by
  unfold coveredLanes
  rw [List.mem_filter]
  cases found : s.onOutput l with
  | none =>
    refine iff_of_false (fun no => nomatch no.2) fun ⟨r, o, record, on, role, _⟩ => ?_
    rw [State.onOutput_output record on role] at found
    cases found
  | some p =>
    obtain ⟨r, o⟩ := p
    obtain ⟨record, on, role⟩ := onOutput_spec.1 found
    refine ⟨fun covers => ⟨r, o, record, on, role, covers.2⟩, fun ⟨r', o', record', on', role', covers⟩ => ?_⟩
    cases record.symm.trans record'
    exact ⟨List.mem_finRange l, covers⟩

/-! ## ALERT START -/

/-- The alert as it goes in force (R120), the lanes covered being `n`. -/
def startedAlert (b : AlertBody) (n : Nat) (now : Millis) : Alert :=
  { inForce := true, body := some b, start := now, timer := decide (0 < b.duration), served := 0, underrun := 0
    laneCount := n, fetchFault := false, lastCause := none }

/-- The state with the alert in force, its clip locked, before any lane has joined. -/
def State.inForce (s : State) (a : AlertId) (b : AlertBody) (n : Nat) : State :=
  { s with
    alerts := s.alerts.set a (startedAlert b n s.stationMs)
    forceList := s.forceList ++ [a]
    clips := s.clips.set b.clip { s.clip b.clip with locks := (s.clip b.clip).locks + 1 } }

theorem startAlert_run (a : AlertId) (b : AlertBody) (s : State) : ∃ u,
    LaneRun (fun t l => joinAlert a b l t) (coveredLanes s b) (s.inForce a b (coveredLanes s b).length) u ∧
      startAlert a b s = u.handOver (alertStartRecord a b (coveredLanes s b).length s.stationMs) := by
  have run := foldl_laneRun (fun t l => joinAlert a b l t) (fun u l => (joinAlert_writes a b u l).1)
    (fun u l => (joinAlert_writes a b u l).2) (coveredLanes s b) (s.inForce a b (coveredLanes s b).length)
    (coveredLanes_nodup s b)
  refine ⟨_, run, ?_⟩
  obtain ⟨lanes, w, rest⟩ := run.rest
  have ms := congrArg State.stationMs rest
  unfold startAlert
  exact congrArg (fun now => State.handOver _ (alertStartRecord a b (coveredLanes s b).length now)) ms

theorem alertStartOn_of_inForce {x : RecordData} (inForce : (s.alert a).inForce = true) :
    alertStartOn x a s = (s, .inUse, 0) := if_pos inForce

theorem alertStartOn_of_idle {x : RecordData} (idle : (s.alert a).inForce = false) : alertStartOn x a s =
    match firstBad (alertChecks x) with
    | some i => (s, .badField, i)
    | none =>
      if s.clipReady (alertBodyOf x).clip then (startAlert a (alertBodyOf x) s, .ok, 0) else (s, .notReady, 4) :=
  if_neg (Bool.eq_false_iff.1 idle)

theorem alertStartOn_of_bad {x : RecordData} {i : Nat} (idle : (s.alert a).inForce = false)
    (bad : firstBad (alertChecks x) = some i) : alertStartOn x a s = (s, .badField, i) := by
  rw [alertStartOn_of_idle idle, bad]

theorem alertStartOn_of_good {x : RecordData} (idle : (s.alert a).inForce = false)
    (good : firstBad (alertChecks x) = none) : alertStartOn x a s =
      if s.clipReady (alertBodyOf x).clip then (startAlert a (alertBodyOf x) s, .ok, 0) else (s, .notReady, 4) := by
  rw [alertStartOn_of_idle idle, good]

/-- Settles O47: the checks in order, and the run of joins of an accepted start. -/
theorem alertStartPutsInForce : Obligations.AlertStartPutsInForce := by
  unfold Obligations.AlertStartPutsInForce
  intro x s k rest due
  refine ⟨fun above => refused_of_answer rfl due (withAlert_of_field_gt above _ _), fun a named => ?_⟩
  have act := withAlert_of_field_eq named (alertStartOn x) { s with memReads := rest }
  have checks := alertChecks_iff x
  refine ⟨fun inForce => ?_, fun i idle bad => ?_, fun idle good unready => ?_, fun idle good ready => ?_⟩
  · exact refused_of_answer rfl due (act.trans (alertStartOn_of_inForce inForce))
  · exact refused_of_answer rfl due (act.trans (alertStartOn_of_bad (s := { s with memReads := rest }) idle ((checks.2 i).2 bad)))
  · exact refused_of_answer rfl due (act.trans
      ((alertStartOn_of_good (s := { s with memReads := rest }) idle (checks.1.2 good)).trans
        (if_neg (Bool.eq_false_iff.1 unready))))
  · intro b covered clash
    refine ⟨alertRead_of x good, ?_⟩
    have act := act.trans ((alertStartOn_of_good (s := { s with memReads := rest }) idle (checks.1.2 good)).trans
      (if_pos ready))
    have slot := slot_of_postingOf (c := .alertStart x) rfl { s with memReads := rest } k .ok 0
    obtain ⟨u, run, started⟩ := startAlert_run a b { s with memReads := rest }
    change _ = (startAlert a b _, _, _) at act
    rw [act, started] at slot
    rw [started] at act
    have tables : Agree (State.inForce { s with memReads := rest } a b (coveredLanes s b).length)
        (finishPosting k .ok 0 (u.handOver (alertStartRecord a b (coveredLanes s b).length s.stationMs))) :=
      run.tables.trans (.of_tables rfl rfl rfl)
    have joined : ∀ l r o, (s.lane l).record = some r → (s.lane l).on = some o → l ∈ coveredLanes s b → ∃ v o',
        Joined a b l r o v (joinAlert a b l v) o' ∧
        Agree (State.inForce { s with memReads := rest } a b (coveredLanes s b).length) v ∧
        v.lane l = s.lane l ∧ u.lane l = (joinAlert a b l v).lane l := by
      intro l r o record on isIn
      obtain ⟨v, agree, before, after⟩ := run.each l isIn
      obtain ⟨r', o', record', on', role, -⟩ := mem_coveredLanes.1 isIn
      cases record.symm.trans record'
      cases on.symm.trans on'
      have lane : v.lane l = s.lane l := before
      obtain ⟨o'', join⟩ := joinAlert_of_output (u := v) (by rw [lane]; exact record) (by rw [lane]; exact on) role a b
      exact ⟨v, o'', join, agree, lane, after⟩
    obtain ⟨lanes, w, left⟩ := run.rest
    have alert : ∀ c, u.alert c = if c = a then startedAlert b (coveredLanes s b).length s.stationMs else s.alert c :=
      State.alert_of_set (by rw [left]; rfl)
    have clip : ∀ c, u.clip c = if c = b.clip then { s.clip b.clip with locks := (s.clip b.clip).locks + 1 } else s.clip c :=
      State.clip_of_set (by rw [left]; rfl)
    have report : u.report = s.report := by rw [left]; rfl
    have orders : u.orders = s.orders := by rw [left]; rfl
    have forceList : u.forceList = s.forceList ++ [a] := by rw [left]; rfl
    have outside : ∀ l, l ∉ coveredLanes s b → u.lane l = s.lane l := run.elsewhere
    refine ⟨_, (coveredLanes s b).length, exec_of_answer rfl due act, (finishPosting_slot _ _ _ _).trans slot,
      ?_, ⟨coveredLanes s b, coveredLanes_nodup s b, fun l => mem_coveredLanes, rfl⟩, fun c other => ?_, ?_, fun c => ?_,
      fun l r o covers record on => ?_, fun l out => ?_, fun l => ?_, ?_, ?_⟩
    · exact (alert a).trans (if_pos rfl)
    · exact (alert c).trans (if_neg other)
    · exact forceList
    · refine (clip c).trans ?_
      split
      · next same => rw [same]
      · rfl
    · obtain ⟨v, o', join, agree, before, after⟩ := joined l r o record on (mem_coveredLanes.2 covers)
      have judged := join.judged _ (agree.symm.trans tables)
      have flags := join.flags
      have on' := join.on
      rw [before] at judged flags
      rw [← after] at judged flags on'
      refine ⟨o', newEntry r a b, on', rfl, rfl, rfl, rfl, rfl, rfl, ?_, clashes_iff r b,
        fun quiet => flags.trans (if_neg (Bool.eq_false_iff.1 quiet)), fun clashing => flags.trans (if_pos clashing), judged⟩
      unfold newEntry
      cases b.mode <;> rfl
    · exact outside l fun isIn => out (mem_coveredLanes.1 isIn)
    · by_cases isIn : l ∈ coveredLanes s b
      · obtain ⟨r, o, record, on, -, -⟩ := mem_coveredLanes.1 isIn
        obtain ⟨v, o', join, agree, before, after⟩ := joined l r o record on isIn
        change (u.lane l).on.map OnLane.track = (s.lane l).on.map OnLane.track
        rw [after, join.on, on, Option.map_some, Option.map_some, join.track]
      · change (u.lane l).on.map OnLane.track = (s.lane l).on.map OnLane.track
        rw [outside l isIn]
    · exact orders
    · exact congrArg (fun g => Report.handOver g _) report

end Sys2Proof.Machine
end

section
/-! PROOF. LANE ENABLE (R3, R113, R124, R165): O42. -/

namespace Sys2Proof.Machine

variable {s t u : State} {l m : LaneId} {r : LaneRecord} {o : OnLane} {a : AlertId} {b : AlertBody}

/-! ## The alerts an enabled lane joins -/

theorem mem_joinedAlerts : (a, b) ∈ joinedAlerts s r ↔ a ∈ s.forceList ∧ (s.alert a).body = some b ∧ b.covers r = true := by
  unfold joinedAlerts
  rw [List.mem_filterMap]
  constructor
  · rintro ⟨c, listed, joins⟩
    split at joins
    · next b' body =>
      split at joins
      · next covers => cases joins; exact ⟨listed, body, covers⟩
      · cases joins
    · cases joins
  · rintro ⟨listed, body, covers⟩
    exact ⟨a, listed, by rw [body]; exact if_pos covers⟩

theorem joinedAlerts_ids (s : State) (r : LaneRecord) : (joinedAlerts s r).map Prod.fst =
    s.forceList.filter fun a => (s.alert a).body.any fun b => b.covers r := by
  unfold joinedAlerts
  generalize s.forceList = list
  induction list with
  | nil => rfl
  | cons a list ih =>
    rw [List.filterMap_cons, List.filter_cons]
    cases (s.alert a).body with
    | none => exact ih
    | some b =>
      dsimp only [Option.any_some]
      by_cases covers : b.covers r = true
      · rw [if_pos covers, if_pos covers]
        exact congrArg (a :: ·) ih
      · rw [if_neg covers, if_neg covers]
        exact ih

/-- A run of alert changes changes the alerts alone. -/
theorem foldl_countLane_eq (xs : List (AlertId × AlertBody)) :
    ∀ t : State, ∃ alerts, xs.foldl (fun t x => t.modAlert x.1 Alert.countLane) t = { t with alerts := alerts } := by
  induction xs with
  | nil => exact fun t => ⟨t.alerts, rfl⟩
  | cons x xs ih =>
    intro t
    obtain ⟨alerts, same⟩ := ih (t.modAlert x.1 Alert.countLane)
    exact ⟨alerts, same⟩

theorem foldl_countLane_alert (a : AlertId) (xs : List (AlertId × AlertBody)) :
    ∀ t : State, (xs.map Prod.fst).Nodup → (xs.foldl (fun t x => t.modAlert x.1 Alert.countLane) t).alert a =
      if a ∈ xs.map Prod.fst then (t.alert a).countLane else t.alert a := by
  induction xs with
  | nil => exact fun t _ => rfl
  | cons x xs ih =>
    intro t distinct
    rw [List.map_cons, List.nodup_cons] at distinct
    rw [List.foldl_cons, ih _ distinct.2, State.alert_modAlert, List.map_cons]
    by_cases same : a = x.1
    · subst same
      rw [if_neg distinct.1, if_pos rfl, if_pos List.mem_cons_self]
    · rw [if_neg same]
      simp only [List.mem_cons, same, false_or]

/-! ## The lane enabled -/

/-- The context an enabled lane starts with (R165). -/
def startContext (s : State) (r : LaneRecord) : OnLane :=
  if r.role = .source then OnLane.enabled r s.stationMs
  else setSource s r (wantedSource s r (OnLane.enabledOutput s r)) (OnLane.enabledOutput s r)

/-- Lane `l` as its enable leaves it. -/
def enabledLane (l : LaneId) (r : LaneRecord) (s : State) : Lane :=
  { (if (startContext s r).stack.any StackEntry.clash then (s.lane l).setFlag .clash else s.lane l) with
    on := some (startContext s r) }

/-- The alerts a lane's enable counts it in. -/
def joinsAt (s : State) (r : LaneRecord) : List (AlertId × AlertBody) :=
  if r.role = .source then [] else joinedAlerts s r

/-- What LANE ENABLE does to the part. -/
structure LaneEnabled (l : LaneId) (r : LaneRecord) (s t : State) : Prop where
  rest : ∃ lanes alerts clips, t = { s with lanes := lanes, alerts := alerts, clips := clips }
  lane : t.lane l = enabledLane l r s
  elsewhere : ∀ m, m ≠ l → t.lane m = s.lane m
  alerts : ((joinsAt s r).map Prod.fst).Nodup → ∀ a, t.alert a =
    if a ∈ (joinsAt s r).map Prod.fst then (s.alert a).countLane else s.alert a
  clips : ∀ c, t.clip c = if r.role = .output ∧ r.lossSource = .slate c
    then { s.clip c with locks := (s.clip c).locks + 1 } else s.clip c

theorem slateOf_eq_some {c : ClipId} : slateOf r = some c ↔ r.role = .output ∧ r.lossSource = .slate c := by
  unfold slateOf
  split
  · next role source =>
    rw [role, source, Option.some.injEq, LossSource.slate.injEq]
    exact ⟨fun same => ⟨rfl, same⟩, fun both => both.2⟩
  · next other => exact iff_of_false nofun fun both => other c both.1 both.2

theorem enableAccepted_enabled (l : LaneId) (r : LaneRecord) (s : State) : LaneEnabled l r s (enableAccepted l r s) := by
  unfold enableAccepted
  by_cases role : r.role = .source
  · have joins : joinsAt s r = [] := if_pos role
    have context : startContext s r = OnLane.enabled r s.stationMs := if_pos role
    have lane : enabledLane l r s = { s.lane l with on := some (OnLane.enabled r s.stationMs) } := by
      unfold enabledLane
      rw [context]
      rfl
    rw [if_pos role]
    refine ⟨⟨_, _, _, rfl⟩, ?_, fun m other => State.lane_modLane_ne _ _ other, fun _ a => ?_, fun c => ?_⟩
    · rw [State.lane_modLane_self, lane]
    · rw [joins]; rfl
    · rw [if_neg fun both => by rw [role] at both; exact nomatch both.1]; rfl
  · have joins : joinsAt s r = joinedAlerts s r := if_neg role
    have context : startContext s r = setSource s r (wantedSource s r (OnLane.enabledOutput s r)) (OnLane.enabledOutput s r) :=
      if_neg role
    rw [if_neg role]
    dsimp only
    generalize written : s.modLane l _ = v
    have onWritten : v = { s with lanes := s.lanes.set l (enabledLane l r s) } := by
      rw [← written]
      unfold enabledLane
      rw [context]
      rfl
    obtain ⟨alerts, counted⟩ := foldl_countLane_eq (joinedAlerts s r) v
    have alert := fun a => foldl_countLane_alert a (joinedAlerts s r) v
    generalize (joinedAlerts s r).foldl (fun t x => t.modAlert x.1 Alert.countLane) v = w at counted alert ⊢
    have wLane : ∀ m, w.lane m = if m = l then enabledLane l r s else s.lane m := fun m => by
      rw [counted, onWritten]
      exact State.lane_setLane s l m _
    have wClip : ∀ c, w.clip c = s.clip c := fun c => by rw [counted, onWritten]; rfl
    have vAlert : ∀ a, v.alert a = s.alert a := fun a => by rw [onWritten]; rfl
    have eachAlert : ((joinedAlerts s r).map Prod.fst).Nodup → ∀ a, w.alert a =
        if a ∈ (joinedAlerts s r).map Prod.fst then (s.alert a).countLane else s.alert a := fun distinct a => by
      rw [alert a distinct, vAlert]
    have rest : ∃ lanes alerts, w = { s with lanes := lanes, alerts := alerts } := ⟨_, alerts, by rw [counted, onWritten]⟩
    obtain ⟨lanes, alerts, wRest⟩ := rest
    cases slate : slateOf r with
    | none =>
      refine ⟨⟨lanes, alerts, _, wRest⟩, (wLane l).trans (if_pos rfl), fun m other => (wLane m).trans (if_neg other),
        by rw [joins]; exact eachAlert, fun c => ?_⟩
      rw [if_neg fun both => by rw [slateOf_eq_some.2 both] at slate; cases slate]
      exact wClip c
    | some k =>
      have both := slateOf_eq_some.1 slate
      refine ⟨⟨lanes, alerts, _, by rw [wRest]; rfl⟩, (wLane l).trans (if_pos rfl),
        fun m other => (wLane m).trans (if_neg other), by rw [joins]; exact eachAlert, fun c => ?_⟩
      have clip := State.clip_modClip w k c fun x => { x with locks := x.locks + 1 }
      refine clip.trans ?_
      rw [wClip, wClip]
      by_cases same : c = k
      · subst same; rw [if_pos rfl, if_pos both]
      · rw [if_neg same, if_neg fun other => same (LossSource.slate.inj (both.2.symm.trans other.2)).symm]

/-! ## The context an enabled lane starts with -/

theorem startContext_stack (s : State) (r : LaneRecord) :
    (startContext s r).stack = (joinsAt s r).map fun x => newEntry r x.1 x.2 := by
  unfold startContext joinsAt
  split <;> rfl

theorem startContext_interjectCursor (s : State) (r : LaneRecord) : (startContext s r).fetch.interjectCursor =
    interjectStart s (effectiveEntry s (startContext s r).stack) := by
  unfold startContext
  split <;> rfl

theorem startContext_source (role : r.role = .output) :
    (startContext s r).fetch.source = wantedSource s r (startContext s r) ∧
      (startContext s r).fetch.cursor = (wantedSource s r (startContext s r)).bind (placeCursor s r (startContext s r)) := by
  have context : startContext s r = setSource s r (wantedSource s r (OnLane.enabledOutput s r)) (OnLane.enabledOutput s r) :=
    if_neg (by rw [role]; exact nofun)
  rw [context]
  exact ⟨rfl, rfl⟩

theorem startContext_of_source (role : r.role = .source) : startContext s r = OnLane.enabled r s.stationMs := if_pos role

theorem startContext_idle (s : State) (r : LaneRecord) : (startContext s r).active = none := by
  unfold startContext
  split <;> rfl

theorem startContext_recovering (s : State) (r : LaneRecord) : (startContext s r).feed = Feed.enabled s.stationMs := by
  unfold startContext
  split <;> rfl

/-- A lane enabled under no OVERRIDE alert fetches for its loss source (R113, R165). -/
theorem startContext_plain (role : r.role = .output) (plain : overrideEffective s (startContext s r).stack = false) :
    (startContext s r).fetch.source = (if r.lossSource = .filler then none else some .loss) := by
  have idle : ∀ x, (startContext s r).active = some x → x.suspended = true := by
    rw [startContext_idle]
    exact nofun
  rw [(startContext_source role).1, wantedSource_of_plain plain, wantedBelow_of_idle idle, startContext_recovering]
  exact if_pos nofun

theorem placeTap_of_on {src : LaneId} {rs : LaneRecord} {os : OnLane} (record : (s.lane src).record = some rs)
    (on : (s.lane src).on = some os) (lag : Nat) : placeTap s src lag =
      { source := src, lag := lag, fresh := true
        pos := match os.track.ingest with
          | .synchronised i _ => .placed
            ((i + rs.slots - min (lag + 1) (min os.track.fill (rs.slots - 9))) % rs.slots)
            (min (lag + 1) (min os.track.fill (rs.slots - 9)))
          | .unsynchronised => .waiting } := by
  have onLane : s.onLane src = some (rs, os) := by unfold State.onLane; rw [record, on]
  unfold placeTap
  rw [onLane]
  dsimp only
  cases os.track.ingest <;> rfl

/-- A lane enabled under an OVERRIDE alert fetches that alert's clip from packet 0. -/
theorem startContext_override {e : StackEntry} (effective : effectiveEntry s (startContext s r).stack = some e)
    (body : (s.alert e.id).body = some b) (override : b.mode = .override) :
    (startContext s r).fetch.source = some (.alert e.id) ∧
      (startContext s r).fetch.cursor = some (.loop b.clip 0 true) := by
  have overrides : isOverride s e.id = true := by
    unfold isOverride
    rw [body]
    exact beq_iff_eq.2 override
  have role : r.role = .output := by
    cases role : r.role with
    | output => rfl
    | source =>
      rw [startContext_of_source role] at effective
      cases effective
  obtain ⟨source, cursor⟩ := startContext_source (s := s) role
  rw [wantedSource_of_override effective overrides] at source cursor
  refine ⟨source, cursor.trans ?_⟩
  change (s.alert e.id).body.map _ = _
  rw [body]
  rfl

theorem startContext_none (plain : overrideEffective s (startContext s r).stack = false)
    (none_ : r.role = .source ∨ r.lossSource = .filler) :
    (startContext s r).fetch.source = none ∧ (startContext s r).fetch.cursor = none := by
  cases role : r.role with
  | source =>
    rw [startContext_of_source role]
    exact ⟨rfl, rfl⟩
  | output =>
    have filler := none_.resolve_left (by rw [role]; exact nofun)
    have source := startContext_plain role plain
    rw [if_pos filler] at source
    refine ⟨source, ?_⟩
    rw [(startContext_source role).2, ← (startContext_source role).1, source]
    rfl

theorem startContext_loss (plain : overrideEffective s (startContext s r).stack = false) (role : r.role = .output)
    (source : r.lossSource ≠ .filler) : (startContext s r).fetch.source = some .loss ∧
      (startContext s r).fetch.cursor = placeCursor s r (startContext s r) .loss := by
  have fetched := startContext_plain role plain
  rw [if_neg source] at fetched
  refine ⟨fetched, ?_⟩
  rw [(startContext_source role).2, ← (startContext_source role).1, fetched]
  rfl

theorem startContext_slate {c : ClipId} (plain : overrideEffective s (startContext s r).stack = false)
    (role : r.role = .output) (slate : r.lossSource = .slate c) : (startContext s r).fetch.source = some .loss ∧
      (startContext s r).fetch.cursor = some (.loop c 0 true) := by
  obtain ⟨source, cursor⟩ := startContext_loss plain role (by rw [slate]; exact nofun)
  refine ⟨source, cursor.trans ?_⟩
  unfold placeCursor
  dsimp only
  rw [slate]

theorem startContext_backup {src : LaneId} {mode : StampMode} {lag : Nat} {rs : LaneRecord} {os : OnLane}
    (plain : overrideEffective s (startContext s r).stack = false) (role : r.role = .output)
    (backup : r.lossSource = .backup src mode lag) (record : (s.lane src).record = some rs)
    (on : (s.lane src).on = some os) : (startContext s r).fetch.source = some .loss ∧
      let behind := min (lag + 1) (min os.track.fill (rs.slots - 9))
      (startContext s r).fetch.cursor = some (.tap
        { source := src, lag := lag, fresh := true
          pos := match os.track.ingest with
            | .synchronised i _ => .placed ((i + rs.slots - behind) % rs.slots) behind
            | .unsynchronised => .waiting }) := by
  obtain ⟨source, cursor⟩ := startContext_loss plain role (by rw [backup]; exact nofun)
  refine ⟨source, cursor.trans ?_⟩
  unfold placeCursor
  dsimp only
  rw [backup]
  dsimp only
  rw [placeTap_of_on record on]

/-! ## The checks -/

theorem enableLane_of_unset (unset : (s.lane l).record = none ∨ (s.lane l).on.isSome = true) :
    enableLane l s = (s, .badState, 0) := by
  unfold enableLane
  cases record : (s.lane l).record with
  | none => rfl
  | some r => exact if_pos (unset.resolve_left (by rw [record]; exact nofun))

theorem enableLane_of_off (record : (s.lane l).record = some r) (off : (s.lane l).on = none) : enableLane l s =
    match lossNotReady s r with
    | some i => (s, .notReady, i)
    | none => (enableAccepted l r s, .ok, 0) := by
  unfold enableLane
  rw [record]
  exact if_neg (by rw [off]; exact Bool.false_ne_true)

theorem lossNotReady_of_slate {c : ClipId} (role : r.role = .output) (slate : r.lossSource = .slate c)
    (missing : (s.clip c).body = none) : lossNotReady s r = some 16 := by
  unfold lossNotReady
  rw [if_neg (by rw [role]; exact nofun), slate]
  exact if_neg (by unfold State.clipReady; rw [missing]; exact Bool.false_ne_true)

theorem lossNotReady_of_backup {src : LaneId} {mode : StampMode} {lag : Nat} (role : r.role = .output)
    (backup : r.lossSource = .backup src mode lag) (missing : s.isOnSource src = false) : lossNotReady s r = some 17 := by
  unfold lossNotReady
  rw [if_neg (by rw [role]; exact nofun), backup]
  exact if_neg (Bool.eq_false_iff.1 missing)

theorem lossNotReady_of_ready (slate : r.role = .output → ∀ c, r.lossSource = .slate c → (s.clip c).body.isSome = true)
    (backup : r.role = .output → ∀ src mode lag, r.lossSource = .backup src mode lag → s.isOnSource src = true) :
    lossNotReady s r = none := by
  unfold lossNotReady
  by_cases role : r.role = .source
  · exact if_pos role
  · have role : r.role = .output := by cases h : r.role <;> [rfl; exact absurd h role]
    rw [if_neg (by rw [role]; exact nofun)]
    cases source : r.lossSource with
    | filler => rfl
    | slate c => exact if_pos (slate role c source)
    | backup src mode lag => exact if_pos (backup role src mode lag source)

theorem mem_joinsAt : (a, b) ∈ joinsAt s r ↔
    r.role = .output ∧ a ∈ s.forceList ∧ (s.alert a).body = some b ∧ b.zones.getLsbD r.zone = true := by
  unfold joinsAt
  by_cases role : r.role = .source
  · rw [if_pos role]
    exact iff_of_false List.not_mem_nil fun joins => by rw [role] at joins; exact nomatch joins.1
  · have output : r.role = .output := by cases h : r.role <;> [rfl; exact absurd h role]
    rw [if_neg role, mem_joinedAlerts]
    exact ⟨fun joins => ⟨output, joins⟩, fun joins => joins.2⟩

theorem joinsAt_ids (s : State) (r : LaneRecord) : (joinsAt s r).map Prod.fst = if r.role = .source then [] else
    s.forceList.filter fun a => (s.alert a).body.any fun b => b.zones.getLsbD r.zone := by
  unfold joinsAt
  split
  · rfl
  · exact joinedAlerts_ids s r

/-- What the enabled context holds beside its stack, its interject cursor and its fetch source (Table 8-5, R103, R165). -/
theorem startContext_fresh (s : State) (r : LaneRecord) :
    (startContext s r).track = Tracker.enabled r ∧ (startContext s r).clock = .unset ∧ (startContext s r).cues = [] ∧
      (startContext s r).active = none ∧ (startContext s r).waiting = none ∧
      (startContext s r).feed = Feed.enabled s.stationMs ∧ (startContext s r).fetch.queue = [] ∧
      (startContext s r).fetch.interject = [] ∧ (startContext s r).sel = (OnLane.enabled r s.stationMs).sel := by
  unfold startContext
  split <;> exact ⟨rfl, rfl, rfl, rfl, rfl, rfl, rfl, rfl, rfl⟩

/-- Every entry an enabled lane starts with is one its join pushes (R124). -/
theorem startContext_entry {z : StackEntry} (isIn : z ∈ (startContext s r).stack) :
    ∃ a b, (a, b) ∈ joinsAt s r ∧ z = newEntry r a b := by
  rw [startContext_stack] at isIn
  obtain ⟨⟨a, b⟩, joins, rfl⟩ := List.mem_map.1 isIn
  exact ⟨a, b, joins, rfl⟩

theorem startContext_clashes (s : State) (r : LaneRecord) : (startContext s r).stack.any StackEntry.clash = true ↔
    ∃ a b, (a, b) ∈ joinsAt s r ∧ clashes r b = true := by
  rw [startContext_stack, List.any_map, List.any_eq_true]
  exact ⟨fun ⟨x, joins, clash⟩ => ⟨x.1, x.2, joins, clash⟩, fun ⟨a, b, joins, clash⟩ => ⟨(a, b), joins, clash⟩⟩

theorem enabledLane_kept (l : LaneId) (r : LaneRecord) (s : State) :
    (enabledLane l r s).record = (s.lane l).record ∧ (enabledLane l r s).counts = (s.lane l).counts ∧
      (enabledLane l r s).queueGen = (s.lane l).queueGen ∧ (enabledLane l r s).interjectGen = (s.lane l).interjectGen ∧
      (enabledLane l r s).on = some (startContext s r) ∧ (enabledLane l r s).flags =
        if (startContext s r).stack.any StackEntry.clash then ((s.lane l).setFlag .clash).flags else (s.lane l).flags := by
  unfold enabledLane
  split <;> exact ⟨rfl, rfl, rfl, rfl, rfl, rfl⟩

/-- Settles O42. -/
theorem laneEnableStartsTheLane : Obligations.LaneEnableStartsTheLane := by
  unfold Obligations.LaneEnableStartsTheLane
  intro x s k rest due
  have act : ∀ l : LaneId, field x 0 1 = l.val → withLane x enableLane { s with memReads := rest } = _ := fun l named =>
    withLane_of_field_eq named enableLane { s with memReads := rest }
  refine ⟨fun above => refused_of_answer rfl due (withLane_of_field_gt above _ _),
    fun l named unset => refused_of_answer rfl due ((act l named).trans (enableLane_of_unset unset)),
    fun l r named record off => ?_⟩
  have act := (act l named).trans (enableLane_of_off (s := { s with memReads := rest }) record off)
  refine ⟨fun c role slate missing => ?_, fun b m n role backup missing => ?_, fun slate backup => ?_⟩
  · rw [lossNotReady_of_slate (s := { s with memReads := rest }) role slate missing] at act
    exact refused_of_answer rfl due act
  · rw [lossNotReady_of_backup (s := { s with memReads := rest }) role backup missing] at act
    exact refused_of_answer rfl due act
  · intro joins clash
    rw [lossNotReady_of_ready (s := { s with memReads := rest }) slate backup] at act
    have enabled := enableAccepted_enabled l r { s with memReads := rest }
    have slot := slot_of_postingOf (c := .laneEnable x) rfl { s with memReads := rest } k .ok 0
    rw [act] at slot
    generalize enableAccepted l r { s with memReads := rest } = t at act enabled slot
    obtain ⟨track, clock, cues, active, waiting, feed, queue, interject, sel⟩ :=
      startContext_fresh { s with memReads := rest } r
    obtain ⟨record', counts, queueGen, interjectGen, on, flags⟩ := enabledLane_kept l r { s with memReads := rest }
    rw [← enabled.lane] at record' counts queueGen interjectGen on flags
    have member : ∀ a b, (a, b) ∈ joinsAt { s with memReads := rest } r ↔ joins a b := fun a b => mem_joinsAt
    have clashing := startContext_clashes { s with memReads := rest } r
    obtain ⟨lanes, alerts, clips, same⟩ := enabled.rest
    have ids := joinsAt_ids { s with memReads := rest } r
    have unique : s.forceList.Nodup → ((joinsAt { s with memReads := rest } r).map Prod.fst).Nodup := fun distinct => by
      rw [ids]
      split
      · exact List.nodup_nil
      · exact distinct.filter _
    refine ⟨_, startContext { s with memReads := rest } r, exec_of_answer rfl due act,
      (finishPosting_slot _ _ _ _).trans slot, on, track, clock, cues, active, waiting, feed, queue, interject,
      congrArg Selector.served sel, congrArg Selector.away sel, congrArg Selector.lossRun sel,
      congrArg Selector.continuity sel, ?_, fun z isIn => ?_, fun distinct a => ⟨fun joined => ?_, fun apart => ?_⟩,
      fun ⟨a, b, joined, clash⟩ => ?_, fun quiet => ?_, ?_, fun e b effective body override => ?_, fun plain => ⟨?_, ?_, ?_⟩,
      record'.trans record, counts, queueGen, interjectGen, enabled.elsewhere, ?_, ?_, ?_, enabled.clips, ?_, ?_, ?_⟩
    · rw [startContext_stack, List.map_map]
      exact ids
    · obtain ⟨a, b, joined, rfl⟩ := startContext_entry isIn
      refine ⟨b, (member a b).1 joined, rfl, rfl, rfl, rfl, rfl, clashes_iff r b, ?_⟩
      unfold newEntry
      cases b.mode <;> rfl
    · obtain ⟨b, joined⟩ := joined
      refine (enabled.alerts (unique distinct) a).trans ((if_pos (List.mem_map.2 ⟨(a, b), (member a b).2 joined, rfl⟩)).trans ?_)
      unfold Alert.countLane
      rw [heldAt_eq_min]
      rfl
    · refine (enabled.alerts (unique distinct) a).trans (if_neg fun isIn => ?_)
      obtain ⟨⟨c, b⟩, joined, rfl⟩ := List.mem_map.1 isIn
      exact apart b ((member c b).1 joined)
    · exact flags.trans (if_pos (clashing.2 ⟨a, b, (member a b).2 joined, (clashes_iff r b).2 clash⟩))
    · refine flags.trans (if_neg fun any => ?_)
      obtain ⟨a, b, joined, clash⟩ := clashing.1 any
      exact quiet a b ((member a b).1 joined) ((clashes_iff r b).1 clash)
    · rw [startContext_interjectCursor]
      exact interjectStart_eq (.refl _) _
    · exact startContext_override (s := { s with memReads := rest }) effective body override
    · exact fun none_ => startContext_none (s := { s with memReads := rest }) plain none_
    · exact fun c role slate => startContext_slate (s := { s with memReads := rest }) plain role slate
    · exact fun b m n rb ob role backup record on =>
        startContext_backup (s := { s with memReads := rest }) plain role backup record on
    · rw [same]; rfl
    · rw [same]; rfl
    · rw [same]; rfl
    · rw [same]; exact ⟨rfl, rfl, rfl, rfl, rfl, rfl, rfl, rfl, rfl⟩
    · rw [same]; rfl
    · rw [same]; rfl

end Sys2Proof.Machine
end

section
/-! PROOF. LANE DISABLE (R4, R97, R114, R166): O43. -/

namespace Sys2Proof.Machine

variable {s t u : State} {l m : LaneId} {r : LaneRecord} {o o' : OnLane} {i : Option OrderId} {f : Order → Order}

/-! ## A lane lets an order go -/

/-- From `s` to `t` lane `l`, of context `o` before and `o'` after, has let order `i` go, where there is one: the order changed by
`f`, its clips released once each. -/
structure LetsGo (l : LaneId) (o' : OnLane) (i : Option OrderId) (f : Order → Order) (s t : State) : Prop where
  rest : ∃ lanes w orders clips report,
    t = { s with lanes := lanes, fetchWait := w, orders := orders, clips := clips, report := report }
  lane : ∃ g, t.lane l = { s.lane l with queueGen := g, on := some o' }
  elsewhere : ∀ m, m ≠ l → t.lane m = s.lane m
  order : ∀ j, t.order j = if some j = i then f (s.order j) else s.order j
  clips : ∀ c, t.clip c = { s.clip c with locks := (s.clip c).locks - if c ∈ heldClips s i then 1 else 0 }

theorem LetsGo.nothing (on : (s.lane l).on = some o) (f : Order → Order) : LetsGo l o none f s s := by
  refine ⟨⟨_, _, _, _, _, rfl⟩, ⟨(s.lane l).queueGen, by rw [← on]⟩, fun _ _ => rfl, fun j => (if_neg nofun).symm, fun c => ?_⟩
  rw [if_neg (show c ∉ heldClips s none from List.not_mem_nil), Nat.sub_zero]

theorem letsGo_of_move {v : State} {k : OrderId} {x : OnLane} (same : ∃ report, v = { s with report := report })
    (move : OrderMove v u k (f (v.order k)) (heldClips v (some k)) (· - 1)) (j : Judgement u l x t o') :
    LetsGo l o' (some k) f s t := by
  obtain ⟨report, rfl⟩ := same
  obtain ⟨orders, clips, moved⟩ := move.rest
  have lane : u.lane l = s.lane l := move.lane l
  refine ⟨⟨t.lanes, t.fetchWait, orders, clips, report, ?_⟩, ⟨(t.lane l).queueGen, ?_⟩,
    fun m other => (j.elsewhere other).trans (move.lane m), fun i => ?_, fun c => ?_⟩
  · have state := j.state
    rw [moved] at state
    rw [state]
    rfl
  · rw [← lane]
    exact j.lane
  · rw [j.order]
    by_cases same : i = k
    · subst same; rw [if_pos rfl]; exact move.order
    · rw [if_neg fun eq => same (Option.some.inj eq)]
      exact move.others i same
  · rw [j.clip, move.clips]
    by_cases held : c ∈ heldClips { s with report := report } (some k)
    · rw [if_pos held, if_pos (show c ∈ heldClips s (some k) from held)]; rfl
    · rw [if_neg held, if_neg (show c ∉ heldClips s (some k) from held)]; rfl

/-- The lane's active insertion, where there is one, ended as INSERT_ABORTED (R97). -/
theorem abortActive_letsGo (on : (s.lane l).on = some o) : ∃ o',
    LetsGo l o' (o.active.map ActiveInsertion.order) leftActive s (abortActive l r s) ∧ o'.waiting = o.waiting ∧
      (abortActive l r s).report = match o.active with
        | some a => s.report.handOver
          (endedRecord s l a .insertAborted ((presentation o.clock r.playDelay o.track.prevStamp).getD a.ret))
        | none => s.report := by
  unfold abortActive
  rw [on]
  dsimp only
  cases o.active with
  | none => exact ⟨o, .nothing on _, rfl, rfl⟩
  | some a =>
    obtain ⟨u, o', move, j⟩ := endInsertion_judgement (l := l) a .insertAborted
      (presentation o.clock r.playDelay o.track.prevStamp) on
    exact ⟨o', letsGo_of_move ⟨_, rfl⟩ move j, j.kept.waiting, j.report.trans move.report⟩

/-- The lane's waiting cue, where there is one, removed (R97). -/
theorem dropWaiting_letsGo (on : (s.lane l).on = some o) : ∃ o',
    LetsGo l o' (o.waiting.map WaitingCue.order) (fun x => { x with state := .armed }) s (dropWaiting l s) ∧
      (dropWaiting l s).report = s.report := by
  unfold dropWaiting
  rw [on, Option.bind_some]
  cases o.waiting with
  | none => exact ⟨o, .nothing on _, rfl⟩
  | some w =>
    obtain ⟨u, o', move, j⟩ := removeWaiting_judgement (l := l) w on
    exact ⟨o', letsGo_of_move ⟨_, rfl⟩ move j, j.report.trans move.report⟩

/-! ## The lane OFF (R166) -/

theorem disableRest_clip (l : LaneId) (r : LaneRecord) (s : State) (c : ClipId) : (disableRest l r s).clip c =
    { s.clip c with
      locks := (s.clip c).locks - if r.role = .output ∧ r.lossSource = .slate c then 1 else 0 } := by
  unfold disableRest
  cases slate : slateOf r with
  | none => rw [if_neg fun both => by rw [slateOf_eq_some.2 both] at slate; cases slate]; rfl
  | some k =>
    have both := slateOf_eq_some.1 slate
    refine (State.clip_modClip s k c fun x => { x with locks := x.locks - 1 }).trans ?_
    by_cases same : c = k
    · subst same; rw [if_pos rfl, if_pos both]
    · rw [if_neg same, if_neg fun other => same (LossSource.slate.inj (both.2.symm.trans other.2)).symm]
      rfl

theorem disableRest_rest (l : LaneId) (r : LaneRecord) (s : State) : ∃ clips w, disableRest l r s = { s with
    clips := clips, fetchWait := w
    upOrder := plainUps (Serve.ofLane l) s.upOrder, memReads := plainReads (Serve.ofLane l) s.memReads } := by
  unfold disableRest
  cases slateOf r with
  | none => exact ⟨_, _, rfl⟩
  | some c => exact ⟨_, _, rfl⟩

/-! ## The lanes and orders that name a source (R114) -/

theorem laneInUse_iff : laneInUse s l = true ↔
    (∃ m rm om mode lag, (s.lane m).record = some rm ∧ (s.lane m).on = some om ∧ rm.role = .output ∧
      rm.lossSource = .backup l mode lag) ∨
    ∃ i b mode lag, ((s.order i).state = .bound ∨ (s.order i).state = .active) ∧ (s.order i).body = some b ∧
      b.source = .live l mode lag := by
  unfold laneInUse
  rw [Bool.or_eq_true]
  refine or_congr ?_ ?_
  · rw [List.any_eq_true]
    constructor
    · rintro ⟨m, -, names⟩
      split at names
      · next rm om found =>
        obtain ⟨record, on, role⟩ := onOutput_spec.1 found
        split at names
        · next src mode lag backup =>
          cases eq_of_beq names
          exact ⟨m, rm, om, mode, lag, record, on, role, backup⟩
        · cases names
      · cases names
    · rintro ⟨m, rm, om, mode, lag, record, on, role, backup⟩
      refine ⟨m, List.mem_finRange m, ?_⟩
      rw [State.onOutput_output record on role]
      dsimp only
      rw [backup]
      exact beq_self_eq_true l
  · rw [List.any_eq_true]
    constructor
    · rintro ⟨x, listed, names⟩
      obtain ⟨i, small, rfl⟩ := List.getElem_of_mem listed
      have size : i < 256 := by simpa using small
      have order : s.orders.toList[i] = s.order ⟨i, size⟩ := by simp [State.order]
      rw [order, Bool.and_eq_true, Bool.or_eq_true, beq_iff_eq, beq_iff_eq] at names
      obtain ⟨held, names⟩ := names
      cases body : (s.order ⟨i, size⟩).body with
      | none => rw [body] at names; cases names
      | some b =>
        rw [body] at names
        cases source : b.source with
        | clips list pad => simp [source] at names
        | live src mode lag =>
          have same : src = l := by simpa [source] using names
          exact ⟨⟨i, size⟩, b, mode, lag, held, body, by rw [source, same]⟩
    · rintro ⟨i, b, mode, lag, held, body, source⟩
      refine ⟨s.order i, by simp [State.order], ?_⟩
      rw [Bool.and_eq_true, Bool.or_eq_true, beq_iff_eq, beq_iff_eq]
      refine ⟨held, ?_⟩
      rw [body, Option.map_some, source]
      exact beq_self_eq_true l

theorem disableLane_of_off (off : (s.lane l).on = none) : disableLane l s = (s, .badState, 0) := by
  have onLane : s.onLane l = none := by
    unfold State.onLane
    rw [off]
    cases (s.lane l).record <;> rfl
  unfold disableLane
  rw [onLane]

theorem disableLane_of_on (record : (s.lane l).record = some r) (on : (s.lane l).on = some o) : disableLane l s =
    if r.role = .source ∧ laneInUse s l then (s, .inUse, 0) else (disableAccepted l r s, .ok, 0) := by
  have onLane : s.onLane l = some (r, o) := by unfold State.onLane; rw [record, on]
  unfold disableLane
  rw [onLane]

/-- Settles O43. -/
theorem laneDisableStopsTheLane : Obligations.LaneDisableStopsTheLane := by
  unfold Obligations.LaneDisableStopsTheLane
  intro x s k rest due
  refine ⟨fun above => refused_of_answer rfl due (withLane_of_field_gt above _ _), fun l named => ?_⟩
  intro inUse
  have act := withLane_of_field_eq named disableLane { s with memReads := rest }
  refine ⟨fun off => refused_of_answer rfl due (act.trans (disableLane_of_off off)), fun r o record on => ?_⟩
  have act := act.trans (disableLane_of_on (s := { s with memReads := rest }) record on)
  have uses : laneInUse { s with memReads := rest } l = true ↔ inUse := laneInUse_iff
  refine ⟨fun role used => ?_, fun free => ?_⟩
  · exact refused_of_answer rfl due (act.trans (if_pos ⟨role, uses.2 used⟩))
  · have act := act.trans (if_neg fun both => free.elim (fun output => by rw [output] at both; exact nomatch both.1)
      fun none_ => none_ (uses.1 both.2))
    have slot := slot_of_postingOf (c := .laneDisable x) rfl { s with memReads := rest } k .ok 0
    rw [act] at slot
    obtain ⟨o₁, aborted, waits, report₁⟩ := abortActive_letsGo (s := { s with memReads := rest }) (r := r) on
    have same := disableAccepted_rest l r { s with memReads := rest }
    generalize abortActive l r { s with memReads := rest } = s₁ at aborted report₁ same
    obtain ⟨g₁, lane₁⟩ := aborted.lane
    obtain ⟨o₂, dropped, report₂⟩ := dropWaiting_letsGo (s := s₁) (l := l) (o := o₁) (by rw [lane₁])
    generalize dropWaiting l s₁ = s₂ at dropped report₂ same
    obtain ⟨g₂, lane₂⟩ := dropped.lane
    obtain ⟨clips, w, off⟩ := disableRest_rest l r s₂
    have clip := disableRest_clip l r s₂
    generalize disableRest l r s₂ = s₃ at off clip same
    rw [same] at act slot
    rw [waits] at dropped
    obtain ⟨_, _, _, _, _, rest₁⟩ := aborted.rest
    obtain ⟨_, _, _, _, _, rest₂⟩ := dropped.rest
    have lane₃ : s₃.lane l = { s.lane l with queueGen := g₂, on := some o₂ } := by
      have inner : s₃.lane l = s₂.lane l := by rw [off]; rfl
      rw [inner, lane₂, lane₁]
      rfl
    have laneOff := State.lane_modLane_self s₃ l (Lane.turnOff (s.lane l))
    rw [lane₃] at laneOff
    have report : s₃.report = s₁.report := by rw [off]; exact report₂
    have order₃ : ∀ j, s₃.order j = s₂.order j := fun j => by rw [off]; rfl
    refine ⟨_, exec_of_answer rfl due act, (finishPosting_slot _ _ _ _).trans slot, congrArg Lane.on laneOff,
      (congrArg Lane.record laneOff).trans record, (congrArg Lane.counts laneOff :), (congrArg Lane.flags laneOff :),
      congrArg Lane.queueGen laneOff, congrArg Lane.interjectGen laneOff, ?_, ?_, fun m other => ?_, ?_, ?_, ?_, fun idle => ?_,
      fun a active => ?_, fun idle free => ?_, fun distinct => ⟨fun a active => ?_, fun w waiting => ?_,
      fun j notActive notWaiting => ?_, fun c => ?_⟩⟩
    · change s₃.upOrder = _
      rw [off, rest₂, rest₁]
    · change s₃.memReads = _
      rw [off, rest₂, rest₁]
    · refine (State.lane_modLane_ne s₃ _ other).trans ?_
      have inner : s₃.lane m = s₂.lane m := by rw [off]; rfl
      rw [inner, dropped.elsewhere m other, aborted.elsewhere m other]
      rfl
    · change s₃.alerts = _
      rw [off, rest₂, rest₁]
    · change s₃.forceList = _
      rw [off, rest₂, rest₁]
    · change s₃.queue = _
      rw [off, rest₂, rest₁]
    · change s₃.report = _
      rw [report, report₁, idle]
    · change s₃.report = _
      rw [report, report₁, active]
      rfl
    · change s₃.orders = _
      refine Vector.ext fun j small => ?_
      have same : s₃.order ⟨j, small⟩ = s.order ⟨j, small⟩ := by
        rw [order₃, dropped.order, free, if_neg nofun, aborted.order, idle, if_neg nofun]
        rfl
      exact same
    · refine (order₃ a.order).trans ?_
      rw [dropped.order, if_neg ?_, aborted.order, active, Option.map_some, if_pos rfl]
      · rfl
      · intro both
        obtain ⟨w, waiting, same⟩ := Option.map_eq_some_iff.1 both.symm
        exact distinct a w active waiting same.symm
    · refine (order₃ w.order).trans ?_
      rw [dropped.order, waiting, Option.map_some, if_pos rfl, aborted.order, if_neg ?_]
      · rfl
      · intro both
        obtain ⟨a, active, same⟩ := Option.map_eq_some_iff.1 both.symm
        exact distinct a w active waiting same
    · refine (order₃ j).trans ?_
      rw [dropped.order, if_neg ?_, aborted.order, if_neg ?_]
      · rfl
      · intro both
        obtain ⟨a, active, same⟩ := Option.map_eq_some_iff.1 both.symm
        exact notActive a active same
      · intro both
        obtain ⟨w, waiting, same⟩ := Option.map_eq_some_iff.1 both.symm
        exact notWaiting w waiting same
    · have held : heldClips s₁ (o.waiting.map WaitingCue.order) = heldClips s (o.waiting.map WaitingCue.order) := by
        cases waiting : o.waiting with
        | none => rfl
        | some w =>
          have other : some w.order ≠ o.active.map ActiveInsertion.order := by
            intro both
            obtain ⟨a, active, same⟩ := Option.map_eq_some_iff.1 both.symm
            exact distinct a w active waiting same
          have order := aborted.order w.order
          rw [if_neg other] at order
          unfold heldClips
          rw [Option.map_some, Option.bind_some, order]
          rfl
      refine (clip c).trans ?_
      rw [dropped.clips, aborted.clips, held]
      rfl

end Sys2Proof.Machine
end

section
/-! PROOF. The taps of a SOURCE lane (R75, R76) as a run of lane operations; the write that is not expected (R11, R12): O20. -/

namespace Sys2Proof.Machine

variable {s t u : State} {l m : LaneId} {r : LaneRecord} {o o' : OnLane} {src : LaneId} {x : Tap}

/-! ## One lane's tap -/

/-- `f` applied on lane `l`, where it has a tap on `src`. -/
def tapStep (src : LaneId) (f : LaneId → Tap → State → State) (s : State) (l : LaneId) : State :=
  match (s.lane l).on.bind fun o => o.tapOn src with
  | some t => f l t s
  | none => s

/-- The tap of lane context `o` lies on `src`. -/
theorem tapOn_iff : o.tapOn src = some x ↔ o.fetch.cursor = some (.tap x) ∧ x.source = src := by
  unfold OnLane.tapOn
  split
  · next y cursor =>
    rw [cursor]
    by_cases same : y.source = src
    · rw [if_pos same]
      exact ⟨fun eq => by cases eq; exact ⟨rfl, same⟩, fun eq => by cases eq.1; rfl⟩
    · rw [if_neg same]
      exact iff_of_false nofun fun eq => by cases eq.1; exact same eq.2
  · next other => exact iff_of_false nofun fun eq => other x eq.1

theorem tapStep_of_tap (on : (s.lane l).on = some o) (tap : o.tapOn src = some x) (f : LaneId → Tap → State → State) :
    tapStep src f s l = f l x s := by
  unfold tapStep
  rw [on, Option.bind_some, tap]

/-- A tap step writes its lane: the fetch state and the queue's generation, and, unless it is `quiet`, counter and flag. -/
structure TapWrites (quiet : Bool) (f : LaneId → Tap → State → State) : Prop where
  writes : ∀ l x u o, (u.lane l).on = some o → ∃ w ln fetch, f l x u = u.put l ln w ∧
    ln.on = some { o with fetch := fetch } ∧ ln.record = (u.lane l).record ∧
    (quiet = true → ln.counts = (u.lane l).counts ∧ ln.flags = (u.lane l).flags)

theorem replaceTap_put (on : (u.lane l).on = some o) (x : Tap) : ∃ w, replaceTap l x u = u.put l { u.lane l with
    queueGen := (u.lane l).queueGen + 1
    on := some { o with fetch := { o.fetch with queue := [], cursor := some (.tap x) } } } w := by
  obtain ⟨w, flushed⟩ := flushQueue_put on
  unfold replaceTap
  rw [flushed, State.put_modOn]
  exact ⟨w, rfl⟩

theorem tapsIngest_writes (src : LaneId) (slots : Nat) : TapWrites false fun l t s =>
    match t.pos with
    | .waiting => s
    | .placed n b =>
      if slots - 8 ≤ b + 1 then (replaceTap l (placeTap s src t.lag) s).note l .slip .slip
      else s.modOn l fun o => o.withTap { t with pos := .placed n (b + 1) } := by
  refine ⟨fun l x u o on => ?_⟩
  split
  · exact ⟨_, { u.lane l with on := some o }, o.fetch, (State.put_same on).symm, rfl, rfl, nofun⟩
  · split
    · obtain ⟨w, replaced⟩ := replaceTap_put on (placeTap u src x.lag)
      rw [replaced]
      exact ⟨w, _, _, State.put_modLane _ _ _ _ _, rfl, rfl, nofun⟩
    · exact ⟨_, _, _, State.modOn_put on _, rfl, rfl, nofun⟩

theorem tapsLost_writes : TapWrites true fun l t s => s.modOn l fun o => o.withTap { t with pos := .waiting } :=
  ⟨fun _ _ _ _ on => ⟨_, _, _, State.modOn_put on _, rfl, rfl, fun _ => ⟨rfl, rfl⟩⟩⟩

theorem tapsResync_writes (k : Nat) : TapWrites true fun l t s => replaceTap l { t with pos := .placed k 0, fresh := true } s :=
  ⟨fun l x u o on => by
    obtain ⟨w, replaced⟩ := replaceTap_put on { x with pos := .placed k 0, fresh := true }
    exact ⟨w, _, _, replaced, rfl, rfl, fun _ => ⟨rfl, rfl⟩⟩⟩

/-! ## The run over all lanes -/

section
variable {quiet : Bool} {f : LaneId → Tap → State → State} (writes : TapWrites quiet f)
include writes

/-- One lane's step leaves the lane's record, and its context but for the fetch state. -/
theorem TapWrites.step (src : LaneId) (u : State) (l : LaneId) : Agree u (tapStep src f u l) ∧
    tapStep src f u l = u.put l ((tapStep src f u l).lane l) (tapStep src f u l).fetchWait ∧
    ((tapStep src f u l).lane l).record = (u.lane l).record ∧
    (quiet = true → ((tapStep src f u l).lane l).counts = (u.lane l).counts ∧
      ((tapStep src f u l).lane l).flags = (u.lane l).flags) ∧
    ∀ o, (u.lane l).on = some o → ∃ fetch, ((tapStep src f u l).lane l).on = some { o with fetch := fetch } := by
  cases on : (u.lane l).on with
  | none =>
    have same : tapStep src f u l = u := by unfold tapStep; rw [on]; rfl
    rw [same]
    exact ⟨.refl u, (State.put_lane_self u l).symm, rfl, fun _ => ⟨rfl, rfl⟩, fun _ no => nomatch no⟩
  | some o =>
    cases tap : o.tapOn src with
    | none =>
      have same : tapStep src f u l = u := by unfold tapStep; rw [on, Option.bind_some, tap]
      rw [same]
      refine ⟨.refl u, (State.put_lane_self u l).symm, rfl, fun _ => ⟨rfl, rfl⟩, fun o' eq => ?_⟩
      cases eq
      exact ⟨o.fetch, on⟩
    | some x =>
      rw [tapStep_of_tap on tap]
      obtain ⟨w, ln, fetch, state, context, record, counts⟩ := writes.writes l x u o on
      rw [state, State.lane_put_self]
      refine ⟨.put u w record ?_, rfl, record, counts, fun o' eq => ?_⟩
      · rw [context, on]; rfl
      · cases eq
        exact ⟨fetch, context⟩

theorem TapWrites.run (src : LaneId) (s : State) : LaneRun (tapStep src f) (List.finRange 64) s (forTaps src f s) :=
  foldl_laneRun (tapStep src f) (fun u l => (writes.step src u l).1) (fun u l => (writes.step src u l).2.1) _ s
    (List.nodup_finRange 64)

/-- A run of tap steps leaves every lane's record, and its context but for the fetch state. -/
theorem TapWrites.lanes (src : LaneId) (s : State) (l : LaneId) : ((forTaps src f s).lane l).record = (s.lane l).record ∧
    (quiet = true → ((forTaps src f s).lane l).counts = (s.lane l).counts ∧
      ((forTaps src f s).lane l).flags = (s.lane l).flags) ∧
    ∀ o, (s.lane l).on = some o → ∃ fetch, ((forTaps src f s).lane l).on = some { o with fetch := fetch } := by
  obtain ⟨u, -, before, after⟩ := (writes.run src s).each l (List.mem_finRange l)
  obtain ⟨-, -, kept⟩ := writes.step src u l
  rw [after]
  rw [before] at kept
  exact kept

end

/-! ## A write that is not expected (R11, R12) -/

theorem State.onLane_of (record : (s.lane l).record = some r) (on : (s.lane l).on = some o) : s.onLane l = some (r, o) := by
  unfold State.onLane
  rw [record, on]

theorem exec_ringWrite_of_ring {a : Addr} {k line : Nat} (ring : InRing s a l k line r o) (d : Line) (e : Enables)
    (ff : Bool) : exec (.ringWrite a d e ff) s = .next (forwardWrite a d e none (ringStep l k line d e ff s)) := by
  have next : exec (.ringWrite a d e ff) s = .next (arriveWrite a d e ff s) := rfl
  rw [next]
  unfold arriveWrite
  rw [ring.class_]

/-- The tracker that has lost sync (R11). -/
def Tracker.lost (t : Tracker) : Tracker := { t with ingest := .unsynchronised }

theorem loseSync_lane (on : (s.lane l).on = some o) : ((loseSync l r s).lane l).record = (s.lane l).record ∧
    ((loseSync l r s).lane l).counts = ((s.lane l).raise .lostSync).counts ∧
    ((loseSync l r s).lane l).flags = ((s.lane l).setFlag .lostSync).flags ∧
    ∃ fetch, ((loseSync l r s).lane l).on = some { o with track := o.track.lost, fetch := fetch } := by
  unfold loseSync
  dsimp only
  rw [State.modOn_note s l _ _ _ on]
  have lane := State.lane_setLane_self s l
    { (s.lane l).note .lostSync .lostSync with on := some { o with track := { o.track with ingest := .unsynchronised } } }
  split
  · obtain ⟨kept, counts, context⟩ := tapsLost_writes.lanes l
      (s.setLane l { (s.lane l).note .lostSync .lostSync with
        on := some { o with track := { o.track with ingest := .unsynchronised } } }) l
    rw [lane] at kept counts context
    exact ⟨kept, (counts rfl).1, (counts rfl).2, context _ rfl⟩
  · rw [lane]
    exact ⟨rfl, rfl, rfl, o.fetch, rfl⟩

theorem resynchronises_iff {line : Nat} {d : Line} {e : Enables} :
    resynchronises line d e = true ↔ line = 0 ∧ e = BitVec.allOnes 64 ∧ getByte d 4 = 0x47#8 := by
  simp only [resynchronises, Bool.and_eq_true, beq_iff_eq, and_assoc]

theorem resyncStep_of_other {k line : Nat} {d : Line} {e : Enables} (other : resynchronises line d e = false) :
    resyncStep l r k line d e s = s := if_neg (Bool.eq_false_iff.1 other)

theorem resyncStep_lane {k line : Nat} {d : Line} {e : Enables} (qualifies : resynchronises line d e = true)
    (on : (s.lane l).on = some o) : ((resyncStep l r k line d e s).lane l).counts = (s.lane l).counts ∧
    ((resyncStep l r k line d e s).lane l).flags = (s.lane l).flags ∧
    ∃ fetch, ((resyncStep l r k line d e s).lane l).on = some { o with track := o.track.resync r k d, fetch := fetch } := by
  unfold resyncStep
  rw [if_pos qualifies]
  dsimp only
  rw [State.modOn_put on]
  split
  · obtain ⟨-, counts, context⟩ := (tapsResync_writes k).lanes l
      (s.put l { s.lane l with on := some { o with track := o.track.resync r k d } } s.fetchWait) l
    rw [State.lane_put_self] at counts context
    exact ⟨(counts rfl).1, (counts rfl).2, context _ rfl⟩
  · rw [State.lane_put_self]
    exact ⟨rfl, rfl, o.fetch, rfl⟩

/-- A write that loses sync, or meets a cursor without it. -/
theorem ringStep_of_unexpected {k line : Nat} {e : Enables} (record : (s.lane l).record = some r)
    (on : (s.lane l).on = some o) (d : Line) (ff : Bool)
    (unexpected : ¬ (o.track.ingest = .synchronised k line ∧ e = BitVec.allOnes 64)) : ringStep l k line d e ff s =
      resyncStep l r k line d e (if o.track.ingest = .unsynchronised then s else loseSync l r s) := by
  unfold ringStep
  rw [State.onLane_of record on]
  dsimp only
  split
  · next lost => rw [if_pos lost]
  · next i x synced =>
    have expects : ¬ (k = i ∧ line = x ∧ e = BitVec.allOnes 64) := fun ⟨place, line', enabled⟩ =>
      unexpected ⟨by rw [synced, place, line'], enabled⟩
    have held : ¬ o.track.ingest = .unsynchronised := by rw [synced]; exact nofun
    rw [if_neg expects, if_neg held]

theorem TapWrites.tracker {quiet : Bool} {f : LaneId → Tap → State → State} (writes : TapWrites quiet f) (src : LaneId)
    (s : State) (m : LaneId) : (forTaps src f s).tracker m = s.tracker m := by
  obtain ⟨u, -, before, after⟩ := (writes.run src s).each m (List.mem_finRange m)
  obtain ⟨-, writesLane, -, -, context⟩ := writes.step src u m
  unfold State.tracker
  rw [after]
  rw [before] at context
  cases on : (s.lane m).on with
  | none =>
    have same : tapStep src f u m = u := by unfold tapStep; rw [before, on]; rfl
    rw [same, before, on]
  | some o =>
    obtain ⟨fetch, same⟩ := context o on
    rw [same]
    rfl

theorem State.tracker_put (s : State) (ln : Lane) (w : Option (FetchTag × Nat)) (other : m ≠ l) :
    (s.put l ln w).tracker m = s.tracker m := by
  unfold State.tracker
  rw [State.lane_put_ne s ln w other]

theorem loseSync_tracker (on : (s.lane l).on = some o) (other : m ≠ l) : (loseSync l r s).tracker m = s.tracker m := by
  have lost : (s.setLane l { (s.lane l).note .lostSync .lostSync with
      on := some { o with track := { o.track with ingest := .unsynchronised } } }).tracker m = s.tracker m :=
    State.tracker_put s _ _ other
  unfold loseSync
  dsimp only
  rw [State.modOn_note s l _ _ _ on]
  split
  · exact (tapsLost_writes.tracker l _ m).trans lost
  · exact lost

theorem resyncStep_tracker {k line : Nat} {d : Line} {e : Enables} (on : (s.lane l).on = some o) (other : m ≠ l) :
    (resyncStep l r k line d e s).tracker m = s.tracker m := by
  unfold resyncStep
  rw [State.modOn_put on]
  split
  · dsimp only
    split
    · exact ((tapsResync_writes k).tracker l _ m).trans (State.tracker_put s _ _ other)
    · exact State.tracker_put s _ _ other
  · rfl

/-- The ports and the posting engine stand through a write into the ring of an ON lane. -/
theorem ringStep_frame (l : LaneId) (k line : Nat) (d : Line) (e : Enables) (ff : Bool) (s : State) (a : Addr) :
    SamePorts s (forwardWrite a d e none (ringStep l k line d e ff s)) ∧
      SameEngine s (forwardWrite a d e none (ringStep l k line d e ff s)) := by
  have inner := inner_ringStep blind_unit (fun _ _ => rfl) (fun _ _ => rfl) l k line d e ff s
  exact ⟨⟨inner.pin, inner.stationTime, inner.msPhase, inner.stationMs, inner.memReads, inner.upWrites, inner.runCount,
    inner.memPort, inner.upPort⟩, ⟨inner.slots, inner.queue, inner.working⟩⟩

/-- The lane before the resynchronisation is tried: as it was, or without the sync it held. -/
theorem lost_lane (r : LaneRecord) (on : (s.lane l).on = some o) : ∃ fetch,
    ((if o.track.ingest = .unsynchronised then s else loseSync l r s).lane l).on =
      some { o with track := o.track.lost, fetch := fetch } ∧
    ((if o.track.ingest = .unsynchronised then s else loseSync l r s).lane l).counts =
      (if o.track.ingest ≠ .unsynchronised then ((s.lane l).raise .lostSync).counts else (s.lane l).counts) ∧
    ((if o.track.ingest = .unsynchronised then s else loseSync l r s).lane l).flags =
      (if o.track.ingest ≠ .unsynchronised then ((s.lane l).setFlag .lostSync).flags else (s.lane l).flags) := by
  by_cases lost : o.track.ingest = .unsynchronised
  · have same : o.track.lost = o.track := by unfold Tracker.lost; rw [← lost]
    rw [if_pos lost, if_neg (not_not.2 lost), if_neg (not_not.2 lost), same]
    exact ⟨o.fetch, on, rfl, rfl⟩
  · obtain ⟨-, counts, flags, fetch, context⟩ := loseSync_lane (r := r) on
    rw [if_neg lost, if_pos lost, if_pos lost]
    exact ⟨fetch, context, counts, flags⟩

/-- Settles O20. -/
theorem unexpectedWriteResynchronises : Obligations.UnexpectedWriteResynchronises := by
  unfold Obligations.UnexpectedWriteResynchronises
  intro a d e ff s l k line r o ring synced qualifies unexpected
  have run := exec_ringWrite_of_ring ring d e ff
  obtain ⟨ports, engine⟩ := ringStep_frame l k line d e ff s a
  rw [ringStep_of_unexpected ring.record ring.on d ff unexpected] at run ports engine
  obtain ⟨fetch, on, counts, flags⟩ := lost_lane r ring.on
  have others : ∀ m, m ≠ l → (if o.track.ingest = .unsynchronised then s else loseSync l r s).tracker m = s.tracker m := by
    intro m other
    split
    · rfl
    · exact loseSync_tracker ring.on other
  have unsynced : ¬ synced → (if o.track.ingest = .unsynchronised then s else loseSync l r s) = s := fun lost =>
    if_pos (not_not.1 lost)
  generalize (if o.track.ingest = .unsynchronised then s else loseSync l r s) = u at *
  by_cases whole : resynchronises line d e = true
  · have q : qualifies := resynchronises_iff.1 whole
    obtain ⟨counts', flags', fetch', on'⟩ := resyncStep_lane (r := r) (k := k) whole on
    refine ⟨_, run, counts'.trans counts, flags'.trans flags, ?_, fun m other => ?_, ports, engine, fun _ no => absurd q no⟩
    · rw [if_pos q]
      exact congrArg (Option.map OnLane.track) on'
    · exact (resyncStep_tracker on other).trans (others m other)
  · have q : ¬ qualifies := mt resynchronises_iff.2 whole
    rw [resyncStep_of_other (Bool.eq_false_iff.2 whole)] at run ports engine
    refine ⟨_, run, counts, flags, ?_, others, ports, engine, fun lost _ => ?_⟩
    · rw [if_neg q]
      exact congrArg (Option.map OnLane.track) on
    · rw [unsynced lost]
      rfl

end Sys2Proof.Machine
end

section
/-! PROOF. The ingest of a completed slot (R10, R22 to R30, R107 to R109), operation by operation: what each keeps of its lane,
and where the feed goes LIVE. -/

namespace Sys2Proof.Machine

variable {s t u v : State} {l m : LaneId} {r : LaneRecord} {o o' p' : OnLane} {f : Feed}

/-! ## Counters and sticky flags -/

theorem Counter.place_injective {a b : Counter} (same : a.place = b.place) : a = b := by
  have listed : ∀ c : Counter, [Counter.overrun, .lostSync, .jump, .strayRead, .readFault, .noMarker, .badHeader, .errored,
      .badReference, .timebaseChange, .stale, .notACue, .malformedCue, .duplicateCue, .unparsedStamp, .underrun, .fetchFault,
      .slip, .flap, .displaced, .unmapped][c.place.val]? = some c := fun c => by cases c <;> rfl
  exact Option.some.inj ((listed a).symm.trans (same ▸ listed b))

theorem Flag.place_injective {a b : Flag} (same : a.place = b.place) : a = b := by
  have listed : ∀ f : Flag, [Flag.overrun, .lostSync, .jump, .strayRead, .readFault, .noMarker, .badHeader, .errored,
      .badReference, .timebaseChanged, .stale, .malformedCue, .underrun, .fetchFault, .slip, .flap, .clash,
      .unmapped][f.place.val]? = some f := fun f => by cases f <;> rfl
  exact Option.some.inj ((listed a).symm.trans (same ▸ listed b))

theorem Lane.count_raise_self (ln : Lane) (c : Counter) : (ln.raise c).count c = raise32 (ln.count c) :=
  vec_get_set_self _ _ _

theorem Lane.count_raise_ne (ln : Lane) {c k : Counter} (other : k ≠ c) : (ln.raise c).count k = ln.count k :=
  vec_get_set_ne _ _ _ _ fun same => other (Counter.place_injective same)

theorem Lane.flag_setFlag (ln : Lane) (f g : Flag) : (ln.setFlag f).flag g = (ln.flag g || decide (g = f)) := by
  unfold Lane.flag Lane.setFlag
  rw [BitVec.getLsbD_or, BitVec.getLsbD_twoPow]
  congr 1
  by_cases same : g = f
  · subst same
    simp [g.place.isLt]
  · have apart : f.place.val ≠ g.place.val := fun eq => same (Flag.place_injective (Fin.ext eq.symm))
    simp [same, apart]

theorem Lane.flag_note_self (ln : Lane) (c : Counter) (f : Flag) : (ln.note c f).flag f = true := by
  change ((ln.raise c).setFlag f).flag f = true
  rw [Lane.flag_setFlag, decide_eq_true rfl, Bool.or_true]

/-- Lane `b` has the counters and sticky flags of `a`, but for those listed. -/
structure Tallied (cs : List Counter) (fs : List Flag) (a b : Lane) : Prop where
  counts : ∀ c, c ∉ cs → b.count c = a.count c
  flags : ∀ f, f ∉ fs → b.flag f = a.flag f

theorem Tallied.of_eq {cs : List Counter} {fs : List Flag} {a b : Lane} (counts : b.counts = a.counts)
    (flags : b.flags = a.flags) : Tallied cs fs a b :=
  ⟨fun c _ => by unfold Lane.count; rw [counts], fun f _ => by unfold Lane.flag; rw [flags]⟩

theorem Tallied.trans {cs : List Counter} {fs : List Flag} {a b c : Lane} (x : Tallied cs fs a b) (y : Tallied cs fs b c) :
    Tallied cs fs a c :=
  ⟨fun k out => (y.counts k out).trans (x.counts k out), fun f out => (y.flags f out).trans (x.flags f out)⟩

/-- Only the counters and the sticky flags count. -/
theorem Tallied.congr {cs : List Counter} {fs : List Flag} {a b a' b' : Lane} (tallied : Tallied cs fs a b)
    (ca : a'.counts = a.counts) (fa : a'.flags = a.flags) (cb : b'.counts = b.counts) (fb : b'.flags = b.flags) :
    Tallied cs fs a' b' :=
  ((Tallied.of_eq ca.symm fa.symm).trans tallied).trans (.of_eq cb fb)

theorem Tallied.raise {cs : List Counter} {fs : List Flag} (ln : Lane) {c : Counter} (listed : c ∈ cs) :
    Tallied cs fs ln (ln.raise c) :=
  ⟨fun _ out => Lane.count_raise_ne ln fun same => out (same ▸ listed), fun _ _ => rfl⟩

theorem Tallied.note {cs : List Counter} {fs : List Flag} (ln : Lane) {c : Counter} {f : Flag} (counted : c ∈ cs)
    (flagged : f ∈ fs) : Tallied cs fs ln (ln.note c f) := by
  refine ⟨fun _ out => Lane.count_raise_ne ln fun same => out (same ▸ counted), fun g out => ?_⟩
  have other : g ≠ f := fun same => out (same ▸ flagged)
  change ((ln.raise c).setFlag f).flag g = _
  rw [Lane.flag_setFlag, decide_eq_false other, Bool.or_false]
  rfl

/-! ## What the clock handling and the feed monitor leave of a lane -/

/-- From `s` to `t` lane `l`, of context `o`, stays ON with context `o'`, its cues, insertions and alerts as they were; no other
lane, order, clip or alert changes. -/
structure Keeps (s t : State) (l : LaneId) (o o' : OnLane) : Prop where
  before : (s.lane l).on = some o
  on : (t.lane l).on = some o'
  record : (t.lane l).record = (s.lane l).record
  elsewhere : ∀ m, m ≠ l → t.lane m = s.lane m
  orders : t.orders = s.orders
  clips : t.clips = s.clips
  alerts : t.alerts = s.alerts
  ms : t.stationMs = s.stationMs
  cues : o'.cues = o.cues
  active : o'.active = o.active
  waiting : o'.waiting = o.waiting
  stack : o'.stack = o.stack

theorem Keeps.refl (on : (s.lane l).on = some o) : Keeps s s l o o :=
  ⟨on, on, rfl, fun _ _ => rfl, rfl, rfl, rfl, rfl, rfl, rfl, rfl, rfl⟩

theorem Keeps.trans (a : Keeps s t l o o') (b : Keeps t u l o' p') : Keeps s u l o p' where
  before := a.before
  on := b.on
  record := b.record.trans a.record
  elsewhere m other := (b.elsewhere m other).trans (a.elsewhere m other)
  orders := b.orders.trans a.orders
  clips := b.clips.trans a.clips
  alerts := b.alerts.trans a.alerts
  ms := b.ms.trans a.ms
  cues := b.cues.trans a.cues
  active := b.active.trans a.active
  waiting := b.waiting.trans a.waiting
  stack := b.stack.trans a.stack

/-- Nor is a record made, and the lane's fetch source, queue and cursor, its selector and what its feed calls for stand. -/
structure Quiet (s t : State) (l : LaneId) (o o' : OnLane) : Prop where
  report : t.report = s.report
  fetch : o'.fetch = o.fetch
  gen : (t.lane l).queueGen = (s.lane l).queueGen
  sel : o'.sel = o.sel
  live : o'.feed.state = .live ↔ o.feed.state = .live

theorem Quiet.refl : Quiet s s l o o := ⟨rfl, rfl, rfl, rfl, .rfl⟩

theorem Quiet.trans (a : Quiet s t l o o') (b : Quiet t u l o' p') : Quiet s u l o p' :=
  ⟨b.report.trans a.report, b.fetch.trans a.fetch, b.gen.trans a.gen, b.sel.trans a.sel, b.live.trans a.live⟩

/-- A context that calls for the same fetch source with the same tables. -/
theorem wantedSource_congr (stack : o'.stack = o.stack) (active : o'.active = o.active) (waiting : o'.waiting = o.waiting)
    (live : o'.feed.state = .live ↔ o.feed.state = .live) : wantedSource t r o' = wantedSource t r o := by
  have below : wantedSource.wantedBelow t r o' = wantedSource.wantedBelow t r o := by
    unfold wantedSource.wantedBelow
    rw [active, waiting]
    simp only [ne_eq, live]
  unfold wantedSource
  rw [stack, below]

theorem placeCursor_congr (active : o'.active = o.active) : placeCursor t r o' = placeCursor t r o := by
  funext i
  unfold placeCursor
  rw [active]

/-- A judgement stands through what is quiet after it and leaves the alerts and insertions. -/
theorem SourceJudged.steady {ln : Lane} (judged : SourceJudged t r ln o (t.lane l) o') (quiet : Quiet t u l o' p')
    (agree : Agree t u) (stack : p'.stack = o'.stack) (active : p'.active = o'.active) (waiting : p'.waiting = o'.waiting) :
    SourceJudged u r ln o (u.lane l) p' := by
  obtain ⟨source, moved⟩ := judged.of_agree agree
  have wanted : wantedSource u r p' = wantedSource u r o' := wantedSource_congr stack active waiting quiet.live
  refine ⟨fun role => fetchSourceIs_iff.2 ?_, ?_⟩
  · rw [wanted, quiet.fetch]
    exact fetchSourceIs_iff.1 (source role)
  · rw [quiet.fetch, quiet.gen, quiet.sel, placeCursor_congr active]
    exact moved

theorem SourceJudged.quiet {ln : Lane} (judged : SourceJudged t r ln o (t.lane l) o') (keeps : Keeps t u l o' p')
    (quiet : Quiet t u l o' p') (agree : Agree t u) : SourceJudged u r ln o (u.lane l) p' :=
  judged.steady quiet agree keeps.stack keeps.active keeps.waiting

/-- One lane written, with what the monitor and the parser keep of it. -/
theorem keeps_put (on : (s.lane l).on = some o) {ln : Lane} (w : Option (FetchTag × Nat)) (on' : ln.on = some o')
    (record : ln.record = (s.lane l).record) (cues : o'.cues = o.cues) (active : o'.active = o.active)
    (waiting : o'.waiting = o.waiting) (stack : o'.stack = o.stack) : Keeps s (s.put l ln w) l o o' where
  before := on
  on := by rw [State.lane_put_self, on']
  record := by rw [State.lane_put_self, record]
  elsewhere m other := State.lane_put_ne s ln w other
  orders := rfl
  clips := rfl
  alerts := rfl
  ms := rfl
  cues := cues
  active := active
  waiting := waiting
  stack := stack

/-! ## The proof of R108 -/

/-- The proof is complete in RECOVERING (R108, R109). -/
def Feed.goesLive (f : Feed) (recovery : Nat) : Prop := f.state = .recovering ∧ f.proven recovery = true

/-- The feed after the proof has been judged (R109). -/
def Feed.settled (f : Feed) (recovery : Nat) : Feed :=
  if f.state = .recovering ∧ f.proven recovery = true then { f with state := .live, outage := none } else f

theorem Feed.settled_of_live {recovery : Nat} (live : f.goesLive recovery) :
    f.settled recovery = { f with state := .live, outage := none } := if_pos live

theorem Feed.settled_of_not {recovery : Nat} (not : ¬ f.goesLive recovery) : f.settled recovery = f := if_neg not

/-- State `t` is `u` with feed `f` on lane `l`, and its proof judged. -/
structure ProofJudged (u t : State) (l : LaneId) (r : LaneRecord) (o : OnLane) (f : Feed) (o' : OnLane) : Prop where
  keeps : Keeps u t l o o'
  clock : o'.clock = o.clock
  track : o'.track = o.track
  feed : o'.feed = f.settled r.recovery
  counts : (t.lane l).counts = (u.lane l).counts
  flags : (t.lane l).flags = (u.lane l).flags
  tables : Agree u t
  still : ¬ f.goesLive r.recovery → t.report = u.report ∧ o'.fetch = o.fetch ∧ (t.lane l).queueGen = (u.lane l).queueGen ∧
    o'.sel = o.sel
  live : f.goesLive r.recovery → SourceJudged t r (u.lane l) o (t.lane l) o' ∧ t.report = match f.outage with
    | some x => u.report.handOver (feedRestoredRecord l r o x u.stationMs)
    | none => u.report

theorem enterLive_judgement (on : (u.lane l).on = some o) (r : LaneRecord) (x : OnLane) : ∃ o' v,
    Judgement v l { o with feed := { o.feed with state := .live, outage := none } } (enterLive l r x u) o' ∧
      v = match x.feed.outage with
        | some y => u.handOver (feedRestoredRecord l r x y u.stationMs)
        | none => u := by
  unfold enterLive
  cases x.feed.outage with
  | none =>
    obtain ⟨o', j⟩ := judgement_modOn on (fun o => { o with feed := { o.feed with state := .live, outage := none } }) rfl
    exact ⟨o', _, j, rfl⟩
  | some y =>
    obtain ⟨o', j⟩ := judgement_modOn (u := u.handOver (feedRestoredRecord l r x y u.stationMs)) on
      (fun o => { o with feed := { o.feed with state := .live, outage := none } }) rfl
    exact ⟨o', _, j, rfl⟩

/-- What the lane context reads with another feed. -/
def OnLane.withFeed (o : OnLane) (f : Feed) : OnLane := { o with feed := f }

theorem judgeProof_judged (record : (u.lane l).record = some r) (on : (u.lane l).on = some o) (f : Feed) :
    ∃ o', ProofJudged u (judgeProof l (u.put l { u.lane l with on := some (o.withFeed f) } u.fetchWait)) l r o f o' := by
  have keeps := keeps_put (o' := o.withFeed f) on (ln := { u.lane l with on := some (o.withFeed f) }) u.fetchWait rfl rfl rfl
    rfl rfl rfl
  have tables : Agree u (u.put l { u.lane l with on := some (o.withFeed f) } u.fetchWait) :=
    .put u _ rfl (by rw [on]; rfl)
  have lane : (u.put l { u.lane l with on := some (o.withFeed f) } u.fetchWait).lane l =
      { u.lane l with on := some (o.withFeed f) } := State.lane_put_self _ _ _ _
  have report : (u.put l { u.lane l with on := some (o.withFeed f) } u.fetchWait).report = u.report := rfl
  have ms : (u.put l { u.lane l with on := some (o.withFeed f) } u.fetchWait).stationMs = u.stationMs := rfl
  generalize u.put l { u.lane l with on := some (o.withFeed f) } u.fetchWait = v at keeps tables lane report ms ⊢
  unfold judgeProof
  rw [State.onLane_of (keeps.record.trans record) keeps.on]
  dsimp only
  by_cases goes : f.goesLive r.recovery
  · have settled := Feed.settled_of_live goes
    rw [if_pos (show (o.withFeed f).feed.state = .recovering ∧ (o.withFeed f).feed.proven r.recovery = true from goes)]
    obtain ⟨o', w, j, handed⟩ := enterLive_judgement keeps.on r (o.withFeed f)
    have lanes : ∀ m, w.lane m = v.lane m := fun m => by rw [handed]; split <;> rfl
    have same : w.orders = v.orders ∧ w.clips = v.clips ∧ w.alerts = v.alerts ∧ w.stationMs = v.stationMs ∧
        w.lanes = v.lanes := by rw [handed]; split <;> exact ⟨rfl, rfl, rfl, rfl, rfl⟩
    obtain ⟨orders, clips, alerts, clock, all⟩ := same
    have handOver : w.report = match f.outage with
        | some x => u.report.handOver (feedRestoredRecord l r o x u.stationMs)
        | none => u.report := by
      rw [handed, ms]
      cases outage : f.outage with
      | none => simp only [OnLane.withFeed, outage]; exact report
      | some y =>
        simp only [OnLane.withFeed, outage]
        rw [State.handOver_report, report]
        rfl
    have after := j.lane
    rw [lanes, lane] at after
    have state : (enterLive l r (o.withFeed f) v).stationMs = w.stationMs := by rw [j.state]; rfl
    have agree := tables.trans ((Agree.of_tables all orders alerts).trans j.tables)
    refine ⟨o', ⟨on, j.on, (congrArg Lane.record after :), fun m other => ?_, j.orders.trans (orders.trans keeps.orders),
      j.clips.trans (clips.trans keeps.clips), j.alerts.trans (alerts.trans keeps.alerts), state.trans (clock.trans ms),
      j.kept.cues, j.kept.active, j.kept.waiting, j.kept.stack⟩, j.kept.clock, j.kept.track,
      j.kept.feed.trans settled.symm, (congrArg Lane.counts after :), (congrArg Lane.flags after :), agree,
      fun not => absurd goes not, fun _ => ⟨?_, j.report.trans handOver⟩⟩
    · exact (j.elsewhere other).trans ((lanes m).trans (keeps.elsewhere m other))
    · have judged := j.judged _ r j.tables (by rw [lanes, lane]; exact record)
      rw [lanes, lane] at judged
      exact judged.of_before rfl rfl rfl rfl rfl
  · rw [if_neg (show ¬ ((o.withFeed f).feed.state = .recovering ∧ (o.withFeed f).feed.proven r.recovery = true) from goes)]
    have settled := Feed.settled_of_not goes
    refine ⟨o.withFeed f, keeps, rfl, rfl, settled.symm, by rw [lane], by rw [lane], tables,
      fun _ => ⟨report, rfl, by rw [lane], rfl⟩, fun live => absurd live goes⟩

theorem feedIngest_judged (record : (u.lane l).record = some r) (on : (u.lane l).on = some o) :
    ∃ o', ProofJudged u (feedIngest l u) l r o (o.feed.ingest u.stationMs) o' := by
  unfold feedIngest
  rw [State.modOn_put on]
  exact judgeProof_judged record on _

/-- The feed with a capture seen (R108). -/
def Feed.seen (f : Feed) : Feed := { f with captureSeen := true }

theorem captureNotice_judged (record : (u.lane l).record = some r) (on : (u.lane l).on = some o) :
    ∃ o', ProofJudged u (captureNotice l u) l r o o.feed.seen o' := by
  unfold captureNotice
  rw [State.modOn_put on]
  exact judgeProof_judged record on _

end Sys2Proof.Machine
end

section
/-! PROOF. The parser on a completed slot (R22 to R30, R33) and the tracker's part of the ingest (R10, R31, R32): O14 and
O15. -/

namespace Sys2Proof.Machine

variable {s t u v : State} {l m : LaneId} {r : LaneRecord} {o o' p' : OnLane} {f : Feed} {p : Packet} {x : SlotData}

/-! ## The packet's clock and counters -/

/-- The packet carries the lane's clock reference (R26, R27). -/
abbrev Refers (r : LaneRecord) (p : Packet) : Prop :=
  hasMarker p = true ∧ headerVerdict p = .good ∧ packetLabel p = r.clockLabel ∧ hasClockRef p = true

/-- The packet is a capture (R26). -/
abbrev Captures (r : LaneRecord) (p : Packet) : Prop := Refers r p ∧ (clockRefExt p).toNat < 300

/-- What the parser counts and flags of a packet, its cue apart (R22, R23, R26, R30). -/
def packetNote (r : LaneRecord) (p : Packet) : Option (Counter × Flag) :=
  if hasMarker p = true then
    match headerVerdict p with
    | .bad => some (.badHeader, .badHeader)
    | .errored => some (.errored, .errored)
    | .good =>
      if packetLabel p = r.clockLabel ∧ hasClockRef p = true then
        if (clockRefExt p).toNat < 300 then
          if discontinuity p = true then some (.timebaseChange, .timebaseChanged) else none
        else some (.badReference, .badReference)
      else none
  else some (.noMarker, .noMarker)

/-- The lane with the counter raised and the flag set, where there is one. -/
def Lane.noted (ln : Lane) : Option (Counter × Flag) → Lane
  | some n => ln.note n.1 n.2
  | none => ln

/-- The clock model after the packet (R26, R28). -/
def clockAfter (r : LaneRecord) (p : Packet) (a : Arrival) (now : Millis) (c : ClockModel) : ClockModel :=
  if Captures r p then captureModel (clockRefBase p) (clockRefExt p) a now else c.refresh (some a)

/-- The lane's context with another clock model. -/
def OnLane.withClock (o : OnLane) (c : ClockModel) : OnLane := { o with clock := c }

/-- The state after the packet's clock handling, the capture notice apart. -/
def clocked (l : LaneId) (r : LaneRecord) (p : Packet) (a : Arrival) (o : OnLane) (s : State) : State :=
  s.put l { (s.lane l).noted (packetNote r p) with on := some (o.withClock (clockAfter r p a s.stationMs o.clock)) }
    s.fetchWait

/-- The cue handling of a slot, where its header is good (R33). -/
def cuePart (l : LaneId) (r : LaneRecord) (x : SlotData) (s : State) : State :=
  if hasMarker (slotPacket x) = true ∧ headerVerdict (slotPacket x) = .good then
    cueStep l r (slotPacket x) (slotStamp x) s
  else s

theorem refreshStep_put (on : (s.lane l).on = some o) (a : Arrival) : refreshStep l a s =
    s.put l { s.lane l with on := some (o.withClock (o.clock.refresh (some a))) } s.fetchWait :=
  State.modOn_put on _

theorem refreshStep_note_put (on : (s.lane l).on = some o) (a : Arrival) (c : Counter) (g : Flag) :
    refreshStep l a (s.note l c g) =
      s.put l { (s.lane l).note c g with on := some (o.withClock (o.clock.refresh (some a))) } s.fetchWait := by
  have mapped : ((s.lane l).note c g).on.map (fun o => { o with clock := o.clock.refresh (some a) }) =
      some (o.withClock (o.clock.refresh (some a))) := by rw [Lane.note_on, on]; rfl
  unfold refreshStep State.note
  rw [State.modLane_put, State.put_modOn, mapped]

theorem packetNote_of_unmarked (unmarked : ¬ hasMarker p = true) : packetNote r p = some (.noMarker, .noMarker) :=
  if_neg unmarked

theorem packetNote_of_marker (marker : hasMarker p = true) : packetNote r p =
    match headerVerdict p with
    | .bad => some (.badHeader, .badHeader)
    | .errored => some (.errored, .errored)
    | .good =>
      if packetLabel p = r.clockLabel ∧ hasClockRef p = true then
        if (clockRefExt p).toNat < 300 then
          if discontinuity p = true then some (.timebaseChange, .timebaseChanged) else none
        else some (.badReference, .badReference)
      else none := if_pos marker

theorem cuePart_of_good (x : SlotData) (good : hasMarker (slotPacket x) = true ∧ headerVerdict (slotPacket x) = .good)
    (s : State) : cuePart l r x s = cueStep l r (slotPacket x) (slotStamp x) s := if_pos good

theorem packetNote_of_capture (captures : Captures r p) : packetNote r p =
    if discontinuity p = true then some (.timebaseChange, .timebaseChanged) else none := by
  obtain ⟨⟨marker, good, refers⟩, small⟩ := captures
  rw [packetNote_of_marker marker, good]
  exact (if_pos refers).trans (if_pos small)

theorem clockAfter_of_capture (captures : Captures r p) (a : Arrival) (now : Millis) (c : ClockModel) :
    clockAfter r p a now c = captureModel (clockRefBase p) (clockRefExt p) a now := if_pos captures

theorem clockAfter_of_other (not : ¬ Captures r p) (a : Arrival) (now : Millis) (c : ClockModel) :
    clockAfter r p a now c = c.refresh (some a) := if_neg not

/-- The parser's handling of a packet that does not reach R24. -/
theorem clocked_of_note {n : Counter × Flag} (on : (s.lane l).on = some o) (note : packetNote r p = some n)
    (not : ¬ Captures r p) (a : Arrival) : refreshStep l a (s.note l n.1 n.2) = clocked l r p a o s := by
  unfold clocked
  rw [note, clockAfter_of_other not]
  exact refreshStep_note_put on a n.1 n.2

theorem clocked_of_capture (captures : Captures r p) (on : (s.lane l).on = some o) (a : Arrival) : clocked l r p a o s =
    if discontinuity p = true then (s.modOn l fun o => { o with
      clock := captureModel (clockRefBase p) (clockRefExt p) a s.stationMs }).note l .timebaseChange .timebaseChanged
    else s.modOn l fun o => { o with clock := captureModel (clockRefBase p) (clockRefExt p) a s.stationMs } := by
  unfold clocked
  rw [packetNote_of_capture captures, clockAfter_of_capture captures]
  by_cases jump : discontinuity p = true
  · rw [if_pos jump, if_pos jump]
    exact (State.modOn_note s l
      (fun o => o.withClock (captureModel (clockRefBase p) (clockRefExt p) a s.stationMs)) _ _ on).symm
  · rw [if_neg jump, if_neg jump]
    exact (State.modOn_put on fun o => o.withClock (captureModel (clockRefBase p) (clockRefExt p) a s.stationMs)).symm

theorem clockStep_eq (on : (s.lane l).on = some o) (marker : hasMarker p = true) (good : headerVerdict p = .good)
    (a : Arrival) : clockStep l r p a s =
      if Captures r p then captureNotice l (clocked l r p a o s) else clocked l r p a o s := by
  unfold clockStep
  by_cases refers : packetLabel p = r.clockLabel ∧ hasClockRef p = true
  · rw [if_pos refers]
    by_cases small : (clockRefExt p).toNat < 300
    · have captures : Captures r p := ⟨⟨marker, good, refers⟩, small⟩
      rw [if_pos small, if_pos captures, clocked_of_capture captures on]
      rfl
    · have not : ¬ Captures r p := fun captures => small captures.2
      have note : packetNote r p = some (.badReference, .badReference) := by
        rw [packetNote_of_marker marker, good]
        exact (if_pos refers).trans (if_neg small)
      rw [if_neg small, if_neg not]
      exact clocked_of_note on note not a
  · have not : ¬ Captures r p := fun captures => refers captures.1.2.2
    have note : packetNote r p = none := by
      rw [packetNote_of_marker marker, good]
      exact if_neg refers
    rw [if_neg refers, if_neg not]
    unfold clocked
    rw [note, clockAfter_of_other not]
    exact refreshStep_put on a

theorem cuePart_of_other (x : SlotData) (other : ¬ (hasMarker (slotPacket x) = true ∧ headerVerdict (slotPacket x) = .good))
    (s : State) : cuePart l r x s = s := if_neg other

theorem verdict_cases (v : HeaderVerdict) : v = .bad ∨ v = .errored ∨ v = .good := by
  cases v <;> simp

/-- What the parser does first of all, by the judgement of the header (R22, R23). -/
theorem parseSlot_of_verdict (x : SlotData) (s : State) :
    (¬ hasMarker (slotPacket x) = true → parseSlot l r x s = refreshStep l (slotStamp x) (s.note l .noMarker .noMarker)) ∧
    (hasMarker (slotPacket x) = true →
      (headerVerdict (slotPacket x) = .bad →
        parseSlot l r x s = refreshStep l (slotStamp x) (s.note l .badHeader .badHeader)) ∧
      (headerVerdict (slotPacket x) = .errored →
        parseSlot l r x s = refreshStep l (slotStamp x) (s.note l .errored .errored)) ∧
      (headerVerdict (slotPacket x) = .good →
        parseSlot l r x s = cueStep l r (slotPacket x) (slotStamp x)
          (clockStep l r (slotPacket x) (slotStamp x) s))) := by
  unfold parseSlot
  dsimp only
  cases hasMarker (slotPacket x) with
  | false => exact ⟨fun _ => rfl, fun no => nomatch no⟩
  | true => exact ⟨fun no => absurd rfl no, fun _ => by cases headerVerdict (slotPacket x) <;> simp⟩

theorem parseSlot_eq (on : (s.lane l).on = some o) (x : SlotData) : parseSlot l r x s = cuePart l r x
    (if Captures r (slotPacket x) then captureNotice l (clocked l r (slotPacket x) (slotStamp x) o s)
      else clocked l r (slotPacket x) (slotStamp x) o s) := by
  obtain ⟨unmarked, marked⟩ := parseSlot_of_verdict (l := l) (r := r) x s
  have plain {n : Counter × Flag} (note : packetNote r (slotPacket x) = some n)
      (parse : parseSlot l r x s = refreshStep l (slotStamp x) (s.note l n.1 n.2))
      (other : ¬ (hasMarker (slotPacket x) = true ∧ headerVerdict (slotPacket x) = .good)) : parseSlot l r x s =
      cuePart l r x (if Captures r (slotPacket x) then captureNotice l (clocked l r (slotPacket x) (slotStamp x) o s)
        else clocked l r (slotPacket x) (slotStamp x) o s) := by
    have not : ¬ Captures r (slotPacket x) := fun captures => other ⟨captures.1.1, captures.1.2.1⟩
    rw [parse, cuePart_of_other x other, if_neg not]
    exact clocked_of_note on note not _
  by_cases marker : hasMarker (slotPacket x) = true
  · obtain ⟨bad, errored, good⟩ := marked marker
    rcases verdict_cases (headerVerdict (slotPacket x)) with verdict | verdict | verdict
    · exact plain (n := (.badHeader, .badHeader)) (by rw [packetNote_of_marker marker, verdict]) (bad verdict)
        fun h => nomatch verdict.symm.trans h.2
    · exact plain (n := (.errored, .errored)) (by rw [packetNote_of_marker marker, verdict]) (errored verdict)
        fun h => nomatch verdict.symm.trans h.2
    · rw [good verdict, clockStep_eq on marker verdict, cuePart_of_good x ⟨marker, verdict⟩]
  · exact plain (n := (.noMarker, .noMarker)) (packetNote_of_unmarked marker) (unmarked marker) fun h => marker h.1

theorem noted_kept (ln : Lane) (n : Option (Counter × Flag)) : (ln.noted n).record = ln.record ∧
    (ln.noted n).queueGen = ln.queueGen := by
  cases n <;> exact ⟨rfl, rfl⟩

theorem keeps_clocked (on : (s.lane l).on = some o) (p : Packet) (a : Arrival) :
    Keeps s (clocked l r p a o s) l o (o.withClock (clockAfter r p a s.stationMs o.clock)) :=
  keeps_put on _ rfl (noted_kept _ _).1 rfl rfl rfl rfl

theorem clocked_lane (p : Packet) (a : Arrival) : (clocked l r p a o s).lane l = { (s.lane l).noted (packetNote r p) with
    on := some (o.withClock (clockAfter r p a s.stationMs o.clock)) } := State.lane_put_self _ _ _ _

theorem quiet_clocked (p : Packet) (a : Arrival) :
    Quiet s (clocked l r p a o s) l o (o.withClock (clockAfter r p a s.stationMs o.clock)) := by
  refine ⟨rfl, rfl, ?_, rfl, .rfl⟩
  rw [clocked_lane]
  exact (noted_kept _ _).2

theorem agree_clocked (on : (s.lane l).on = some o) (p : Packet) (a : Arrival) : Agree s (clocked l r p a o s) :=
  .put s _ (noted_kept _ _).1 (by rw [on]; rfl)

end Sys2Proof.Machine
end

section
/-! PROOF. The tracker's part of an ingest (R10, R31, R32) with its taps (R75). -/

namespace Sys2Proof.Machine

variable {s t u v : State} {l m : LaneId} {r : LaneRecord} {o o' p' : OnLane} {f : Feed} {p : Packet} {x : SlotData} {i : Nat}

/-! ## The taps of the ingested lane -/

/-- The step of one tap on lane `src` at an ingest there (R75). -/
def tapAdvance (src : LaneId) (slots : Nat) (l : LaneId) (t : Tap) (s : State) : State :=
  match t.pos with
  | .waiting => s
  | .placed n b =>
    if slots - 8 ≤ b + 1 then (replaceTap l (placeTap s src t.lag) s).note l .slip .slip
    else s.modOn l fun o => o.withTap { t with pos := .placed n (b + 1) }

theorem tapsIngest_eq (src : LaneId) (slots : Nat) (s : State) :
    tapsIngest src slots s = forTaps src (tapAdvance src slots) s := rfl

theorem tapAdvance_writes (src : LaneId) (slots : Nat) : TapWrites false (tapAdvance src slots) :=
  tapsIngest_writes src slots

/-- A tap that advances counts and flags nothing but a slip. -/
theorem tapAdvance_tallied (src : LaneId) (slots : Nat) (on : (u.lane l).on = some o) (x : Tap) :
    Tallied [.slip] [.slip] (u.lane l) ((tapAdvance src slots l x u).lane l) := by
  unfold tapAdvance
  split
  · exact .of_eq rfl rfl
  · split
    · obtain ⟨w, replaced⟩ := replaceTap_put on (placeTap u src x.lag)
      rw [replaced]
      unfold State.note
      rw [State.put_modLane, State.lane_put_self]
      exact (Tallied.note (u.lane l) (List.mem_singleton.2 rfl) (List.mem_singleton.2 rfl)).congr rfl rfl rfl rfl
    · rw [State.modOn_put on, State.lane_put_self]
      exact .of_eq rfl rfl

theorem tapsIngest_tallied (src : LaneId) (slots : Nat) (s : State) (l : LaneId) :
    Tallied [.slip] [.slip] (s.lane l) ((tapsIngest src slots s).lane l) := by
  rw [tapsIngest_eq]
  obtain ⟨u, -, before, after⟩ := ((tapAdvance_writes src slots).run src s).each l (List.mem_finRange l)
  rw [after, ← before]
  unfold tapStep
  split
  · next tap found =>
    obtain ⟨o, on, -⟩ := Option.bind_eq_some_iff.1 found
    exact tapAdvance_tallied src slots on tap
  · exact .of_eq rfl rfl

/-! ## The completed slot -/

/-- The tracker once slot `i` is completed with `x` (R9, R10, R31, R32). -/
def Tracker.completed (t : Tracker) (r : LaneRecord) (i : Nat) (x : SlotData) : Tracker :=
  Tracker.ingestSlot { t with assembly := x, ingest := .synchronised ((i + 1) % r.slots) 0 } r (slotStamp x)

/-- The lane with an overrun counted where the ingest makes one (R10). -/
def overrunLane (r : LaneRecord) (o : OnLane) (ln : Lane) : Lane :=
  if o.track.overruns r = true then ln.note .overrun .overrun else ln

theorem overrunLane_kept (r : LaneRecord) (o : OnLane) (ln : Lane) : (overrunLane r o ln).record = ln.record ∧
    (overrunLane r o ln).queueGen = ln.queueGen := by
  unfold overrunLane
  split <;> exact ⟨rfl, rfl⟩

/-- The state once the slot is completed, the taps of its lane apart. -/
def completedAt (l : LaneId) (r : LaneRecord) (i : Nat) (x : SlotData) (o : OnLane) (s : State) : State :=
  s.put l { overrunLane r o (s.lane l) with on := some { o with track := o.track.completed r i x } } s.fetchWait

/-- The state the feed monitor and the parser meet at an ingest. -/
def completedBase (l : LaneId) (r : LaneRecord) (i : Nat) (x : SlotData) (o : OnLane) (s : State) : State :=
  if r.role = .source then tapsIngest l r.slots (completedAt l r i x o s) else completedAt l r i x o s

theorem ingestBase_completed (on : (s.lane l).on = some o) (i : Nat) (x : SlotData) : ingestBase l r x
    (s.modOn l fun o => { o with track := { o.track with
      assembly := x, ingest := .synchronised ((i + 1) % r.slots) 0 } }) = completedBase l r i x o s := by
  rw [State.modOn_put on]
  unfold ingestBase completedBase completedAt overrunLane
  rw [State.lane_put_self, State.put_modOn]
  dsimp only
  have overruns : Tracker.overruns { o.track with assembly := x, ingest := .synchronised ((i + 1) % r.slots) 0 } r =
      o.track.overruns r := rfl
  rw [overruns]
  cases o.track.overruns r with
  | true =>
    unfold State.note
    rw [if_pos rfl, if_pos rfl, State.put_modLane]
    rfl
  | false => rfl

/-- R9: a whole write of the expected line 2 completes the slot, which is ingested. -/
theorem ringStep_of_completes {a : Addr} {d : Line} (done : Completes s a d l i r o x) (ff : Bool) :
    ringStep l i 2 d (BitVec.allOnes 64) ff s =
      if ff then parseSlot l r x (feedIngest l (completedBase l r i x o s))
        else feedIngest l (parseSlot l r x (completedBase l r i x o s)) := by
  rw [← ingestBase_completed done.ring.on, ← ingestStep_eq]
  unfold ringStep
  rw [State.onLane_of done.ring.record done.ring.on]
  dsimp only
  rw [done.expected, done.slot]
  dsimp only
  rw [if_pos ⟨rfl, rfl, rfl⟩, if_neg (Nat.lt_irrefl 2), if_neg (Nat.lt_irrefl 2)]

/-- What the tracker's part of the ingest makes of the lane. -/
structure Based (s u : State) (l : LaneId) (r : LaneRecord) (i : Nat) (x : SlotData) (o ob : OnLane) : Prop where
  on : (u.lane l).on = some ob
  context : ob = { o with track := o.track.completed r i x, fetch := ob.fetch }
  record : (u.lane l).record = (s.lane l).record
  tallied : Tallied [.slip] [.slip] (overrunLane r o (s.lane l)) (u.lane l)
  orders : u.orders = s.orders
  clips : u.clips = s.clips
  alerts : u.alerts = s.alerts
  report : u.report = s.report
  ms : u.stationMs = s.stationMs
  output : r.role = .output → Keeps s u l o ob ∧ Quiet s u l o ob

theorem completedBase_based (on : (s.lane l).on = some o) (i : Nat) (x : SlotData) :
    ∃ ob, Based s (completedBase l r i x o s) l r i x o ob := by
  have lane : (completedAt l r i x o s).lane l = { overrunLane r o (s.lane l) with
      on := some { o with track := o.track.completed r i x } } := State.lane_put_self _ _ _ _
  have kept := overrunLane_kept r o (s.lane l)
  unfold completedBase
  by_cases source : r.role = .source
  · rw [if_pos source]
    have run := (tapAdvance_writes l r.slots).run l (completedAt l r i x o s)
    obtain ⟨recorded, -, context⟩ := (tapAdvance_writes l r.slots).lanes l (completedAt l r i x o s) l
    obtain ⟨fetch, after⟩ := context _ (congrArg Lane.on lane)
    obtain ⟨lanes, w, rest⟩ := run.rest
    have tallied := tapsIngest_tallied l r.slots (completedAt l r i x o s) l
    rw [tapsIngest_eq] at tallied ⊢
    rw [lane] at recorded tallied
    refine ⟨_, ⟨after, rfl, recorded.trans kept.1, tallied.congr rfl rfl rfl rfl, ?_, ?_, ?_, ?_, ?_,
      fun output => nomatch source.symm.trans output⟩⟩ <;> rw [rest] <;> rfl
  · rw [if_neg source]
    refine ⟨{ o with track := o.track.completed r i x }, ⟨congrArg Lane.on lane, rfl, (congrArg Lane.record lane).trans kept.1,
      .of_eq (congrArg Lane.counts lane :) (congrArg Lane.flags lane :), rfl, rfl, rfl, rfl, rfl, fun _ => ⟨?_, ?_⟩⟩⟩
    · exact keeps_put on _ rfl kept.1 rfl rfl rfl rfl
    · exact ⟨rfl, rfl, (congrArg Lane.queueGen lane).trans kept.2, rfl, .rfl⟩

theorem completedBase_tracker (other : m ≠ l) : (completedBase l r i x o s).tracker m = s.tracker m := by
  have put : (completedAt l r i x o s).tracker m = s.tracker m := State.tracker_put s _ _ other
  unfold completedBase
  split
  · rw [tapsIngest_eq, (tapAdvance_writes l r.slots).tracker]
    exact put
  · exact put

end Sys2Proof.Machine
end

section
/-! PROOF. A cue taken (R33 to R39, R80, R92, R93), and what it leaves of its lane. -/

namespace Sys2Proof.Machine

variable {s t u v : State} {l m : LaneId} {r : LaneRecord} {o o' p' : OnLane} {f : Feed} {p : Packet} {x : SlotData} {i : Nat}
  {c : Cue} {w : WaitingCue} {y : ActiveInsertion}

/-! ## A cue decided -/

/-- Outcome `x` of a cue decided on lane `l`, of context `o`: a refusal changes nothing, and an accepted cue leaves the lane's
clock, feed, tracker, cues and alerts. -/
structure CueActed (u : State) (x : Option CueRefusal × State) (l : LaneId) (o o' : OnLane) : Prop where
  lane : x.2.lane l = { u.lane l with queueGen := (x.2.lane l).queueGen, on := some o' }
  clock : o'.clock = o.clock
  feed : o'.feed = o.feed
  track : o'.track = o.track
  cues : o'.cues = o.cues
  stack : o'.stack = o.stack
  ms : x.2.stationMs = u.stationMs
  report : x.2.report = u.report
  alerts : x.2.alerts = u.alerts
  refused : x.1.isSome = true → x.2 = u

theorem CueActed.of_refusal (on : (u.lane l).on = some o) (why : CueRefusal) : CueActed u (some why, u) l o o :=
  ⟨by rw [← on], rfl, rfl, rfl, rfl, rfl, rfl, rfl, rfl, fun _ => rfl⟩

theorem CueActed.of_put (on : (u.lane l).on = some o) (g : OnLane → OnLane) (clock : (g o).clock = o.clock)
    (feed : (g o).feed = o.feed) (track : (g o).track = o.track) (cues : (g o).cues = o.cues)
    (stack : (g o).stack = o.stack) : CueActed u (none, u.modOn l g) l o (g o) := by
  rw [State.modOn_put on]
  refine ⟨?_, clock, feed, track, cues, stack, rfl, rfl, rfl, nofun⟩
  rw [State.lane_put_self]

theorem CueActed.of_judgement {x : OnLane} (lane : v.lane l = u.lane l) (report : v.report = u.report)
    (alerts : v.alerts = u.alerts) (ms : v.stationMs = u.stationMs) (j : Judgement v l x t o')
    (clock : x.clock = o.clock) (feed : x.feed = o.feed) (track : x.track = o.track) (cues : x.cues = o.cues)
    (stack : x.stack = o.stack) : CueActed u (none, t) l o o' := by
  refine ⟨j.lane.trans (by rw [lane]), j.kept.clock.trans clock, j.kept.feed.trans feed, j.kept.track.trans track,
    j.kept.cues.trans cues, j.kept.stack.trans stack, ?_, j.report.trans report, j.alerts.trans alerts, nofun⟩
  have state : t.stationMs = v.stationMs := by rw [j.state]; rfl
  exact state.trans ms

theorem OrderMove.ms {j : OrderId} {z : Order} {held : List ClipId} {g : Nat → Nat} (move : OrderMove s u j z held g) :
    u.stationMs = s.stationMs := by
  obtain ⟨_, _, same⟩ := move.rest
  rw [same]

theorem bindCue_of_waiting (on : (u.lane l).on = some o) (waiting : o.waiting.isSome = true) (time : Stamp) :
    bindCue l c time u = (some .pendingFull, u) := by
  unfold bindCue
  rw [on]
  exact if_pos waiting

theorem bindCue_of_free (on : (u.lane l).on = some o) (free : o.waiting = none) (time : Stamp) : bindCue l c time u =
    match findOrder u l c.placement with
    | none => (some .noOrder, u)
    | some j => match c.kind with
      | .start => (none, bindOrder l j c.event .start time c.duration u)
      | _ => (none, bindOrder l j c.event .startOpen time none u) := by
  unfold bindCue
  rw [on, Option.bind_some, free] <;> rfl

theorem filter_event_none {a : Type} {g : a → BitVec 32} {z : Option a} {e : BitVec 32}
    (none : ∀ y, z = some y → g y ≠ e) : z.filter (fun y => g y == e) = Option.none := by
  cases z with
  | none => rfl
  | some y => simp [Option.filter, none y rfl]

theorem filter_event_some {a : Type} {g : a → BitVec 32} {z : Option a} {e : BitVec 32} {y : a} (some : z = some y)
    (event : g y = e) : z.filter (fun y => g y == e) = Option.some y := by
  rw [some]
  simp [Option.filter, event]

theorem returnCue_of_active (on : (u.lane l).on = some o) (active : o.active = some y) {e : BitVec 32}
    (event : y.event = e) (q : Stamp) : returnCue l e q u = (none, u.modOn l fun o => { o with
      active := some { y with ret := requestedReturn y.splice q (maxLengthOf u y.order) } }) := by
  unfold returnCue
  rw [on, Option.bind_some, filter_event_some (g := ActiveInsertion.event) active event]

theorem returnCue_of_waiting (on : (u.lane l).on = some o) {e : BitVec 32} (other : ∀ y, o.active = some y → y.event ≠ e)
    (waiting : o.waiting = some w) (event : w.event = e) (q : Stamp) : returnCue l e q u = (none, u.modOn l fun o =>
      { o with waiting := some { w with ret := requestedReturn w.splice q (maxLengthOf u w.order) } }) := by
  unfold returnCue
  rw [on, Option.bind_some, Option.bind_some, filter_event_none (g := ActiveInsertion.event) other,
    filter_event_some (g := WaitingCue.event) waiting event]

theorem returnCue_of_neither (on : (u.lane l).on = some o) {e : BitVec 32} (other : ∀ y, o.active = some y → y.event ≠ e)
    (neither : ∀ w, o.waiting = some w → w.event ≠ e) (q : Stamp) : returnCue l e q u = (some .unmatched, u) := by
  unfold returnCue
  rw [on, Option.bind_some, Option.bind_some, filter_event_none (g := ActiveInsertion.event) other,
    filter_event_none (g := WaitingCue.event) neither]

theorem cancelCue_of_waiting (on : (u.lane l).on = some o) (waiting : o.waiting = some w) {e : BitVec 32}
    (event : w.event = e) : cancelCue l e u = (none, removeWaiting l w u) := by
  unfold cancelCue
  rw [on, Option.bind_some, Option.bind_some, filter_event_some (g := WaitingCue.event) waiting event]

theorem cancelCue_of_active (on : (u.lane l).on = some o) {e : BitVec 32} (other : ∀ w, o.waiting = some w → w.event ≠ e)
    (active : o.active = some y) (event : y.event = e) : cancelCue l e u = (some .cancelLate, u) := by
  unfold cancelCue
  rw [on, Option.bind_some, Option.bind_some, filter_event_none (g := WaitingCue.event) other,
    filter_event_some (g := ActiveInsertion.event) active event]

theorem cancelCue_of_neither (on : (u.lane l).on = some o) {e : BitVec 32} (other : ∀ w, o.waiting = some w → w.event ≠ e)
    (neither : ∀ y, o.active = some y → y.event ≠ e) : cancelCue l e u = (some .unmatched, u) := by
  unfold cancelCue
  rw [on, Option.bind_some, Option.bind_some, filter_event_none (g := WaitingCue.event) other,
    filter_event_none (g := ActiveInsertion.event) neither]

theorem bindOrder_acted {j : OrderId} {b : OrderBody} (body : (u.order j).body = some b) (on : (u.lane l).on = some o)
    (e : BitVec 32) (k : BreakKind) (time : Stamp) (dur : Option Stamp) :
    ∃ o', CueActed u (none, bindOrder l j e k time dur u) l o o' := by
  obtain ⟨v, o', move, jud⟩ := bindOrder_judgement body on e k time dur
  exact ⟨o', .of_judgement (move.lane l) move.report move.alerts move.ms jud rfl rfl rfl rfl rfl⟩

theorem bindCue_acted (on : (u.lane l).on = some o) (time : Stamp) : ∃ o', CueActed u (bindCue l c time u) l o o' := by
  cases waiting : o.waiting with
  | some w =>
    rw [bindCue_of_waiting on (by rw [waiting]; rfl)]
    exact ⟨o, .of_refusal on _⟩
  | none =>
    rw [bindCue_of_free on waiting]
    split
    · exact ⟨o, .of_refusal on _⟩
    · next j found =>
      obtain ⟨-, b, body, -⟩ := findOrder_spec found
      split
      · exact bindOrder_acted body on _ _ _ _
      · exact bindOrder_acted body on _ _ _ _

theorem returnCue_acted (on : (u.lane l).on = some o) (e : BitVec 32) (q : Stamp) :
    ∃ o', CueActed u (returnCue l e q u) l o o' := by
  by_cases active : ∃ y, o.active = some y ∧ y.event = e
  · obtain ⟨y, active, event⟩ := active
    rw [returnCue_of_active on active event]
    exact ⟨_, .of_put on _ rfl rfl rfl rfl rfl⟩
  · have other : ∀ y, o.active = some y → y.event ≠ e := fun y some event => active ⟨y, some, event⟩
    by_cases waiting : ∃ w, o.waiting = some w ∧ w.event = e
    · obtain ⟨w, waiting, event⟩ := waiting
      rw [returnCue_of_waiting on other waiting event]
      exact ⟨_, .of_put on _ rfl rfl rfl rfl rfl⟩
    · rw [returnCue_of_neither on other fun w some event => waiting ⟨w, some, event⟩]
      exact ⟨o, .of_refusal on _⟩

theorem cancelCue_acted (on : (u.lane l).on = some o) (e : BitVec 32) : ∃ o', CueActed u (cancelCue l e u) l o o' := by
  by_cases waiting : ∃ w, o.waiting = some w ∧ w.event = e
  · obtain ⟨w, waiting, event⟩ := waiting
    rw [cancelCue_of_waiting on waiting event]
    obtain ⟨v, o', move, j⟩ := removeWaiting_judgement w on
    exact ⟨o', .of_judgement (move.lane l) move.report move.alerts move.ms j rfl rfl rfl rfl rfl⟩
  · have other : ∀ w, o.waiting = some w → w.event ≠ e := fun w some event => waiting ⟨w, some, event⟩
    by_cases active : ∃ y, o.active = some y ∧ y.event = e
    · obtain ⟨y, active, event⟩ := active
      rw [cancelCue_of_active on other active event]
      exact ⟨o, .of_refusal on _⟩
    · rw [cancelCue_of_neither on other fun y some event => active ⟨y, some, event⟩]
      exact ⟨o, .of_refusal on _⟩

theorem decideCue_acted (on : (u.lane l).on = some o) (timing : CueTiming) (c : Cue) :
    ∃ o', CueActed u (decideCue l timing c u) l o o' := by
  cases timing with
  | refused why => exact ⟨o, .of_refusal on why⟩
  | splice time => exact bindCue_acted on time
  | requested q => exact returnCue_acted on c.event q
  | cancel => exact cancelCue_acted on c.event

/-! ## A cue taken -/

/-- A cue of outcome `x` on the recent-cue list, with its record where it is refused (R37, R39, R101). -/
def cueListed (l : LaneId) (c : Cue) (pCue : Option Stamp) (x : Option CueRefusal × State) : State :=
  match x.1 with
  | some why => (x.2.modOn l fun o => { o with
      cues := joinCues o.cues { event := c.event, kind := c.kind, outcome := x.1 } }).handOver
      (cueRefusedRecord (x.2.modOn l fun o => { o with
        cues := joinCues o.cues { event := c.event, kind := c.kind, outcome := x.1 } }) l why c.event pCue c.time)
  | none => x.2.modOn l fun o => { o with
      cues := joinCues o.cues { event := c.event, kind := c.kind, outcome := x.1 } }

/-- P_cue of a cue whose slot has stamp `a` (R47). -/
def cueTime (r : LaneRecord) (o : OnLane) (a : Arrival) : Option Stamp := presentation o.clock r.playDelay (some a)

theorem listed_iff : (o.cues.any fun e => e.event == c.event && e.kind == c.kind) = true ↔
    ∃ e, e ∈ o.cues ∧ e.event = c.event ∧ e.kind = c.kind := by
  simp [List.any_eq_true]

theorem takeCue_of_listed (record : (u.lane l).record = some r) (on : (u.lane l).on = some o) (a : Arrival)
    (listed : ∃ e, e ∈ o.cues ∧ e.event = c.event ∧ e.kind = c.kind) : takeCue l c a u = u.raise l .duplicateCue := by
  unfold takeCue
  rw [State.onLane_of record on]
  exact if_pos (listed_iff.2 listed)

theorem takeCue_of_new (record : (u.lane l).record = some r) (on : (u.lane l).on = some o) (a : Arrival)
    (new : ¬ ∃ e, e ∈ o.cues ∧ e.event = c.event ∧ e.kind = c.kind) : takeCue l c a u =
      cueListed l c (cueTime r o a) (decideCue l (cueTiming o.clock r.lateGrace (cueTime r o a) c) c u) := by
  unfold takeCue
  rw [State.onLane_of record on]
  dsimp only
  rw [if_neg (mt listed_iff.1 new)]
  change _ = cueListed l c (cueTime r o a) (decideCue l (cueTiming o.clock r.lateGrace
    (presentation o.clock r.playDelay (some a)) c) c u)
  generalize decideCue l _ c u = z
  obtain ⟨why, v⟩ := z
  cases why <;> rfl

/-! ## What the cue handling leaves of its lane -/

/-- From `u` to `t` the cue handling has left lane `l` ON, with its clock, feed and tracker, and counts nothing but cues. -/
structure CueFrame (u t : State) (l : LaneId) (o o' : OnLane) : Prop where
  on : (t.lane l).on = some o'
  record : (t.lane l).record = (u.lane l).record
  clock : o'.clock = o.clock
  feed : o'.feed = o.feed
  track : o'.track = o.track
  ms : t.stationMs = u.stationMs
  tallied : Tallied [.notACue, .malformedCue, .duplicateCue] [.malformedCue] (u.lane l) (t.lane l)

theorem CueFrame.refl (on : (u.lane l).on = some o) : CueFrame u u l o o :=
  ⟨on, rfl, rfl, rfl, rfl, rfl, .of_eq rfl rfl⟩

theorem State.raise_lane (s : State) (l : LaneId) (k : Counter) : (s.raise l k).lane l = (s.lane l).raise k :=
  State.lane_modLane_self _ _ _

theorem State.note_lane (s : State) (l : LaneId) (k : Counter) (g : Flag) : (s.note l k g).lane l = (s.lane l).note k g :=
  State.lane_modLane_self _ _ _

theorem cueFrame_raise (on : (u.lane l).on = some o) {k : Counter} (cue : k ∈ [Counter.notACue, .malformedCue, .duplicateCue]) :
    CueFrame u (u.raise l k) l o o := by
  refine ⟨?_, ?_, rfl, rfl, rfl, rfl, ?_⟩ <;> rw [State.raise_lane]
  · exact on
  · rfl
  · exact .raise _ cue

theorem cueListed_lane {z : Option CueRefusal × State} (on : (z.2.lane l).on = some o) (c : Cue) (pCue : Option Stamp) :
    (cueListed l c pCue z).lane l = { z.2.lane l with
      on := some { o with cues := joinCues o.cues { event := c.event, kind := c.kind, outcome := z.1 } } } := by
  have lane : ∀ e : RecentCue, (z.2.modOn l fun o => { o with cues := joinCues o.cues e }).lane l =
      { z.2.lane l with on := some { o with cues := joinCues o.cues e } } := fun e => by
    rw [State.modOn_put on, State.lane_put_self]
  unfold cueListed
  split <;> exact lane _

theorem cueListed_ms (z : Option CueRefusal × State) (c : Cue) (pCue : Option Stamp) :
    (cueListed l c pCue z).stationMs = z.2.stationMs := by
  unfold cueListed
  split <;> rfl

theorem takeCue_frame (record : (u.lane l).record = some r) (on : (u.lane l).on = some o) (c : Cue) (a : Arrival) :
    ∃ o', CueFrame u (takeCue l c a u) l o o' := by
  by_cases listed : ∃ e, e ∈ o.cues ∧ e.event = c.event ∧ e.kind = c.kind
  · rw [takeCue_of_listed record on a listed]
    exact ⟨o, cueFrame_raise on (by simp)⟩
  · rw [takeCue_of_new record on a listed]
    obtain ⟨o', acted⟩ := decideCue_acted on (cueTiming o.clock r.lateGrace (cueTime r o a) c) c
    generalize decideCue l _ c u = z at acted ⊢
    have lane := cueListed_lane (congrArg Lane.on acted.lane) c (cueTime r o a)
    rw [acted.lane] at lane
    exact ⟨_, congrArg Lane.on lane, (congrArg Lane.record lane :), acted.clock, acted.feed, acted.track,
      (cueListed_ms _ _ _).trans acted.ms, .of_eq (congrArg Lane.counts lane :) (congrArg Lane.flags lane :)⟩

theorem cuePart_frame (record : (u.lane l).record = some r) (on : (u.lane l).on = some o) (x : SlotData) :
    ∃ o', CueFrame u (cuePart l r x u) l o o' := by
  unfold cuePart cueStep
  split
  · split
    · split
      · exact ⟨o, cueFrame_raise on (by simp)⟩
      · split
        · exact ⟨o, cueFrame_raise on (by simp)⟩
        · refine ⟨o, ?_⟩
          have lane := State.note_lane u l .malformedCue .malformedCue
          refine ⟨(congrArg Lane.on lane).trans on, (congrArg Lane.record lane :), rfl, rfl, rfl, rfl, ?_⟩
          refine (Tallied.note (u.lane l) (c := .malformedCue) (f := .malformedCue) ?_ ?_).congr rfl rfl
            (congrArg Lane.counts lane :) (congrArg Lane.flags lane :) <;> simp
        · exact takeCue_frame record on _ _
    · exact ⟨o, .refl on⟩
  · exact ⟨o, .refl on⟩

/-- A packet off the lane's cue label has no cue handling. -/
theorem cuePart_of_off (x : SlotData) (off : r.role = .source ∨ r.cueLabel ≠ some (packetLabel (slotPacket x))) (u : State) :
    cuePart l r x u = u := by
  have not : ¬ (r.role = .output ∧ r.cueLabel = some (packetLabel (slotPacket x)) ∧ unitStart (slotPacket x) = true ∧
      bearsPayload (slotPacket x) = true) := by
    rintro ⟨output, label, -⟩
    rcases off with source | other
    · exact nomatch source.symm.trans output
    · exact other label
  unfold cuePart cueStep
  rw [if_neg not]
  split <;> rfl

end Sys2Proof.Machine
end

section
/-! PROOF. The ingest of a completed slot as a whole (R10, R22 to R30, R107 to R109): O14 and O15. -/

namespace Sys2Proof.Machine

variable {s t u v : State} {l m : LaneId} {r : LaneRecord} {o o' p' : OnLane} {f : Feed} {p : Packet} {x : SlotData} {i : Nat}

/-! ## What the monitor and the parser make of the lane -/

/-- The feed after a capture notice, where the packet is a capture (R108). -/
def Feed.noticed (f : Feed) (r : LaneRecord) (p : Packet) : Feed :=
  if Captures r p then f.seen.settled r.recovery else f

/-- The feed after the slot's two events, in their order (R107, R108). -/
def Feed.afterSlot (f : Feed) (r : LaneRecord) (p : Packet) (ff : Bool) (now : Millis) : Feed :=
  if ff = true then ((f.ingest now).settled r.recovery).noticed r p else ((f.noticed r p).ingest now).settled r.recovery

/-- From `u` to `t` lane `l` has clock model `c` and feed `f`, has the packet's counter raised, and keeps its tracker. -/
structure Passed (u t : State) (l : LaneId) (o o' : OnLane) (c : ClockModel) (f : Feed) (n : Option (Counter × Flag)) :
    Prop where
  on : (t.lane l).on = some o'
  record : (t.lane l).record = (u.lane l).record
  clock : o'.clock = c
  feed : o'.feed = f
  track : o'.track = o.track
  ms : t.stationMs = u.stationMs
  tallied : Tallied [.notACue, .malformedCue, .duplicateCue] [.malformedCue] ((u.lane l).noted n) (t.lane l)

theorem Passed.trans {c d : ClockModel} {g : Feed} {n : Option (Counter × Flag)} (a : Passed s t l o o' c f n)
    (b : Passed t u l o' p' d g none) : Passed s u l o p' d g n :=
  ⟨b.on, b.record.trans a.record, b.clock, b.feed, b.track.trans a.track, b.ms.trans a.ms, a.tallied.trans b.tallied⟩

theorem noted_congr {a b : Lane} (counts : b.counts = a.counts) (flags : b.flags = a.flags) (n : Option (Counter × Flag)) :
    (b.noted n).counts = (a.noted n).counts ∧ (b.noted n).flags = (a.noted n).flags := by
  cases n with
  | none => exact ⟨counts, flags⟩
  | some n =>
    unfold Lane.noted Lane.note Lane.raise Lane.setFlag
    dsimp only
    rw [counts, flags]
    exact ⟨rfl, rfl⟩

theorem Passed.after {c d : ClockModel} {g : Feed} {n : Option (Counter × Flag)} (a : Passed s t l o o' c f none)
    (same : (t.lane l).counts = (s.lane l).counts ∧ (t.lane l).flags = (s.lane l).flags) (b : Passed t u l o' p' d g n) :
    Passed s u l o p' d g n := by
  obtain ⟨counts, flags⟩ := noted_congr same.1 same.2 n
  exact ⟨b.on, b.record.trans a.record, b.clock, b.feed, b.track.trans a.track, b.ms.trans a.ms,
    b.tallied.congr counts.symm flags.symm rfl rfl⟩

theorem ProofJudged.passed (j : ProofJudged u t l r o f o') : Passed u t l o o' o.clock (f.settled r.recovery) none :=
  ⟨j.keeps.on, j.keeps.record, j.clock, j.feed, j.track, j.keeps.ms, .of_eq j.counts j.flags⟩

theorem CueFrame.passed (j : CueFrame u t l o o') : Passed u t l o o' o.clock o.feed none :=
  ⟨j.on, j.record, j.clock, j.feed, j.track, j.ms, j.tallied⟩

theorem clocked_passed (on : (s.lane l).on = some o) (p : Packet) (a : Arrival) : Passed s (clocked l r p a o s) l o
    (o.withClock (clockAfter r p a s.stationMs o.clock)) (clockAfter r p a s.stationMs o.clock) o.feed (packetNote r p) := by
  have lane := clocked_lane (s := s) (l := l) (r := r) (o := o) p a
  exact ⟨congrArg Lane.on lane, (keeps_clocked on p a).record, rfl, rfl, rfl, rfl,
    .of_eq (congrArg Lane.counts lane :) (congrArg Lane.flags lane :)⟩

/-- The clock handling with its capture notice. -/
theorem noticed_passed (record : (s.lane l).record = some r) (on : (s.lane l).on = some o) (p : Packet) (a : Arrival) :
    ∃ o', Passed s (if Captures r p then captureNotice l (clocked l r p a o s) else clocked l r p a o s) l o o'
      (clockAfter r p a s.stationMs o.clock) (o.feed.noticed r p) (packetNote r p) := by
  have before := clocked_passed (r := r) on p a
  unfold Feed.noticed
  split
  · obtain ⟨o', j⟩ := captureNotice_judged (before.record.trans record) before.on
    exact ⟨o', before.trans j.passed⟩
  · exact ⟨_, before⟩

theorem parseSlot_passed (record : (s.lane l).record = some r) (on : (s.lane l).on = some o) (x : SlotData) :
    ∃ o', Passed s (parseSlot l r x s) l o o' (clockAfter r (slotPacket x) (slotStamp x) s.stationMs o.clock)
      (o.feed.noticed r (slotPacket x)) (packetNote r (slotPacket x)) := by
  rw [parseSlot_eq on x]
  obtain ⟨o₁, before⟩ := noticed_passed record on (slotPacket x) (slotStamp x)
  obtain ⟨o₂, cue⟩ := cuePart_frame (before.record.trans record) before.on x
  have whole := before.trans cue.passed
  rw [before.clock, before.feed] at whole
  exact ⟨o₂, whole⟩

/-- The slot's events for the feed monitor and the parser, in their order. -/
def slotEvents (l : LaneId) (r : LaneRecord) (x : SlotData) (ff : Bool) (s : State) : State :=
  if ff = true then parseSlot l r x (feedIngest l s) else feedIngest l (parseSlot l r x s)

theorem slotEvents_passed (record : (s.lane l).record = some r) (on : (s.lane l).on = some o) (x : SlotData) (ff : Bool) :
    ∃ o', Passed s (slotEvents l r x ff s) l o o' (clockAfter r (slotPacket x) (slotStamp x) s.stationMs o.clock)
      (o.feed.afterSlot r (slotPacket x) ff s.stationMs) (packetNote r (slotPacket x)) := by
  unfold slotEvents Feed.afterSlot
  cases ff with
  | true =>
    obtain ⟨o₁, j⟩ := feedIngest_judged record on
    obtain ⟨o₂, parse⟩ := parseSlot_passed (j.keeps.record.trans record) j.keeps.on x
    have whole := j.passed.after ⟨j.counts, j.flags⟩ parse
    rw [j.keeps.ms, j.clock, j.feed] at whole
    exact ⟨o₂, whole⟩
  | false =>
    obtain ⟨o₁, parse⟩ := parseSlot_passed record on x
    obtain ⟨o₂, j⟩ := feedIngest_judged (parse.record.trans record) parse.on
    have whole := parse.trans j.passed
    rw [parse.ms, parse.clock, parse.feed] at whole
    exact ⟨o₂, whole⟩

/-- R9: a whole write of the expected line 2 completes the slot, which is ingested. -/
theorem exec_of_completes {a : Addr} {d : Line} (done : Completes s a d l i r o x) (ff : Bool) :
    exec (.ringWrite a d (BitVec.allOnes 64) ff) s = .next (forwardWrite a d (BitVec.allOnes 64) none
      (slotEvents l r x ff (completedBase l r i x o s))) := by
  rw [exec_ringWrite_of_ring done.ring, ringStep_of_completes done] <;> rfl

/-! ## The lines expected (R9, R10) -/

theorem inner_slotEvents {α : Type} {g : OnLane → α} (hg : Blind g) (hc : ∀ o x, g { o with cues := x } = g o) (l : LaneId)
    (r : LaneRecord) (x : SlotData) (ff : Bool) (s : State) : Inner g s (slotEvents l r x ff s) := by
  unfold slotEvents
  split
  · exact (inner_feedIngest hg l s).trans (inner_parseSlot hg hc l r x _)
  · exact (inner_parseSlot hg hc l r x s).trans (inner_feedIngest hg l _)

/-- What is counted of a packet is one of five counters, with its flag. -/
theorem packetNote_listed {n : Counter × Flag} (note : packetNote r p = some n) :
    n ∈ [(Counter.noMarker, Flag.noMarker), (.badHeader, .badHeader), (.errored, .errored), (.badReference, .badReference),
      (.timebaseChange, .timebaseChanged)] := by
  unfold packetNote at note
  split at note
  · split at note
    · cases note; simp
    · cases note; simp
    · split at note
      · split at note
        · split at note <;> cases note
          simp
        · cases note; simp
      · cases note
  · cases note; simp

theorem noted_tallied (ln : Lane) (r : LaneRecord) (p : Packet) :
    Tallied [.noMarker, .badHeader, .errored, .badReference, .timebaseChange]
      [.noMarker, .badHeader, .errored, .badReference, .timebaseChanged] ln (ln.noted (packetNote r p)) := by
  cases note : packetNote r p with
  | none => exact .of_eq rfl rfl
  | some n =>
    have listed := packetNote_listed note
    exact .note ln (List.mem_map_of_mem (f := Prod.fst) listed) (List.mem_map_of_mem (f := Prod.snd) listed)

theorem joinHistory_eq (h : List Arrival) (a : Arrival) :
    joinHistory h a = (if h.length < 33 then h else h.tail) ++ [a] := by
  unfold joinHistory
  split <;> rfl

theorem completed_eq (t : Tracker) (r : LaneRecord) (i : Nat) (x : SlotData) : t.completed r i x =
    { t with
      assembly := x
      ingest := .synchronised ((i + 1) % r.slots) 0
      history := (if t.history.length < 33 then t.history else t.history.tail) ++ [slotStamp x]
      estimate := slotInterval r.nominal
        ((if t.history.length < 33 then t.history else t.history.tail) ++ [slotStamp x])
      fill := if r.role = .output ∧ 0 < t.lead then t.fill else min r.slots (t.fill + 1)
      lead := if r.role = .output ∧ 0 < t.lead then t.lead - 1 else t.lead } := by
  rw [← joinHistory_eq]
  unfold Tracker.completed Tracker.ingestSlot
  dsimp only
  split
  · rfl
  · rw [heldAt_eq_min]

theorem exec_of_expected {a : Addr} {line : Nat} (ring : InRing s a l i line r o)
    (expected : o.track.ingest = .synchronised i line) (early : line < 2) (d : Line) (ff : Bool) :
    exec (.ringWrite a d (BitVec.allOnes 64) ff) s = .next (forwardWrite a d (BitVec.allOnes 64) none
      (s.modOn l fun o => { o with track := { o.track with
        assembly := setSlotLine o.track.assembly line d, ingest := .synchronised i (line + 1) } })) := by
  rw [exec_ringWrite_of_ring ring]
  unfold ringStep
  rw [State.onLane_of ring.record ring.on]
  dsimp only
  rw [expected]
  dsimp only
  rw [if_pos ⟨rfl, rfl, rfl⟩, if_pos early, if_pos early, State.modOn_put ring.on, State.modOn_put ring.on]

/-- Settles O14: the tracker's part of the ingest is `Tracker.completed`, and the events after it keep the tracker. -/
theorem acceptedLinesAreIngested : Obligations.AcceptedLinesAreIngested := by
  unfold Obligations.AcceptedLinesAreIngested
  refine ⟨fun a d ff s l i line r o ring expected early => ?_, fun a d ff s l i r o ring expected => ?_⟩
  · rw [exec_of_expected ring expected early, State.modOn_put ring.on]
    rfl
  · intro x h passed overrun
    have done : Completes s a d l i r o x := ⟨ring, expected, rfl⟩
    obtain ⟨ob, base⟩ := completedBase_based (r := r) ring.on i x
    obtain ⟨o', pass⟩ := slotEvents_passed (base.record.trans ring.record) base.on x ff
    have run := exec_of_completes done ff
    obtain ⟨ports, engine⟩ := ringStep_frame l i 2 d (BitVec.allOnes 64) ff s a
    have inner := inner_ringStep blind_unit (fun _ _ => rfl) (fun _ _ => rfl) l i 2 d (BitVec.allOnes 64) ff s
    have track := (inner_slotEvents blind_track (fun _ _ => rfl) l r x ff (completedBase l r i x o s)).on
    rw [ringStep_of_completes done] at ports engine inner
    change SamePorts s (forwardWrite a d _ none (slotEvents l r x ff (completedBase l r i x o s))) at ports
    change SameEngine s (forwardWrite a d _ none (slotEvents l r x ff (completedBase l r i x o s))) at engine
    change Inner _ s (slotEvents l r x ff (completedBase l r i x o s)) at inner
    have overruns : overrun ↔ o.track.overruns r = true := by
      simp [overrun, Tracker.overruns, and_assoc]
    generalize slotEvents l r x ff (completedBase l r i x o s) = t at run pass ports engine inner track
    have tallied : (t.lane l).count .overrun = (overrunLane r o (s.lane l)).count .overrun ∧
        (t.lane l).flag .overrun = (overrunLane r o (s.lane l)).flag .overrun := by
      have noted := noted_tallied ((completedBase l r i x o s).lane l) r (slotPacket x)
      exact ⟨(pass.tallied.counts _ (by simp)).trans ((noted.counts _ (by simp)).trans (base.tallied.counts _ (by simp))),
        (pass.tallied.flags _ (by simp)).trans ((noted.flags _ (by simp)).trans (base.tallied.flags _ (by simp)))⟩
    unfold overrunLane at tallied
    refine ⟨_, run, ?_, ?_, ?_, fun m other => ?_, inner.record, ports, engine⟩
    · refine (track l).trans ?_
      rw [base.on, base.context, Option.map_some, completed_eq]
      rfl
    · refine tallied.1.trans ?_
      split
      · next full => rw [if_pos (overruns.2 full)]; rfl
      · next fits => rw [if_neg (mt overruns.1 fits)]
    · refine tallied.2.trans ?_
      split
      · next full =>
        rw [decide_eq_true (overruns.2 full), Bool.or_true]
        exact Lane.flag_note_self _ _ _
      · next fits => rw [decide_eq_false (mt overruns.1 fits), Bool.or_false]
    · exact (track m).trans (completedBase_tracker other)

end Sys2Proof.Machine
end

section
/-! PROOF. The clock model and the feed at an ingest (R25 to R30, R107 to R109): O15. -/

namespace Sys2Proof.Machine

variable {s t u v : State} {l m : LaneId} {r : LaneRecord} {o o' p' : OnLane} {f : Feed} {p : Packet} {x : SlotData} {i : Nat}
  {now : Millis}

/-! ## The feed after the slot's two events -/

/-- The good count once an ingest has been counted (R107). -/
def Feed.goodAfter (f : Feed) : Nat :=
  match f.state with
  | .live => f.good
  | .lost => 1
  | .recovering => min 255 (f.good + 1)

/-- The slot completes the proof (R108). -/
abbrev Feed.Proves (f : Feed) (r : LaneRecord) (p : Packet) : Prop :=
  f.state ≠ .live ∧ r.recovery ≤ f.goodAfter ∧ (f.captureSeen = true ∨ Captures r p)

theorem goesLive_iff {n : Nat} : f.goesLive n ↔ f.state = .recovering ∧ n ≤ f.good ∧ f.captureSeen = true := by
  unfold Feed.goesLive Feed.proven
  rw [Bool.and_eq_true, decide_eq_true_eq]

theorem ingest_eq (f : Feed) (now : Millis) : f.ingest now =
    { f with
      state := if f.state = .live then .live else .recovering
      lossTimer := some now
      good := f.goodAfter } := by
  unfold Feed.ingest Feed.goodAfter
  cases f.state with
  | live => rfl
  | lost => rfl
  | recovering => rw [heldAt_eq_min] <;> rfl

/-- The proof judged at the ingest event. -/
theorem goesLive_ingest {n : Nat} :
    (f.ingest now).goesLive n ↔ f.state ≠ .live ∧ n ≤ f.goodAfter ∧ f.captureSeen = true := by
  rw [goesLive_iff, ingest_eq]
  by_cases live : f.state = .live <;> simp [live]

theorem settled_timer (f : Feed) (n : Nat) : (f.settled n).lossTimer = f.lossTimer ∧
    (f.settled n).captureSeen = f.captureSeen := by
  unfold Feed.settled
  split <;> exact ⟨rfl, rfl⟩

theorem noticed_timer (f : Feed) (r : LaneRecord) (p : Packet) : (f.noticed r p).lossTimer = f.lossTimer ∧
    ((f.noticed r p).captureSeen = true ↔ f.captureSeen = true ∨ Captures r p) := by
  unfold Feed.noticed
  split
  · next captures =>
    rw [(settled_timer _ _).1, (settled_timer _ _).2]
    exact ⟨rfl, iff_of_true rfl (.inr captures)⟩
  · next not => exact ⟨rfl, (or_iff_left not).symm⟩

/-- The loss timer restarts, and a capture counts as seen. -/
theorem afterSlot_timer (f : Feed) (r : LaneRecord) (p : Packet) (ff : Bool) (now : Millis) :
    (f.afterSlot r p ff now).lossTimer = some now ∧
      ((f.afterSlot r p ff now).captureSeen = true ↔ f.captureSeen = true ∨ Captures r p) := by
  have timer : (f.ingest now).lossTimer = some now ∧ (f.ingest now).captureSeen = f.captureSeen := by
    rw [ingest_eq]
    exact ⟨rfl, rfl⟩
  unfold Feed.afterSlot
  split
  · rw [(noticed_timer _ _ _).1, (noticed_timer _ _ _).2, (settled_timer _ _).1, (settled_timer _ _).2, timer.1, timer.2]
    exact ⟨rfl, .rfl⟩
  · rw [(settled_timer _ _).1, (settled_timer _ _).2, ← (noticed_timer f r p).2, ingest_eq]
    exact ⟨rfl, .rfl⟩

/-- The first of the slot's two events takes the feed to LIVE. -/
def Feed.FirstGoes (f : Feed) (r : LaneRecord) (p : Packet) (ff : Bool) (now : Millis) : Prop :=
  if ff = true then (f.ingest now).goesLive r.recovery else Captures r p ∧ f.seen.goesLive r.recovery

/-- The second does. -/
def Feed.SecondGoes (f : Feed) (r : LaneRecord) (p : Packet) (ff : Bool) (now : Millis) : Prop :=
  if ff = true then Captures r p ∧ ((f.ingest now).settled r.recovery).seen.goesLive r.recovery
  else ((f.noticed r p).ingest now).goesLive r.recovery

theorem noticed_of_not_capture (not : ¬ Captures r p) : f.noticed r p = f := if_neg not
theorem noticed_of_capture (captures : Captures r p) : f.noticed r p = f.seen.settled r.recovery := if_pos captures

/-- Where the first event does not take the feed to LIVE, the second sees the mark and the count of the whole slot. -/
theorem secondGoes_iff {ff : Bool} (first : ¬ f.FirstGoes r p ff now) : f.SecondGoes r p ff now ↔ f.Proves r p := by
  unfold Feed.FirstGoes at first
  unfold Feed.SecondGoes
  cases ff with
  | true =>
    rw [if_pos rfl] at first ⊢
    have unseen : ¬ (f.state ≠ .live ∧ r.recovery ≤ f.goodAfter ∧ f.captureSeen = true) := mt goesLive_ingest.2 first
    rw [Feed.settled_of_not first, goesLive_iff, ingest_eq]
    by_cases live : f.state = .live
    · exact iff_of_false (fun h => by simp [Feed.seen, live] at h) fun h => h.1 live
    · constructor
      · rintro ⟨captures, -, good, -⟩
        exact ⟨live, good, .inr captures⟩
      · rintro ⟨-, good, seen | captures⟩
        · exact absurd ⟨live, good, seen⟩ unseen
        · exact ⟨captures, if_neg live, good, rfl⟩
  | false =>
    rw [if_neg Bool.false_ne_true] at first ⊢
    rw [goesLive_ingest]
    by_cases captures : Captures r p
    · have still : f.noticed r p = f.seen := by
        rw [noticed_of_capture captures]
        exact Feed.settled_of_not fun goes => first ⟨captures, goes⟩
      rw [still]
      exact and_congr_right' (and_congr_right' (iff_of_true rfl (.inr captures)))
    · rw [noticed_of_not_capture captures]
      exact and_congr_right' (and_congr_right' (or_iff_left captures).symm)

theorem proves_of_firstGoes {ff : Bool} (bound : r.recovery ≤ 255) (first : f.FirstGoes r p ff now) : f.Proves r p := by
  unfold Feed.FirstGoes at first
  split at first
  · obtain ⟨dark, good, seen⟩ := goesLive_ingest.1 first
    exact ⟨dark, good, .inl seen⟩
  · obtain ⟨captures, goes⟩ := first
    obtain ⟨recovering, good, -⟩ := goesLive_iff.1 goes
    have recovering : f.state = .recovering := recovering
    have good : r.recovery ≤ f.good := good
    refine ⟨by rw [recovering]; exact nofun, ?_, .inr captures⟩
    unfold Feed.goodAfter
    rw [recovering]
    dsimp only
    omega

/-- Once LIVE, the slot's second event does not take the feed there again. -/
theorem not_secondGoes {ff : Bool} (first : f.FirstGoes r p ff now) : ¬ f.SecondGoes r p ff now := by
  unfold Feed.FirstGoes at first
  unfold Feed.SecondGoes
  cases ff with
  | true =>
    rw [if_pos rfl] at first ⊢
    rw [Feed.settled_of_live first, goesLive_iff]
    exact fun h => nomatch h.2.1
  | false =>
    rw [if_neg Bool.false_ne_true] at first ⊢
    rw [noticed_of_capture first.1, Feed.settled_of_live first.2, goesLive_ingest]
    exact fun h => h.1 rfl

theorem goes_iff_proves {ff : Bool} (bound : r.recovery ≤ 255) :
    f.FirstGoes r p ff now ∨ f.SecondGoes r p ff now ↔ f.Proves r p := by
  by_cases first : f.FirstGoes r p ff now
  · exact iff_of_true (.inl first) (proves_of_firstGoes bound first)
  · rw [or_iff_right first, secondGoes_iff first]

/-- The feed after the slot where neither event has taken it to LIVE. -/
theorem afterSlot_of_still {ff : Bool} (first : ¬ f.FirstGoes r p ff now) (second : ¬ f.SecondGoes r p ff now) :
    (f.afterSlot r p ff now).good = f.goodAfter ∧ (f.afterSlot r p ff now).outage = f.outage ∧
      (f.afterSlot r p ff now).state = if f.state = .live then .live else .recovering := by
  unfold Feed.FirstGoes at first
  unfold Feed.SecondGoes at second
  unfold Feed.afterSlot
  have noticed {g : Feed} (not : ¬ (Captures r p ∧ g.seen.goesLive r.recovery)) : (g.noticed r p).good = g.good ∧
      (g.noticed r p).outage = g.outage ∧ (g.noticed r p).state = g.state := by
    by_cases captures : Captures r p
    · rw [noticed_of_capture captures, Feed.settled_of_not fun goes => not ⟨captures, goes⟩]
      exact ⟨rfl, rfl, rfl⟩
    · rw [noticed_of_not_capture captures]
      exact ⟨rfl, rfl, rfl⟩
  cases ff with
  | true =>
    rw [if_pos rfl] at first second ⊢
    obtain ⟨good, outage, state⟩ := noticed second
    rw [good, outage, state, Feed.settled_of_not first, ingest_eq]
    exact ⟨rfl, rfl, rfl⟩
  | false =>
    rw [if_neg Bool.false_ne_true] at first second ⊢
    obtain ⟨good, outage, state⟩ := noticed first
    rw [Feed.settled_of_not second, ingest_eq]
    unfold Feed.goodAfter
    rw [good, outage, state]
    exact ⟨rfl, rfl, rfl⟩

theorem afterSlot_of_goes {ff : Bool} (goes : f.FirstGoes r p ff now ∨ f.SecondGoes r p ff now) :
    (f.afterSlot r p ff now).state = .live ∧ (f.afterSlot r p ff now).outage = none := by
  unfold Feed.FirstGoes Feed.SecondGoes at goes
  unfold Feed.afterSlot
  have noticed {g : Feed} (live : g.state = .live ∧ g.outage = none) : (g.noticed r p).state = .live ∧
      (g.noticed r p).outage = none := by
    unfold Feed.noticed
    split
    · rw [Feed.settled_of_not (f := g.seen) fun goes => nomatch live.1.symm.trans goes.1]
      exact live
    · exact live
  cases ff with
  | true =>
    rw [if_pos rfl, if_pos rfl] at goes
    rw [if_pos rfl]
    rcases goes with first | ⟨captures, second⟩
    · exact noticed (by rw [Feed.settled_of_live first]; exact ⟨rfl, rfl⟩)
    · rw [noticed_of_capture captures, Feed.settled_of_live second]
      exact ⟨rfl, rfl⟩
  | false =>
    rw [if_neg Bool.false_ne_true, if_neg Bool.false_ne_true] at goes
    rw [if_neg Bool.false_ne_true]
    rcases goes with ⟨captures, first⟩ | second
    · rw [noticed_of_capture captures, Feed.settled_of_live first, Feed.settled_of_not]
      · rw [ingest_eq]
        exact ⟨rfl, rfl⟩
      · exact fun goes => (goesLive_ingest.1 goes).1 rfl
    · rw [Feed.settled_of_live second]
      exact ⟨rfl, rfl⟩

/-! ## The record and the fetch source -/

/-- The report writer once an outage, where there is one, has given its FEED_RESTORED record (R109, R116). -/
def restoredReport (l : LaneId) (r : LaneRecord) (o : OnLane) (outage : Option Outage) (now : Millis) (rep : Report) :
    Report :=
  match outage with
  | some x => rep.handOver (feedRestoredRecord l r o x now)
  | none => rep

theorem restoredReport_congr {outage : Option Outage} {rep : Report} (clock : o'.clock = o.clock)
    (prev : o'.track.prevStamp = o.track.prevStamp) :
    restoredReport l r o' outage now rep = restoredReport l r o outage now rep := by
  unfold restoredReport feedRestoredRecord lossTime
  rw [clock, prev]

/-- From `u` to `t` events of the feed monitor and the parser, of which at most one takes the feed of lane `l` to LIVE, under
clock model `c`, where `goes` holds. -/
structure Turn (u t : State) (l : LaneId) (r : LaneRecord) (o o' : OnLane) (goes : Prop) (c : ClockModel) : Prop where
  keeps : Keeps u t l o o'
  tables : Agree u t
  prev : o'.track.prevStamp = o.track.prevStamp
  still : ¬ goes → Quiet u t l o o' ∧ o'.feed.outage = o.feed.outage
  live : goes → SourceJudged t r (u.lane l) o (t.lane l) o' ∧
    t.report = restoredReport l r (o.withClock c) o.feed.outage u.stationMs u.report

theorem ProofJudged.turn (j : ProofJudged u t l r o f o') (outage : f.outage = o.feed.outage)
    (live : f.state = .live ↔ o.feed.state = .live) : Turn u t l r o o' (f.goesLive r.recovery) o.clock := by
  refine ⟨j.keeps, j.tables, by rw [j.track], fun not => ?_, fun goes => ?_⟩
  · obtain ⟨report, fetch, gen, sel⟩ := j.still not
    have feed := j.feed.trans (Feed.settled_of_not not)
    exact ⟨⟨report, fetch, gen, sel, by rw [feed, live]⟩, by rw [feed, outage]⟩
  · obtain ⟨judged, report⟩ := j.live goes
    refine ⟨judged, report.trans ?_⟩
    rw [outage]
    unfold restoredReport
    cases o.feed.outage <;> rfl

/-- The clock handling of a slot goes on without a judgement. -/
theorem clocked_turn (on : (u.lane l).on = some o) (p : Packet) (a : Arrival) (c : ClockModel) : Turn u (clocked l r p a o u)
    l r o (o.withClock (clockAfter r p a u.stationMs o.clock)) False c :=
  ⟨keeps_clocked on p a, agree_clocked on p a, rfl, fun _ => ⟨quiet_clocked p a, rfl⟩, nofun⟩

/-- A judgement made after what is quiet. -/
theorem SourceJudged.after_quiet {w : State} {z : OnLane} (judged : SourceJudged w r (v.lane l) o' (w.lane l) z)
    (quiet : Quiet u v l o o') : SourceJudged w r (u.lane l) o (w.lane l) z :=
  judged.of_before quiet.gen quiet.sel (by rw [quiet.fetch]) (by rw [quiet.fetch]) (by rw [quiet.fetch])

theorem Turn.trans {a b : Prop} {c d k : ClockModel} (first : Turn u t l r o o' a c) (second : Turn t v l r o' p' b d)
    (never : a → ¬ b) (model_first : a → k = c) (model_second : b → k = d) : Turn u v l r o p' (a ∨ b) k := by
  refine ⟨first.keeps.trans second.keeps, first.tables.trans second.tables, second.prev.trans first.prev, fun not => ?_,
    fun goes => ?_⟩
  · obtain ⟨not_first, not_second⟩ := not_or.1 not
    obtain ⟨quiet, outage⟩ := first.still not_first
    obtain ⟨quiet', outage'⟩ := second.still not_second
    exact ⟨quiet.trans quiet', outage'.trans outage⟩
  · by_cases goes_first : a
    · obtain ⟨judged, report⟩ := first.live goes_first
      obtain ⟨quiet, -⟩ := second.still (never goes_first)
      rw [model_first goes_first]
      exact ⟨judged.quiet second.keeps quiet second.tables, quiet.report.trans report⟩
    · have goes_second := goes.resolve_left goes_first
      obtain ⟨quiet, outage⟩ := first.still goes_first
      obtain ⟨judged, report⟩ := second.live goes_second
      rw [outage, first.keeps.ms, quiet.report] at report
      rw [model_second goes_second]
      refine ⟨judged.after_quiet quiet, report.trans (restoredReport_congr rfl ?_)⟩
      exact first.prev

theorem Turn.congr {a b : Prop} {c : ClockModel} (turn : Turn u t l r o o' a c) (same : a ↔ b) : Turn u t l r o o' b c :=
  propext same ▸ turn

theorem feedIngest_turn (record : (u.lane l).record = some r) (on : (u.lane l).on = some o) :
    ∃ o', Turn u (feedIngest l u) l r o o' ((o.feed.ingest u.stationMs).goesLive r.recovery) o.clock ∧
      o'.clock = o.clock ∧ o'.feed = (o.feed.ingest u.stationMs).settled r.recovery := by
  obtain ⟨o', j⟩ := feedIngest_judged record on
  refine ⟨o', j.turn (by rw [ingest_eq]) ?_, j.clock, j.feed⟩
  rw [ingest_eq]
  by_cases live : o.feed.state = .live <;> simp [live]

/-- The clock handling with its capture notice. -/
theorem noticed_turn (record : (u.lane l).record = some r) (on : (u.lane l).on = some o) (p : Packet) (a : Arrival) :
    ∃ o', Turn u (if Captures r p then captureNotice l (clocked l r p a o u) else clocked l r p a o u) l r o o'
      (Captures r p ∧ o.feed.seen.goesLive r.recovery) (clockAfter r p a u.stationMs o.clock) ∧
      o'.clock = clockAfter r p a u.stationMs o.clock ∧ o'.feed = o.feed.noticed r p := by
  have before := clocked_turn (r := r) on p a (clockAfter r p a u.stationMs o.clock)
  by_cases captures : Captures r p
  · rw [if_pos captures, noticed_of_capture captures]
    obtain ⟨o', j⟩ := captureNotice_judged (before.keeps.record.trans record) before.keeps.on
    have turn := before.trans (j.turn rfl .rfl) (fun no => no.elim) (fun no => no.elim) (fun _ => rfl)
    exact ⟨o', turn.congr (by rw [false_or, and_iff_right captures]; exact .rfl), j.clock, j.feed⟩
  · rw [if_neg captures, noticed_of_not_capture captures]
    exact ⟨_, before.congr (iff_of_false id fun h => captures h.1), rfl, rfl⟩

/-- The slot's two events, off the cue label. -/
theorem slotEvents_turn (record : (u.lane l).record = some r) (on : (u.lane l).on = some o) (x : SlotData) (ff : Bool)
    (off : r.role = .source ∨ r.cueLabel ≠ some (packetLabel (slotPacket x))) :
    ∃ o', Turn u (slotEvents l r x ff u) l r o o'
      (o.feed.FirstGoes r (slotPacket x) ff u.stationMs ∨ o.feed.SecondGoes r (slotPacket x) ff u.stationMs)
      (if ff = true ∧ o.feed.captureSeen = true then o.clock
        else clockAfter r (slotPacket x) (slotStamp x) u.stationMs o.clock) := by
  have parse : ∀ {v : State} {z : OnLane}, (v.lane l).on = some z → parseSlot l r x v =
      if Captures r (slotPacket x) then captureNotice l (clocked l r (slotPacket x) (slotStamp x) z v)
      else clocked l r (slotPacket x) (slotStamp x) z v := fun on => by
    rw [parseSlot_eq on, cuePart_of_off x off]
  have never := not_secondGoes (f := o.feed) (r := r) (p := slotPacket x) (ff := ff) (now := u.stationMs)
  have second := secondGoes_iff (f := o.feed) (r := r) (p := slotPacket x) (ff := ff) (now := u.stationMs)
  unfold slotEvents Feed.FirstGoes Feed.SecondGoes at *
  cases ff with
  | true =>
    simp only [if_pos] at never second ⊢
    obtain ⟨o₁, first, clock, feed⟩ := feedIngest_turn record on
    obtain ⟨o₂, then_, -⟩ := noticed_turn (first.keeps.record.trans record) first.keeps.on (slotPacket x) (slotStamp x)
    rw [feed, clock, first.keeps.ms] at then_
    rw [parse first.keeps.on]
    refine ⟨o₂, first.trans then_ never (fun goes => ?_) fun goes => ?_⟩
    · obtain ⟨-, -, seen⟩ := goesLive_ingest.1 goes
      exact if_pos ⟨trivial, seen⟩
    · refine if_neg fun ⟨_, seen⟩ => ?_
      by_cases goes_first : (o.feed.ingest u.stationMs).goesLive r.recovery
      · exact never goes_first goes
      · obtain ⟨dark, good, -⟩ := (second goes_first).1 goes
        exact goes_first (goesLive_ingest.2 ⟨dark, good, seen⟩)
  | false =>
    simp only [Bool.false_eq_true, if_false, false_and] at never ⊢
    rw [parse on]
    obtain ⟨o₁, first, clock, feed⟩ := noticed_turn record on (slotPacket x) (slotStamp x)
    obtain ⟨o₂, then_, -⟩ := feedIngest_turn (first.keeps.record.trans record) first.keeps.on
    rw [feed, clock, first.keeps.ms] at then_
    exact ⟨o₂, first.trans then_ never (fun _ => rfl) fun _ => rfl⟩

/-! ## The statement -/

/-- The packet's counter, case by case. -/
theorem packetNote_values (r : LaneRecord) (p : Packet) :
    (¬ hasMarker p = true ∧ packetNote r p = some (.noMarker, .noMarker)) ∨
    (hasMarker p = true ∧ headerVerdict p = .bad ∧ packetNote r p = some (.badHeader, .badHeader)) ∨
    (hasMarker p = true ∧ headerVerdict p = .errored ∧ packetNote r p = some (.errored, .errored)) ∨
    (Refers r p ∧ 300 ≤ (clockRefExt p).toNat ∧ packetNote r p = some (.badReference, .badReference)) ∨
    (Captures r p ∧ discontinuity p = true ∧ packetNote r p = some (.timebaseChange, .timebaseChanged)) ∨
    packetNote r p = none := by
  by_cases marker : hasMarker p = true
  · have note := packetNote_of_marker (r := r) marker
    rcases verdict_cases (headerVerdict p) with verdict | verdict | verdict <;> rw [verdict] at note
    · exact .inr (.inl ⟨marker, verdict, note⟩)
    · exact .inr (.inr (.inl ⟨marker, verdict, note⟩))
    · dsimp only at note
      by_cases refers : packetLabel p = r.clockLabel ∧ hasClockRef p = true
      · rw [if_pos refers] at note
        by_cases small : (clockRefExt p).toNat < 300
        · rw [if_pos small] at note
          by_cases jump : discontinuity p = true
          · exact .inr (.inr (.inr (.inr (.inl ⟨⟨⟨marker, verdict, refers⟩, small⟩, jump, note.trans (if_pos jump)⟩))))
          · exact .inr (.inr (.inr (.inr (.inr (note.trans (if_neg jump))))))
        · exact .inr (.inr (.inr (.inl ⟨⟨marker, verdict, refers⟩, Nat.not_lt.1 small, note.trans (if_neg small)⟩)))
      · exact .inr (.inr (.inr (.inr (.inr (note.trans (if_neg refers))))))
  · exact .inl ⟨marker, packetNote_of_unmarked marker⟩

theorem packetNote_of_bad (marker : hasMarker p = true) (bad : headerVerdict p = .bad) :
    packetNote r p = some (.badHeader, .badHeader) := by
  rw [packetNote_of_marker marker, bad]

theorem packetNote_of_errored (marker : hasMarker p = true) (errored : headerVerdict p = .errored) :
    packetNote r p = some (.errored, .errored) := by
  rw [packetNote_of_marker marker, errored]

theorem packetNote_of_badReference (refers : Refers r p) (large : 300 ≤ (clockRefExt p).toNat) :
    packetNote r p = some (.badReference, .badReference) := by
  obtain ⟨marker, good, refers⟩ := refers
  rw [packetNote_of_marker marker, good]
  exact (if_pos refers).trans (if_neg (Nat.not_lt.2 large))

theorem packetNote_iff {c : Counter} {g : Flag} {b : Prop} (listed : (c, g, b) ∈
    [(Counter.noMarker, Flag.noMarker, ¬ hasMarker p = true),
      (.badHeader, .badHeader, hasMarker p = true ∧ headerVerdict p = .bad),
      (.errored, .errored, hasMarker p = true ∧ headerVerdict p = .errored),
      (.badReference, .badReference, Refers r p ∧ 300 ≤ (clockRefExt p).toNat),
      (.timebaseChange, .timebaseChanged, Captures r p ∧ discontinuity p = true)]) :
    packetNote r p = some (c, g) ↔ b := by
  have values := packetNote_values r p
  simp only [List.mem_cons, Prod.mk.injEq, List.not_mem_nil, or_false] at listed
  rcases listed with ⟨rfl, rfl, rfl⟩ | ⟨rfl, rfl, rfl⟩ | ⟨rfl, rfl, rfl⟩ | ⟨rfl, rfl, rfl⟩ | ⟨rfl, rfl, rfl⟩
  · refine ⟨fun note => ?_, packetNote_of_unmarked⟩
    simpa [note] using values
  · refine ⟨fun note => ?_, fun h => packetNote_of_bad h.1 h.2⟩
    simpa [note] using values
  · refine ⟨fun note => ?_, fun h => packetNote_of_errored h.1 h.2⟩
    simpa [note] using values
  · refine ⟨fun note => ?_, fun h => packetNote_of_badReference h.1 h.2⟩
    simpa [note] using values
  · refine ⟨fun note => ?_, fun h => (packetNote_of_capture h.1).trans (if_pos h.2)⟩
    simpa [note] using values
theorem noted_pair : ∀ a ∈ [(Counter.noMarker, Flag.noMarker), (.badHeader, .badHeader), (.errored, .errored),
    (.badReference, .badReference), (.timebaseChange, .timebaseChanged)], ∀ b ∈ [(Counter.noMarker, Flag.noMarker),
    (.badHeader, .badHeader), (.errored, .errored), (.badReference, .badReference), (.timebaseChange, .timebaseChanged)],
    a.1 = b.1 ∨ a.2 = b.2 → a = b := by decide

theorem noted_apart : ∀ a ∈ [(Counter.noMarker, Flag.noMarker), (.badHeader, .badHeader), (.errored, .errored),
    (.badReference, .badReference), (.timebaseChange, .timebaseChanged)],
    (a.1 ∉ [Counter.notACue, .malformedCue, .duplicateCue] ∧ a.2 ∉ [Flag.malformedCue]) ∧
      (a.1 ∉ [Counter.slip] ∧ a.2 ∉ [Flag.slip]) ∧ a.1 ∉ [Counter.overrun] ∧ a.2 ∉ [Flag.overrun] := by decide

theorem overrunLane_tallied (r : LaneRecord) (o : OnLane) (ln : Lane) :
    Tallied [.overrun] [.overrun] ln (overrunLane r o ln) := by
  unfold overrunLane
  split
  · exact .note ln (by simp) (by simp)
  · exact .of_eq rfl rfl

theorem note_counts {c : Counter} {g : Flag} {b : Prop} {ln ln' : Lane} {n : Option (Counter × Flag)}
    (tallied : Tallied [.notACue, .malformedCue, .duplicateCue] [.malformedCue] (ln.noted n) ln')
    (cue : c ∉ [Counter.notACue, .malformedCue, .duplicateCue]) (flag : g ∉ [Flag.malformedCue])
    (noted : n = some (c, g) ↔ b) (apart : ∀ k, n = some k → k.1 = c ∨ k.2 = g → k = (c, g)) :
    (b → ln'.count c = (ln.raise c).count c ∧ ln'.flag g = true) ∧
    (¬ b → ln'.count c = ln.count c ∧ ln'.flag g = ln.flag g) := by
  rw [tallied.counts c cue, tallied.flags g flag]
  refine ⟨fun yes => ?_, fun no => ?_⟩
  · rw [noted.2 yes]
    exact ⟨rfl, Lane.flag_note_self ln c g⟩
  · cases note : n with
    | none => exact ⟨rfl, rfl⟩
    | some k =>
      have other : ¬ (k.1 = c ∨ k.2 = g) := fun one => no (noted.1 (note.trans (congrArg some (apart k note one))))
      obtain ⟨counter, flag⟩ := not_or.1 other
      have kept := Tallied.note ln (c := k.1) (f := k.2) (cs := [k.1]) (fs := [k.2]) (by simp) (by simp)
      exact ⟨kept.counts c (by simpa using Ne.symm counter), kept.flags g (by simpa using Ne.symm flag)⟩

/-- Settles O15: the feed after the slot is `Feed.afterSlot`, and where it goes LIVE the judgement is that of `Turn`. -/
theorem ingestJudgesClockAndFeed : Obligations.IngestJudgesClockAndFeed := by
  unfold Obligations.IngestJudgesClockAndFeed
  intro a d ff s l i r o x done p marker reference capture good seen proven
  obtain ⟨ob, base⟩ := completedBase_based (r := r) done.ring.on i x
  have record := base.record.trans done.ring.record
  obtain ⟨o', pass⟩ := slotEvents_passed record base.on x ff
  have turn := slotEvents_turn record base.on x ff
  have run := exec_of_completes done ff
  have context := base.context
  generalize slotEvents l r x ff (completedBase l r i x o s) = t at run pass turn
  have clock : ob.clock = o.clock := by rw [context]
  have feed : ob.feed = o.feed := by rw [context]
  have clocked := pass.clock
  have timer := afterSlot_timer o.feed r p ff s.stationMs
  have fed := pass.feed
  rw [clock, base.ms] at clocked
  rw [feed, base.ms] at fed
  rw [← fed] at timer
  refine ⟨_, o', run, pass.on, fun is => clocked.trans (clockAfter_of_capture is _ _ _),
    fun not => clocked.trans (clockAfter_of_other not _ _ _), fun c g b listed => ?_, timer.1, timer.2, fun bound => ?_⟩
  · have five := List.mem_map_of_mem (f := fun z : Counter × Flag × Prop => (z.1, z.2.1)) listed
    obtain ⟨⟨cue, cueFlag⟩, ⟨slip, slipFlag⟩, over_, overFlag⟩ := noted_apart _ five
    have counts := note_counts pass.tallied cue cueFlag (packetNote_iff listed) fun k note =>
      noted_pair k (packetNote_listed note) _ five
    have before := overrunLane_tallied r o (s.lane l)
    rw [Lane.count_raise_self, base.tallied.counts c slip, base.tallied.flags g slipFlag, before.counts c over_,
      before.flags g overFlag, ← Lane.count_raise_self] at counts
    exact counts
  · have goes := goes_iff_proves (f := o.feed) (r := r) (p := p) (ff := ff) (now := s.stationMs) bound
    have turned {off : r.role = .source ∨ r.cueLabel ≠ some (packetLabel p)} :
        Turn (completedBase l r i x o s) t l r ob o' (o.feed.Proves r p)
          (if ff = true ∧ o.feed.captureSeen = true then o.clock else o'.clock) := by
      obtain ⟨o₂, turn⟩ := turn off
      cases Option.some.inj (turn.keeps.on.symm.trans pass.on)
      rw [clock, feed, base.ms] at turn
      rw [clocked]
      exact turn.congr goes
    refine ⟨fun not => ?_, fun yes => ?_, fun off => ?_, fun output off => ?_⟩
    · have still := not_or.1 (mt goes.1 not)
      have after := afterSlot_of_still still.1 still.2
      rw [← fed] at after
      exact after
    · have after := afterSlot_of_goes (goes.2 yes)
      rw [← fed] at after
      exact after
    · have turn := turned (off := off)
      have prev : ob.track.prevStamp = o.track.prevStamp := by
        rw [context, completed_eq]
      intro model
      refine ⟨fun none => ?_, fun y yes outage => ?_⟩
      · by_cases yes : o.feed.Proves r p
        · have report := (turn.live yes).2
          rw [feed, none.resolve_left (not_not.2 yes)] at report
          exact report.trans base.report
        · exact (turn.still yes).1.report.trans base.report
      · have report := (turn.live yes).2
        rw [feed, outage, base.report, base.ms] at report
        unfold restoredReport feedRestoredRecord lossTime at report
        dsimp only [OnLane.withClock] at report
        rw [prev] at report
        exact report
    · have turn := turned (off := .inr off)
      obtain ⟨-, quiet⟩ := base.output output
      refine ⟨fun not => ?_, fun yes => ?_⟩
      · obtain ⟨still, -⟩ := turn.still not
        exact ⟨still.fetch.trans quiet.fetch, still.gen.trans quiet.gen⟩
      · exact ((turn.live yes).1.after_quiet quiet).of_agree (.of_tables rfl rfl rfl)

end Sys2Proof.Machine
end

section
/-! PROOF. The cue of a completed slot (R33 to R39, R48 to R51, R80, R81, R92, R93): O16, O17 and O18. -/

namespace Sys2Proof.Machine

variable {s t u v w : State} {l m : LaneId} {r : LaneRecord} {o o' p' ou ow : OnLane} {f : Feed} {p : Packet} {x : SlotData} {i : Nat}
  {c : Cue} {a : Arrival}

/-! ## The slot's other work around its cue -/

theorem not_captures_on_label (cue : OnCueLabel r p) : ¬ Captures r p := fun captures => cue.clock captures.1.2.2.1.symm

theorem packetNote_on_label (cue : OnCueLabel r p) : packetNote r p = none := by
  rw [packetNote_of_marker cue.marker, cue.header]
  exact if_neg fun h => cue.clock h.1.symm

theorem cueStep_on_label (cue : OnCueLabel r p) (a : Arrival) (u : State) : cueStep l r p a u =
    if scrambling p ≠ 0 then u.raise l .notACue
    else match scanCue p with
      | .notACue => u.raise l .notACue
      | .malformed event =>
        (u.note l .malformedCue .malformedCue).handOver (cueRefusedRecord u l .malformed event none none)
      | .parsed c => takeCue l c a u := if_pos ⟨cue.role, cue.label, cue.unit, cue.payload⟩

theorem parseSlot_on_label (cue : OnCueLabel r (slotPacket x)) (on : (s.lane l).on = some o) : parseSlot l r x s =
    cueStep l r (slotPacket x) (slotStamp x) (clocked l r (slotPacket x) (slotStamp x) o s) := by
  rw [parseSlot_eq on, if_neg (not_captures_on_label cue), cuePart_of_good x ⟨cue.marker, cue.header⟩]

theorem frame_on_label (cue : OnCueLabel r (slotPacket x)) (record : (u.lane l).record = some r)
    (on : (u.lane l).on = some o) : ∃ o', CueFrame u (cueStep l r (slotPacket x) (slotStamp x) u) l o o' := by
  rw [← cuePart_of_good x ⟨cue.marker, cue.header⟩]
  exact cuePart_frame record on x

/-- The ingest of a slot that is no capture makes no judgement where the feed is quiet. -/
theorem FeedQuiet.not_goesLive (quiet : FeedQuiet o) (now : Millis) (n : Nat) : ¬ (o.feed.ingest now).goesLive n := by
  rw [goesLive_ingest]
  rintro ⟨dark, -, seen⟩
  rcases quiet with live | unseen
  · exact dark live
  · exact nomatch unseen.symm.trans seen

theorem Tallied.mono {cs cs' : List Counter} {fs fs' : List Flag} {a b : Lane} (tallied : Tallied cs fs a b)
    (counters : cs ⊆ cs') (flags : fs ⊆ fs') : Tallied cs' fs' a b :=
  ⟨fun c out => tallied.counts c fun isIn => out (counters isIn), fun f out => tallied.flags f fun isIn => out (flags isIn)⟩

/-- The ingest event where the feed is quiet. -/
theorem feedIngest_around (record : (u.lane l).record = some r) (on : (u.lane l).on = some o) :
    ∃ o', Keeps u (feedIngest l u) l o o' ∧ (FeedQuiet o → Quiet u (feedIngest l u) l o o') ∧ o'.clock = o.clock ∧
      Agree u (feedIngest l u) ∧ ((feedIngest l u).lane l).counts = (u.lane l).counts ∧
      ((feedIngest l u).lane l).flags = (u.lane l).flags := by
  obtain ⟨o', j⟩ := feedIngest_judged record on
  refine ⟨o', j.keeps, fun quiet => ?_, j.clock, j.tables, j.counts, j.flags⟩
  have turn := j.turn (by rw [ingest_eq]) (by rw [ingest_eq]; by_cases live : o.feed.state = .live <;> simp [live])
  exact (turn.still (quiet.not_goesLive _ _)).1

/-- What the slot's other work does before its cue is taken, from `s` to `u`, and after it, from `v` to `t`. -/
structure AroundCue (s u v t : State) (l : LaneId) (a : Arrival) (o ou ov o' : OnLane) : Prop where
  before : Keeps s u l o ou
  quiet_before : FeedQuiet o → Quiet s u l o ou
  clock : ou.clock = o.clock.refresh (some a)
  tallied : Tallied [.overrun, .slip] [.overrun, .slip] (s.lane l) (u.lane l)
  after : Keeps v t l ov o'
  quiet_after : FeedQuiet o → Quiet v t l ov o'
  tables : Agree v t
  counts : (t.lane l).counts = (v.lane l).counts
  flags : (t.lane l).flags = (v.lane l).flags

/-- A state in which a slot's cue is taken, and the slot's ingest from there. -/
def CueTakenAt (s u t : State) (l : LaneId) (r : LaneRecord) (p : Packet) (a : Arrival) (o ou : OnLane) : Prop :=
  ∀ ov, CueFrame u (cueStep l r p a u) l ou ov → ∃ o', AroundCue s u (cueStep l r p a u) t l a o ou ov o'

theorem slotEvents_on_label (cue : OnCueLabel r (slotPacket x)) (record : (s.lane l).record = some r)
    (on : (s.lane l).on = some o) (i : Nat) (ff : Bool) : ∃ u ou, (u.lane l).record = some r ∧ (u.lane l).on = some ou ∧
      CueTakenAt s u (slotEvents l r x ff (completedBase l r i x o s)) l r (slotPacket x) (slotStamp x) o ou := by
  obtain ⟨ob, base⟩ := completedBase_based (r := r) on i x
  obtain ⟨kept, quiet⟩ := base.output cue.role
  have recorded := base.record.trans record
  have tallied : Tallied [.overrun, .slip] [.overrun, .slip] (s.lane l) ((completedBase l r i x o s).lane l) :=
    ((overrunLane_tallied r o (s.lane l)).mono (by simp) (by simp)).trans (base.tallied.mono (by simp) (by simp))
  have clock : ob.clock = o.clock := by rw [base.context]
  have feed : ob.feed = o.feed := by rw [base.context]
  have quiet_feed : FeedQuiet o → FeedQuiet ob := fun quiet => by unfold FeedQuiet; rw [feed]; exact quiet
  have clocks : ∀ {v : State} {z : OnLane}, (v.lane l).counts = ((clocked l r (slotPacket x) (slotStamp x) z v).lane l).counts ∧
      (v.lane l).flags = ((clocked l r (slotPacket x) (slotStamp x) z v).lane l).flags := fun {v z} => by
    rw [clocked_lane, packetNote_on_label cue]
    exact ⟨rfl, rfl⟩
  unfold slotEvents
  cases ff with
  | true =>
    obtain ⟨o₁, keeps, quiet', clock', -, counts, flags⟩ := feedIngest_around recorded base.on
    have after := keeps_clocked (r := r) keeps.on (slotPacket x) (slotStamp x)
    rw [if_pos rfl, parseSlot_on_label cue keeps.on]
    refine ⟨_, _, after.record.trans (keeps.record.trans recorded), after.on, fun ov frame => ⟨ov, (kept.trans keeps).trans after,
      fun q => (quiet.trans (quiet' (quiet_feed q))).trans (quiet_clocked _ _), ?_, ?_, .refl frame.on, fun _ => .refl,
      .refl _, rfl, rfl⟩⟩
    · refine (clockAfter_of_other (not_captures_on_label cue) _ _ _).trans ?_
      rw [clock', clock]
    · exact (tallied.congr rfl rfl counts flags).congr rfl rfl clocks.1.symm clocks.2.symm
  | false =>
    have after := keeps_clocked (r := r) base.on (slotPacket x) (slotStamp x)
    rw [if_neg Bool.false_ne_true, parseSlot_on_label cue base.on]
    refine ⟨_, _, after.record.trans recorded, after.on, fun ov frame => ?_⟩
    obtain ⟨o', keeps, quiet', -, tables, counts, flags⟩ := feedIngest_around
      (frame.record.trans (after.record.trans recorded)) frame.on
    refine ⟨o', kept.trans after, fun _ => quiet.trans (quiet_clocked _ _), ?_, ?_, keeps, fun q => quiet' ?_, tables,
      counts, flags⟩
    · exact (clockAfter_of_other (not_captures_on_label cue) _ _ _).trans (by rw [clock])
    · exact tallied.congr rfl rfl clocks.1.symm clocks.2.symm
    · unfold FeedQuiet
      rw [frame.feed]
      exact quiet_feed q

/-! ## The section checks (R34 to R36) -/

/-- The section does not begin as a cue's does. -/
abbrev NoSection (p : Packet) : Prop :=
  payloadByte p 0 = 0#8 ∧ (payloadLength p - 1 = 0 ∨ getByte p (payloadStart p + 1) ≠ 0xD5#8)

/-- The section passes the other checks of R34. -/
abbrev SectionPasses (p : Packet) : Prop :=
  let sec := payloadStart p + 1
  let q := payloadLength p - 1
  let len := packetNumber p (sec + 2) 2
  payloadByte p 0 = 0#8 ∧ 4 ≤ q ∧ 23 ≤ len ∧ len ≤ 179 ∧ 4 + len ≤ q ∧
    crcOver p sec len = BitVec.ofNat 32 (packetNumber p (sec + len) 4) ∧
    1 ≤ (getByte p (sec + 1)).toNat ∧ (getByte p (sec + 1)).toNat ≤ 4

theorem scanCue_of_noSection (none : NoSection p) : scanCue p = .notACue := by
  unfold scanCue
  dsimp only
  rw [if_neg (not_not.2 none.1), if_pos none.2]

theorem cueKindOf_code {b : Byte} {k : CueKind} (kind : cueKindOf b = some k) : k.code = b.toNat := by
  unfold cueKindOf at kind
  split at kind <;> cases kind <;> exact Eq.symm ‹_›

theorem cueKindOf_some {b : Byte} (low : 1 ≤ b.toNat) (high : b.toNat ≤ 4) : ∃ k, cueKindOf b = some k := by
  unfold cueKindOf
  generalize b.toNat = n at low high
  have cases : n = 1 ∨ n = 2 ∨ n = 3 ∨ n = 4 := by omega
  rcases cases with rfl | rfl | rfl | rfl <;> exact ⟨_, rfl⟩

theorem CueKind.code_range (k : CueKind) : 1 ≤ k.code ∧ k.code ≤ 4 := by
  cases k <;> exact ⟨by decide, by decide⟩

theorem scanCue_of_failing (section_ : ¬ NoSection p) (fails : ¬ SectionPasses p) : scanCue p = .malformed
    (if payloadByte p 0 = 0#8 ∧ 8 ≤ payloadLength p - 1 then BitVec.ofNat 32 (packetNumber p (payloadStart p + 1 + 4) 4)
      else 0) := by
  unfold scanCue
  dsimp only
  split
  · rfl
  · next pointer =>
    have pointer := not_not.1 pointer
    rw [if_neg fun h => section_ ⟨pointer, h⟩]
    split
    · rfl
    · next small =>
      split
      · rfl
      · next fits =>
        split
        · rfl
        · next check =>
          split
          · rfl
          · next k kind =>
            refine absurd ?_ fails
            have code := k.code_range
            rw [cueKindOf_code kind] at code
            exact ⟨pointer, by omega, by omega, by omega, by omega, not_not.1 check, code⟩

/-- The cue has the fields of R36, read from the packet's section. -/
abbrev CueReads (p : Packet) (c : Cue) : Prop :=
  let sec := payloadStart p + 1
  c.kind.code = (getByte p (sec + 1)).toNat ∧ c.event = BitVec.ofNat 32 (packetNumber p (sec + 4) 4) ∧
    c.placement = BitVec.ofNat 32 (packetNumber p (sec + 8) 4) ∧
    c.time = (if (getByte p (sec + 12)).getLsbD 7 then some (BitVec.ofNat 33 (packetNumber p (sec + 13) 5)) else none) ∧
    c.duration = if (getByte p (sec + 12)).getLsbD 6 then some (BitVec.ofNat 33 (packetNumber p (sec + 18) 5)) else none

/-- The cue of kind `k` that the section holds. -/
def readCue (p : Packet) (k : CueKind) : Cue :=
  { kind := k
    event := BitVec.ofNat 32 (packetNumber p (payloadStart p + 1 + 4) 4)
    placement := BitVec.ofNat 32 (packetNumber p (payloadStart p + 1 + 8) 4)
    time := if (getByte p (payloadStart p + 1 + 12)).getLsbD 7
      then some (BitVec.ofNat 33 (packetNumber p (payloadStart p + 1 + 13) 5)) else none
    duration := if (getByte p (payloadStart p + 1 + 12)).getLsbD 6
      then some (BitVec.ofNat 33 (packetNumber p (payloadStart p + 1 + 18) 5)) else none }

theorem scanCue_of_passing (section_ : ¬ NoSection p) (passes : SectionPasses p) :
    ∃ c, scanCue p = .parsed c ∧ CueReads p c := by
  obtain ⟨pointer, four, low, high, fits, check, kinds⟩ := passes
  obtain ⟨k, kind⟩ := cueKindOf_some kinds.1 kinds.2
  refine ⟨readCue p k, ?_, cueKindOf_code kind, rfl, rfl, rfl, rfl⟩
  unfold scanCue
  dsimp only
  rw [if_neg (not_not.2 pointer), if_neg fun h => section_ ⟨pointer, h⟩, if_neg (by omega), if_neg (by omega),
    if_neg (not_not.2 check), kind]
  rfl

/-! ## A packet that gives no new cue: O16 -/

theorem keeps_modLane (on : (u.lane l).on = some o) (g : Lane → Lane) (record : (g (u.lane l)).record = (u.lane l).record)
    (context : (g (u.lane l)).on = (u.lane l).on) : Keeps u (u.modLane l g) l o o := by
  rw [State.modLane_put]
  exact keeps_put on _ (context.trans on) record rfl rfl rfl rfl

/-- What the ingest has counted of cues, once the cue handling has counted one. -/
theorem AroundCue.count {ov : OnLane} (around : AroundCue s u v t l a o ou ov o') {k : Counter}
    (cue : k ∉ [Counter.overrun, .slip]) (counted : (v.lane l).count k = ((u.lane l).raise k).count k) :
    (t.lane l).count k = ((s.lane l).raise k).count k := by
  have after : (t.lane l).count k = (v.lane l).count k := by unfold Lane.count; rw [around.counts]
  rw [after, counted, Lane.count_raise_self, Lane.count_raise_self, around.tallied.counts k cue]

/-- A slot whose cue handling keeps the lane leaves its cues, waiting cue, insertion and orders. -/
theorem AroundCue.unchanged {ov : OnLane} (around : AroundCue s u v t l a o ou ov o') (keeps : Keeps u v l ou ov) :
    o'.cues = o.cues ∧ o'.waiting = o.waiting ∧ o'.active = o.active ∧ t.orders = s.orders := by
  have whole := (around.before.trans keeps).trans around.after
  exact ⟨whole.cues, whole.waiting, whole.active, whole.orders⟩

theorem AroundCue.report {ov : OnLane} (around : AroundCue s u v t l a o ou ov o') (quiet : FeedQuiet o) {g : Report → Report}
    (made : v.report = g u.report) : t.report = g s.report := by
  rw [(around.quiet_after quiet).report, made, (around.quiet_before quiet).report]

/-- What a slot does whose cue handling only raises a counter. -/
theorem cueRaised {k : Counter} (taken : CueTakenAt s u t l r p a o ou) (on : (u.lane l).on = some ou)
    (cue : k ∈ [Counter.notACue, .malformedCue, .duplicateCue]) (step : cueStep l r p a u = u.raise l k) :
    ∃ o', (t.lane l).on = some o' ∧
      (o'.cues = o.cues ∧ o'.waiting = o.waiting ∧ o'.active = o.active ∧ t.orders = s.orders) ∧
      (t.lane l).count k = ((s.lane l).raise k).count k ∧ (FeedQuiet o → t.report = s.report) := by
  obtain ⟨o', around⟩ := taken ou (by rw [step]; exact cueFrame_raise on cue)
  rw [step] at around
  have other : k ∉ [Counter.overrun, .slip] := by
    rintro isIn
    simp only [List.mem_cons, List.not_mem_nil, or_false] at cue isIn
    rcases isIn with rfl | rfl <;> simp at cue
  refine ⟨o', around.after.on, around.unchanged (keeps_modLane on _ rfl rfl), around.count other ?_,
    fun quiet => around.report quiet (g := id) rfl⟩
  rw [State.raise_lane]

/-- What a slot does whose cue is malformed. -/
theorem cueMalformed {e : BitVec 32} (taken : CueTakenAt s u t l r p a o ou) (on : (u.lane l).on = some ou)
    (step : cueStep l r p a u =
      (u.note l .malformedCue .malformedCue).handOver (cueRefusedRecord u l .malformed e none none)) :
    ∃ o', (t.lane l).on = some o' ∧
      (o'.cues = o.cues ∧ o'.waiting = o.waiting ∧ o'.active = o.active ∧ t.orders = s.orders) ∧
      (t.lane l).count .malformedCue = ((s.lane l).raise .malformedCue).count .malformedCue ∧
      (t.lane l).flag .malformedCue = true ∧
      (FeedQuiet o → t.report = s.report.handOver
        { kind := .cueRefused, lane := l.val, flags := 1, order := 0, firstClip := 0xFFFF, event := e, timeIn := 0, timeOut := 0
          served := 0, underrun := 0, ms := s.stationMs }) := by
  have kept := keeps_modLane on (fun ln => ln.note .malformedCue .malformedCue) rfl rfl
  have keeps : Keeps u ((u.note l .malformedCue .malformedCue).handOver (cueRefusedRecord u l .malformed e none none)) l ou ou :=
    ⟨on, kept.on, kept.record, kept.elsewhere, rfl, rfl, rfl, rfl, rfl, rfl, rfl, rfl⟩
  have lane : ((u.note l .malformedCue .malformedCue).handOver (cueRefusedRecord u l .malformed e none none)).lane l =
      (u.lane l).note .malformedCue .malformedCue := State.note_lane u l _ _
  obtain ⟨o', around⟩ := taken ou (by
    rw [step]
    refine ⟨keeps.on, keeps.record, rfl, rfl, rfl, rfl, ?_⟩
    rw [lane]
    exact .note _ (by simp) (by simp))
  rw [step] at around
  refine ⟨o', around.after.on, around.unchanged keeps, around.count (by simp) ?_, ?_, fun quiet => ?_⟩
  · rw [lane]
    rfl
  · have flag : (t.lane l).flag .malformedCue = ((u.lane l).note .malformedCue .malformedCue).flag .malformedCue := by
      unfold Lane.flag
      rw [around.flags, lane]
    rw [flag]
    exact Lane.flag_note_self _ _ _
  · rw [around.report quiet (g := fun rep => rep.handOver (cueRefusedRecord u l .malformed e none none)) rfl]
    unfold cueRefusedRecord
    rw [around.before.ms]
    rfl

/-- Settles O16: the section is no cue, fails a check, or gives a cue, which the recent-cue list holds or not. -/
theorem cueSectionsAreChecked : Obligations.CueSectionsAreChecked := by
  unfold Obligations.CueSectionsAreChecked
  intro a d ff s l i r o x done cue p sec q len notCue passes listed
  obtain ⟨u, ou, record, on, taken⟩ := slotEvents_on_label cue done.ring.record done.ring.on i ff
  have run := exec_of_completes done ff
  generalize slotEvents l r x ff (completedBase l r i x o s) = t at run taken
  have step := cueStep_on_label (l := l) cue (slotStamp x) u
  by_cases not : notCue
  · have raised : cueStep l r p (slotStamp x) u = u.raise l .notACue := by
      rw [step]
      by_cases scrambled : scrambling p ≠ 0
      · exact if_pos scrambled
      · rw [if_neg scrambled, scanCue_of_noSection (not.resolve_left scrambled)]
    obtain ⟨o', after, kept, count, report⟩ := cueRaised taken on (by simp) raised
    exact ⟨_, o', run, after, fun _ => kept, fun _ => ⟨count, report⟩, fun yes => absurd not yes, fun yes => absurd not yes⟩
  · obtain ⟨clear, section_⟩ := not_or.1 not
    rw [if_neg clear] at step
    by_cases pass : passes
    · obtain ⟨c, scan, code, event, placement, time, duration⟩ := scanCue_of_passing section_ pass
      obtain ⟨ov, frame⟩ := frame_on_label cue record on
      obtain ⟨o₁, around⟩ := taken ov frame
      rw [scan] at step
      by_cases duplicate : listed c
      · have raised := step.trans (takeCue_of_listed record on (slotStamp x) (by rw [around.before.cues]; exact duplicate))
        obtain ⟨o', after, kept, count, report⟩ := cueRaised taken on (by simp) raised
        exact ⟨_, o', run, after, fun _ => kept, fun yes => absurd yes not, fun _ no => absurd pass no,
          fun _ _ => ⟨c, scan, code, event, placement, time, duration, fun _ => ⟨count, report⟩⟩⟩
      · refine ⟨_, o₁, run, around.after.on, ?_, fun yes => absurd yes not, fun _ no => absurd pass no,
          fun _ _ => ⟨c, scan, code, event, placement, time, duration, fun yes => absurd yes duplicate⟩⟩
        rintro (no | no | ⟨c', scan', listed'⟩)
        · exact absurd no not
        · exact absurd pass no
        · cases scan.symm.trans scan'
          exact absurd listed' duplicate
    · rw [scanCue_of_failing section_ pass] at step
      obtain ⟨o', after, kept, count, flag, report⟩ := cueMalformed taken on step
      exact ⟨_, o', run, after, fun _ => kept, fun yes => absurd yes not, fun _ _ => ⟨count, flag, report⟩,
        fun _ yes => absurd yes pass⟩

end Sys2Proof.Machine
end

section
/-! PROOF. What a new cue comes to (R37 to R39, R48 to R51, R80, R81, R92, R93): O17 and O18. -/

namespace Sys2Proof.Machine

variable {s t u v w : State} {l m : LaneId} {r : LaneRecord} {o o' p' ou ow : OnLane} {p : Packet} {x : SlotData} {i : Nat}
  {c : Cue} {a : Arrival} {mdl : ClockModel}

/-! ## Cue timing (R48, R49) -/

theorem refresh_isValid (mdl : ClockModel) (a : Option Arrival) : (mdl.refresh a).isValid = mdl.isValid := by
  cases mdl <;> cases a <;> rfl

/-- A refresh at its own slot leaves that slot's presentation time. -/
theorem presentation_refresh (mdl : ClockModel) (delay : Nat) (a : Arrival) :
    presentation (mdl.refresh (some a)) delay (some a) = presentation mdl delay (some a) := by
  have same : ∀ an : Anchor, estimateFrom { clock := estimateFrom an a, stamp := a } a = estimateFrom an a := fun an => by
    have small := estimateFrom_lt an a
    unfold estimateFrom arrivalDiff at small ⊢
    dsimp only at small ⊢
    rw [BitVec.sub_self, BitVec.toInt_zero, Int.add_zero, ← Int.natCast_mod, Int.toNat_natCast, Nat.mod_eq_of_lt small]
  cases mdl with
  | unset => rfl
  | valid an cap => exact congrArg (fun n => some (presentationOf delay n)) (same an)
  | stale an cap => exact congrArg (fun n => some (presentationOf delay n)) (same an)

theorem cueTiming_congr {m₁ m₂ : ClockModel} (valid : m₁.isValid = m₂.isValid) (grace : Nat) (q : Option Stamp) (c : Cue) :
    cueTiming m₁ grace q c = cueTiming m₂ grace q c := by
  unfold cueTiming
  rw [valid]

theorem cueTiming_of_unclocked (unclocked : mdl.isValid = false) (grace : Nat) (q : Option Stamp) (c : Cue) :
    cueTiming mdl grace q c = .refused .noClock := by
  unfold cueTiming
  rw [unclocked]

/-- The cue's time lies further behind P_cue than the grace. -/
abbrev Late (grace : Nat) (q : Option Stamp) (c : Cue) : Prop :=
  ∃ u p, c.time = some u ∧ q = some p ∧ (p - u).toNat < 2 ^ 32 ∧ grace < (p - u).toNat

theorem cueTiming_of_start (valid : mdl.isValid = true) {q : Stamp} (grace : Nat) (starts : c.kind = .start ∨ c.kind = .startOpen) :
    (Late grace (some q) c → cueTiming mdl grace (some q) c = .refused .late) ∧
    (¬ Late grace (some q) c → cueTiming mdl grace (some q) c = .splice (c.time.getD q)) := by
  have timing : cueTiming mdl grace (some q) c = match c.time with
      | none => .splice q
      | some u => if atOrAfter q u ∧ grace < (q - u).toNat then .refused .late else .splice u := by
    unfold cueTiming
    rw [valid]
    rcases starts with start | start <;> rw [start] <;> rfl
  rw [timing]
  cases time : c.time with
  | none => exact ⟨fun ⟨_, _, no, _⟩ => (nomatch time.symm.trans no), fun _ => rfl⟩
  | some u =>
    have late : Late grace (some q) c ↔ atOrAfter q u = true ∧ grace < (q - u).toNat := by
      unfold atOrAfter
      rw [decide_eq_true_eq]
      constructor
      · rintro ⟨u', p', time', here, behind⟩
        cases time.symm.trans time'
        cases here
        exact behind
      · exact fun behind => ⟨u, q, time, rfl, behind⟩
    exact ⟨fun is => if_pos (late.1 is), fun not => if_neg (mt late.2 not)⟩

theorem cueTiming_of_ret (valid : mdl.isValid = true) (grace : Nat) (q : Stamp) (ret : c.kind = .ret) :
    cueTiming mdl grace (some q) c = .requested (c.time.getD q) := by
  unfold cueTiming
  rw [valid, ret]

theorem cueTiming_of_cancel (valid : mdl.isValid = true) (grace : Nat) (q : Stamp) (cancel : c.kind = .cancel) :
    cueTiming mdl grace (some q) c = .cancel := by
  unfold cueTiming
  rw [valid, cancel]

/-! ## The order bound (R80) -/

theorem findOrder_matches {code : BitVec 32} {j : OrderId} : ((s.order j).state == .armed &&
      match (s.order j).body with
      | some b => b.lane == l && b.matchesCode code && orderReady s b
      | none => false) = true ↔ Bindable s l code j := by
  unfold Bindable
  rw [Bool.and_eq_true, beq_iff_eq]
  refine and_congr_right' ?_
  cases body : (s.order j).body with
  | none => exact iff_of_false nofun nofun
  | some b =>
    simp only [Bool.and_eq_true, beq_iff_eq, and_assoc, OrderBody.matchesCode, Option.some.injEq, exists_eq_left']
    exact .rfl

theorem findOrder_none {code : BitVec 32} : findOrder s l code = none ↔ ∀ j, ¬ Bindable s l code j := by
  unfold findOrder
  rw [List.find?_eq_none]
  exact ⟨fun no j is => no j (List.mem_finRange j) (findOrder_matches.2 is),
    fun no j _ is => no j (findOrder_matches.1 is)⟩

theorem findOrder_lowest {code : BitVec 32} {j : OrderId} (bindable : Bindable s l code j)
    (lowest : ∀ k, k < j → ¬ Bindable s l code k) : findOrder s l code = some j := by
  unfold findOrder
  rw [List.find?_eq_some_iff_getElem]
  refine ⟨findOrder_matches.2 bindable, j.val, by simp, by simp, fun k below => ?_⟩
  rw [Bool.not_eq_true']
  refine Bool.eq_false_iff.2 fun is => ?_
  have is := findOrder_matches.1 is
  rw [List.getElem_finRange] at is
  exact lowest _ below is

/-- What keeps the lane's record and the tables keeps which orders can be bound. -/
theorem Keeps.bindable (keeps : Keeps s u l o ou) {code : BitVec 32} (m : LaneId) (j : OrderId) :
    Bindable u m code j ↔ Bindable s m code j := by
  have order : u.order j = s.order j := by unfold State.order; rw [keeps.orders]
  have source : ∀ m, u.isOnSource m = s.isOnSource m := fun m => by
    unfold State.isOnSource State.onLane
    by_cases here : m = l
    · subst here
      rw [keeps.record, keeps.on, keeps.before]
      cases (s.lane m).record <;> rfl
    · rw [keeps.elsewhere m here]
  have clip : u.clipReady = s.clipReady := funext fun c => by unfold State.clipReady State.clip; rw [keeps.clips]
  have ready : ∀ b, orderReady u b = orderReady s b := fun b => by
    unfold orderReady
    simp only [source, clip]
  unfold Bindable
  simp only [order, ready]

/-! ## A new cue in the slot's ingest -/

/-- The lane's context with the cue on its list. -/
def OnLane.listed (o : OnLane) (c : Cue) (why : Option CueRefusal) : OnLane :=
  { o with cues := joinCues o.cues { event := c.event, kind := c.kind, outcome := why } }

/-- What is decided of a cue with P_cue `q` on a lane of context `o` (R39). -/
def decidedAt (l : LaneId) (r : LaneRecord) (o : OnLane) (q : Option Stamp) (c : Cue) (u : State) :
    Option CueRefusal × State :=
  decideCue l (cueTiming o.clock r.lateGrace q c) c u

/-- State `u`, of lane context `ou`, is the one the new cue `c` of the slot meets, and `z` what is decided of it. -/
structure NewCue (s u t : State) (l : LaneId) (r : LaneRecord) (c : Cue) (a : Arrival) (o ou o₁ o' : OnLane)
    (z : Option CueRefusal × State) : Prop where
  decided : z = decidedAt l r o (cueTime r o a) c u
  acted : CueActed u z l ou o₁
  around : AroundCue s u (cueListed l c (cueTime r o a) z) t l a o ou (o₁.listed c z.1) o'

theorem newCue_of_slot (cue : OnCueLabel r p) (clear : scrambling p = 0) (scan : scanCue p = .parsed c)
    (record : (u.lane l).record = some r) (on : (u.lane l).on = some ou) (taken : CueTakenAt s u t l r p a o ou)
    (new : ∀ e, e ∈ o.cues → ¬ (e.event = c.event ∧ e.kind = c.kind)) : ∃ z o₁ o', NewCue s u t l r c a o ou o₁ o' z := by
  have frame : ∃ ov, CueFrame u (takeCue l c a u) l ou ov := takeCue_frame record on c a
  have step : cueStep l r p a u = takeCue l c a u := by
    rw [cueStep_on_label cue, if_neg (not_not.2 clear), scan]
  rw [← step] at frame
  obtain ⟨ov, frame⟩ := frame
  obtain ⟨o', around⟩ := taken ov frame
  have time : cueTime r ou a = cueTime r o a := by
    unfold cueTime
    rw [around.clock, presentation_refresh]
  have timing : cueTiming ou.clock r.lateGrace (cueTime r o a) c = cueTiming o.clock r.lateGrace (cueTime r o a) c :=
    cueTiming_congr (by rw [around.clock, refresh_isValid]) _ _ _
  have fresh : ¬ ∃ e, e ∈ ou.cues ∧ e.event = c.event ∧ e.kind = c.kind := by
    rw [around.before.cues]
    rintro ⟨e, isIn, same⟩
    exact new e isIn same
  rw [takeCue_of_new record on a fresh, time, timing] at step
  obtain ⟨o₁, acted⟩ := decideCue_acted on (cueTiming o.clock r.lateGrace (cueTime r o a) c) c
  rw [step] at around frame
  have lane := cueListed_lane (congrArg Lane.on acted.lane) c (cueTime r o a)
  have context : ov = o₁.listed c (decideCue l (cueTiming o.clock r.lateGrace (cueTime r o a) c) c u).1 :=
    Option.some.inj (frame.on.symm.trans (congrArg Lane.on lane))
  rw [context] at around
  exact ⟨_, o₁, o', rfl, acted, around⟩

section
variable {o₁ : OnLane} {z : Option CueRefusal × State} (new : NewCue s u t l r c a o ou o₁ o' z)
include new

theorem NewCue.on : (u.lane l).on = some ou := new.around.before.on

theorem NewCue.cues : o'.cues = joinCues o.cues { event := c.event, kind := c.kind, outcome := z.1 } := by
  rw [new.around.after.cues]
  change joinCues o₁.cues _ = _
  rw [new.acted.cues, new.around.before.cues]

/-- The tables after the slot are those of the decision. -/
theorem NewCue.tables : t.orders = z.2.orders ∧ t.clips = z.2.clips ∧ o'.active = o₁.active ∧ o'.waiting = o₁.waiting := by
  have listed : (cueListed l c (cueTime r o a) z).orders = z.2.orders ∧
      (cueListed l c (cueTime r o a) z).clips = z.2.clips := by
    unfold cueListed
    split <;> exact ⟨rfl, rfl⟩
  exact ⟨new.around.after.orders.trans listed.1, new.around.after.clips.trans listed.2, new.around.after.active,
    new.around.after.waiting⟩

/-- A refused cue changes no insertion, order or clip. -/
theorem NewCue.refused (why : z.1.isSome = true) :
    o'.active = o.active ∧ o'.waiting = o.waiting ∧ t.orders = s.orders ∧ t.clips = s.clips := by
  obtain ⟨orders, clips, active, waiting⟩ := new.tables
  have same := new.acted.refused why
  have lane := new.acted.lane
  rw [same] at orders clips lane
  have context : o₁ = ou := Option.some.inj ((congrArg Lane.on lane).symm.trans new.on)
  rw [context] at active waiting
  exact ⟨active.trans new.around.before.active, waiting.trans new.around.before.waiting,
    orders.trans new.around.before.orders, clips.trans new.around.before.clips⟩

theorem NewCue.report (quiet : FeedQuiet o) : t.report = match z.1 with
    | none => s.report
    | some y => s.report.handOver
      { kind := .cueRefused, lane := l.val, flags := BitVec.ofNat 8 y.code
        order := (if y = .cancelLate then (o.active.map fun z => z.order.val).getD 0 else 0)
        firstClip := 0xFFFF, event := c.event, timeIn := (cueTime r o a).getD 0, timeOut := c.time.getD 0
        served := 0, underrun := 0, ms := s.stationMs } := by
  rw [(new.around.quiet_after quiet).report, ← (new.around.quiet_before quiet).report, ← new.acted.report]
  have ms : z.2.stationMs = s.stationMs := new.acted.ms.trans new.around.before.ms
  have refused := new.acted.refused
  have on := new.on
  have active := new.around.before.active
  obtain ⟨why, v⟩ := z
  cases why with
  | none => rfl
  | some y =>
    have same : v = u := refused rfl
    subst same
    refine congrArg (Report.handOver v.report) ?_
    dsimp only at ms
    unfold cueRefusedRecord
    rw [State.modOn_put on, State.lane_put_self, ← ms, ← active]
    rfl

end

/-- Settles O17: the outcome is what `decideCue` answers in the state the cue meets. -/
theorem cueOutcomesAreDecided : Obligations.CueOutcomesAreDecided := by
  unfold Obligations.CueOutcomesAreDecided
  intro a d ff s l i r o x c done cue clear scan new pCue late ofWaiting ofActive bindable
  obtain ⟨u, ou, record, on, taken⟩ := slotEvents_on_label cue done.ring.record done.ring.on i ff
  have run := exec_of_completes done ff
  generalize slotEvents l r x ff (completedBase l r i x o s) = t at run taken
  obtain ⟨z, o₁, o', cued⟩ := newCue_of_slot cue clear scan record on taken new
  have before := cued.around.before
  have decided := cued.decided
  unfold decidedAt at decided
  refine ⟨_, o', z.1, run, cued.around.after.on, ?_, fun unclocked => ?_, fun valid starts => ?_, fun valid ret => ?_,
    fun valid cancel => ?_, fun why => cued.refused why, fun quiet => cued.report quiet⟩
  · rw [cued.cues, joinCues]
    split <;> rfl
  · rw [decided, cueTiming_of_unclocked unclocked]
    rfl
  all_goals obtain ⟨q, time⟩ := Option.isSome_iff_exists.1 ((presentation_isSome (delay := r.playDelay) valid).trans
    (Option.isSome_some (a := slotStamp x)))
  all_goals rw [show cueTime r o (slotStamp x) = some q from time] at decided
  · obtain ⟨behind, intime⟩ := cueTiming_of_start valid r.lateGrace starts (q := q)
    have late_iff : late ↔ Late r.lateGrace (some q) c := by rw [← time]
    have bind : ¬ late → z = bindCue l c (c.time.getD q) u := fun not => by
      rw [decided, intime (mt late_iff.2 not)]
      rfl
    refine ⟨fun is => ?_, fun not waiting => ?_, fun not free none => ?_, fun not free some => ?_⟩
    · rw [decided, behind (late_iff.1 is)]
      rfl
    · rw [bind not, bindCue_of_waiting on (by rw [before.waiting]; exact waiting)]
    · rw [bind not, bindCue_of_free on (before.waiting.trans free),
        findOrder_none.2 fun j is => none ⟨j, (before.bindable l j).1 is⟩]
    · rw [bind not, bindCue_of_free on (before.waiting.trans free)]
      obtain ⟨j, is⟩ := some
      cases found : findOrder u l c.placement with
      | none => exact absurd ((before.bindable l j).2 is) (findOrder_none.1 found j)
      | some k =>
        dsimp only
        split <;> rfl
  · have requested : z = returnCue l c.event (c.time.getD q) u := by
      rw [decided, cueTiming_of_ret valid r.lateGrace q ret]
      rfl
    refine ⟨fun held => ?_, fun no no' => ?_⟩
    · by_cases active : ofActive
      · obtain ⟨y, active, event⟩ := active
        rw [requested, returnCue_of_active on (before.active.trans active) event]
      · obtain ⟨w, waiting, event⟩ := held.resolve_left active
        rw [requested, returnCue_of_waiting on (fun y is event => active ⟨y, before.active.symm.trans is, event⟩)
          (before.waiting.trans waiting) event]
    · rw [requested, returnCue_of_neither on (fun y is event => no ⟨y, before.active.symm.trans is, event⟩)
        fun w is event => no' ⟨w, before.waiting.symm.trans is, event⟩]
  · have cancelled : z = cancelCue l c.event u := by
      rw [decided, cueTiming_of_cancel valid r.lateGrace q cancel]
      rfl
    refine ⟨fun ⟨w, waiting, event⟩ => ?_, fun no ⟨y, active, event⟩ => ?_, fun no no' => ?_⟩
    · rw [cancelled, cancelCue_of_waiting on (before.waiting.trans waiting) event]
    · rw [cancelled, cancelCue_of_active on (fun w is event => no ⟨w, before.waiting.symm.trans is, event⟩)
        (before.active.trans active) event]
    · rw [cancelled, cancelCue_of_neither on (fun w is event => no ⟨w, before.waiting.symm.trans is, event⟩)
        fun y is event => no' ⟨y, before.active.symm.trans is, event⟩]

/-! ## What an accepted cue does -/

section
variable {o₁ : OnLane} {z : Option CueRefusal × State} (new : NewCue s u t l r c a o ou o₁ o' z)
include new

/-- The judgement of an accepted cue stands to the end of the slot, where the feed is quiet. -/
theorem NewCue.judged (accepted : z.1 = none) (quiet : FeedQuiet o)
    (judged : SourceJudged z.2 r (u.lane l) ou (z.2.lane l) o₁) : SourceJudged t r (s.lane l) o (t.lane l) o' := by
  have on := congrArg Lane.on new.acted.lane
  have listed : cueListed l c (cueTime r o a) z =
      z.2.put l { z.2.lane l with on := some (o₁.listed c z.1) } z.2.fetchWait := by
    unfold cueListed
    rw [accepted]
    exact State.modOn_put on _
  have quiet_after := new.around.quiet_after quiet
  have tables := new.around.tables
  have kept := new.around.after
  rw [listed] at quiet_after tables kept
  have agree : Agree z.2 (z.2.put l { z.2.lane l with on := some (o₁.listed c z.1) } z.2.fetchWait) :=
    .put z.2 _ rfl (by rw [on]; rfl)
  have steady : Quiet z.2 (z.2.put l { z.2.lane l with on := some (o₁.listed c z.1) } z.2.fetchWait) l o₁
      (o₁.listed c z.1) := ⟨rfl, rfl, by rw [State.lane_put_self], rfl, .rfl⟩
  exact (judged.steady (steady.trans quiet_after) (agree.trans tables) kept.stack kept.active kept.waiting).after_quiet
    (new.around.quiet_before quiet)

theorem NewCue.order (j : OrderId) : t.order j = z.2.order j := by
  unfold State.order
  rw [new.tables.1]

theorem NewCue.clip (k : ClipId) : t.clip k = z.2.clip k := by
  unfold State.clip
  rw [new.tables.2.1]

theorem NewCue.met (j : OrderId) (k : ClipId) : u.order j = s.order j ∧ u.clip k = s.clip k := by
  unfold State.order State.clip
  rw [new.around.before.orders, new.around.before.clips]
  exact ⟨rfl, rfl⟩

/-- A cue that binds order `j` (R81). -/
theorem NewCue.bound {j : OrderId} {b : OrderBody} {k : BreakKind} {q : Stamp} {dur : Option Stamp}
    (record : (u.lane l).record = some r) (binds : z = (none, bindOrder l j c.event k q dur u))
    (body : (s.order j).body = some b) : o'.waiting = some (boundCue j b c.event k q dur) ∧ o'.active = o.active ∧
      t.order j = { s.order j with state := .bound } ∧ (∀ i, i ≠ j → t.order i = s.order i) ∧
      (∀ n, t.clip n = { s.clip n with locks := if n ∈ b.clips then (s.clip n).locks + 1 else (s.clip n).locks }) ∧
      (FeedQuiet o → SourceJudged t r (s.lane l) o (t.lane l) o') := by
  have met := new.met
  obtain ⟨v, o₂, move, j'⟩ := bindOrder_judgement (l := l) (by rw [(met j 0).1]; exact body) new.on c.event k q dur
  have state : z.2 = bindOrder l j c.event k q dur u := congrArg Prod.snd binds
  rw [← state] at j'
  have same : o₂ = o₁ := Option.some.inj (j'.on.symm.trans (congrArg Lane.on new.acted.lane))
  subst same
  obtain ⟨-, -, active, waiting⟩ := new.tables
  refine ⟨waiting.trans j'.kept.waiting, active.trans (j'.kept.active.trans new.around.before.active), ?_, fun i other => ?_,
    fun n => ?_, fun quiet => new.judged (congrArg Prod.fst binds) quiet ?_⟩
  · rw [new.order, j'.order, move.order, (met j 0).1]
  · rw [new.order, j'.order, move.others i other, (met i 0).1]
  · rw [new.clip, j'.clip, move.clips, (met j n).2]
  · have judged := j'.judged _ r j'.tables (by rw [move.lane]; exact record)
    rw [move.lane] at judged
    exact judged.of_before rfl rfl rfl rfl rfl

/-- A cue that removes the waiting cue `w` (R93). -/
theorem NewCue.cancelled {w : WaitingCue} {b : OrderBody} (record : (u.lane l).record = some r)
    (cancels : z = (none, removeWaiting l w u)) (body : (s.order w.order).body = some b) :
    o'.waiting = none ∧ o'.active = o.active ∧ t.order w.order = { s.order w.order with state := .armed } ∧
      (∀ i, i ≠ w.order → t.order i = s.order i) ∧
      (∀ n, t.clip n = { s.clip n with locks := if n ∈ b.clips then (s.clip n).locks - 1 else (s.clip n).locks }) ∧
      (FeedQuiet o → SourceJudged t r (s.lane l) o (t.lane l) o') := by
  have met := new.met
  obtain ⟨v, o₂, move, j'⟩ := removeWaiting_judgement (l := l) w new.on
  rw [heldClips_of_body (by rw [(met w.order 0).1]; exact body)] at move
  have state : z.2 = removeWaiting l w u := congrArg Prod.snd cancels
  rw [← state] at j'
  have same : o₂ = o₁ := Option.some.inj (j'.on.symm.trans (congrArg Lane.on new.acted.lane))
  subst same
  obtain ⟨-, -, active, waiting⟩ := new.tables
  refine ⟨waiting.trans j'.kept.waiting, active.trans (j'.kept.active.trans new.around.before.active), ?_, fun i other => ?_,
    fun n => ?_, fun quiet => new.judged (congrArg Prod.fst cancels) quiet ?_⟩
  · rw [new.order, j'.order, move.order, (met w.order 0).1]
  · rw [new.order, j'.order, move.others i other, (met i 0).1]
  · rw [new.clip, j'.clip, move.clips, (met w.order n).2]
  · have judged := j'.judged _ r j'.tables (by rw [move.lane]; exact record)
    rw [move.lane] at judged
    exact judged.of_before rfl rfl rfl rfl rfl

/-- A cue that changes the lane's context alone, its fetch state apart (R92). -/
theorem NewCue.returned {g : OnLane → OnLane} (returns : z = (none, u.modOn l g)) (fetch : (g ou).fetch = ou.fetch) :
    o'.waiting = (g ou).waiting ∧ o'.active = (g ou).active ∧ t.orders = s.orders ∧
      (FeedQuiet o → o'.fetch = o.fetch) := by
  have state : z.2 = u.put l { u.lane l with on := some (g ou) } u.fetchWait :=
    (congrArg Prod.snd returns).trans (State.modOn_put new.on g)
  have lane : (z.2.lane l).on = some (g ou) := by rw [state, State.lane_put_self]
  have same : g ou = o₁ := Option.some.inj (lane.symm.trans (congrArg Lane.on new.acted.lane))
  obtain ⟨orders, -, active, waiting⟩ := new.tables
  rw [same]
  refine ⟨waiting, active, orders.trans ?_, fun quiet => ?_⟩
  · rw [state]
    exact new.around.before.orders
  · rw [(new.around.quiet_after quiet).fetch]
    change o₁.fetch = o.fetch
    rw [← same, fetch, (new.around.quiet_before quiet).fetch]

end

theorem requestedReturn_eq (time q : Stamp) (most : Nat) : requestedReturn time q most =
    if (q - time).toNat < 2 ^ 32 ∧ most < (q - time).toNat then time + BitVec.ofNat 33 most else q := by
  unfold requestedReturn
  dsimp only
  split
  · next far => rw [if_neg fun h => absurd h.1 (Nat.not_lt.2 far)]
  · next near =>
    split
    · next fits => rw [if_neg fun h => absurd h.2 (Nat.not_lt.2 fits)]
    · next exceeds => rw [if_pos ⟨Nat.not_le.1 near, Nat.not_le.1 exceeds⟩]

theorem maxLengthOf_body {j : OrderId} {b : OrderBody} (body : (s.order j).body = some b) : maxLengthOf s j = b.maxLength := by
  unfold maxLengthOf
  rw [body]
  rfl

/-- Settles O18: an accepted cue is `bindOrder`, a new return time, or `removeWaiting`. -/
theorem acceptedCuesActOnTheBreak : Obligations.AcceptedCuesActOnTheBreak := by
  unfold Obligations.AcceptedCuesActOnTheBreak
  intro a d ff s l i r o x c p done cue clear scan new valid time q limited
  obtain ⟨u, ou, record, on, taken⟩ := slotEvents_on_label cue done.ring.record done.ring.on i ff
  have run := exec_of_completes done ff
  generalize slotEvents l r x ff (completedBase l r i x o s) = t at run taken
  obtain ⟨z, o₁, o', cued⟩ := newCue_of_slot cue clear scan record on taken new
  have before := cued.around.before
  have decided := cued.decided
  have met := cued.met
  unfold decidedAt at decided
  rw [show cueTime r o (slotStamp x) = some p from time] at decided
  refine ⟨_, o', run, cued.around.after.on, fun j b starts intime free bindable lowest body => ?_,
    fun y b ret active event body => ?_, fun w b ret other waiting event body => ?_, fun w b cancel waiting event body => ?_⟩
  · have not_late : ¬ Late r.lateGrace (some p) c := by
      rintro ⟨v, p', given, here, behind⟩
      cases here
      exact intime v given behind
    have found := findOrder_lowest ((before.bindable l j).2 bindable) fun k below is =>
      lowest k below ((before.bindable l k).1 is)
    rw [(cueTiming_of_start valid r.lateGrace starts).2 not_late] at decided
    have bind : z = bindCue l c (c.time.getD p) u := decided
    rw [bindCue_of_free on (before.waiting.trans free), found] at bind
    intro length
    have bound : ∃ k dur, z = (none, bindOrder l j c.event k q dur u) ∧
        k = (if c.kind = .start then .start else .startOpen) ∧ returnTime q dur b.maxLength = q + BitVec.ofNat 33 length := by
      rcases starts with kind | kind
      · refine ⟨.start, c.duration, ?_, by rw [if_pos kind], ?_⟩
        · rw [bind, kind]
        · dsimp only [length]
          rw [kind]
          cases c.duration <;> rfl
      · refine ⟨.startOpen, none, ?_, by rw [if_neg (by rw [kind]; exact nofun)], ?_⟩
        · rw [bind, kind]
        · dsimp only [length]
          rw [kind]
          rfl
    obtain ⟨k, dur, binds, kind, ret⟩ := bound
    obtain ⟨waiting, active, order, others, clips, judged⟩ := cued.bound record binds body
    refine ⟨waiting.trans ?_, active, order, others, clips, fun quiet => (judged quiet).of_agree (.of_tables rfl rfl rfl)⟩
    unfold boundCue
    rw [kind, ret]
  · rw [cueTiming_of_ret valid r.lateGrace p ret] at decided
    have returns : z = returnCue l c.event q u := decided
    rw [returnCue_of_active on (before.active.trans active) event] at returns
    obtain ⟨waiting', active', orders, fetch⟩ := cued.returned returns rfl
    refine ⟨active'.trans ?_, waiting'.trans before.waiting, orders, fetch⟩
    change some _ = _
    rw [requestedReturn_eq, maxLengthOf_body (by rw [(met y.order 0).1]; exact body)]
  · rw [cueTiming_of_ret valid r.lateGrace p ret] at decided
    have returns : z = returnCue l c.event q u := decided
    rw [returnCue_of_waiting on (fun y is => other y (before.active.symm.trans is)) (before.waiting.trans waiting) event] at returns
    obtain ⟨waiting', active', orders, fetch⟩ := cued.returned returns rfl
    refine ⟨waiting'.trans ?_, active'.trans before.active, orders, fetch⟩
    change some _ = _
    rw [requestedReturn_eq, maxLengthOf_body (by rw [(met w.order 0).1]; exact body)]
  · rw [cueTiming_of_cancel valid r.lateGrace p cancel] at decided
    have cancels : z = cancelCue l c.event u := decided
    rw [cancelCue_of_waiting on (before.waiting.trans waiting) event] at cancels
    obtain ⟨gone, active, order, others, clips, judged⟩ := cued.cancelled record cancels body
    exact ⟨gone, active, order, others, clips, fun quiet => (judged quiet).of_agree (.of_tables rfl rfl rfl)⟩

end Sys2Proof.Machine
end

section
/-! PROOF. A packet on another label, its stamps moved and its clock reference and count replaced (R52 to R56, R142 to R147,
R185). -/

namespace Sys2Proof.Machine

variable {p q : Packet} {lb : Label}

/-! ## What the header's judgement reads -/

/-- The control bits and the adaptation field's two first bytes of `q` stand in `p`. -/
structure HeaderKept (q p : Packet) : Prop where
  flags : (getByte p 1).extractLsb' 5 3 = (getByte q 1).extractLsb' 5 3
  control : (getByte p 3).extractLsb' 4 4 = (getByte q 3).extractLsb' 4 4
  length : getByte p 4 = getByte q 4
  field : getByte p 5 = getByte q 5

theorem extractLsb'_of_wider {n : Nat} {x y : BitVec n} {a b c : Nat} (wide : x.extractLsb' a b = y.extractLsb' a b) (k : Nat)
    (inside : k + c ≤ b) : x.extractLsb' (a + k) c = y.extractLsb' (a + k) c := by
  refine BitVec.eq_of_getLsbD_eq fun i h => ?_
  have bit := congrArg (fun z => z.getLsbD (k + i)) wide
  simp only [BitVec.getLsbD_extractLsb', show k + i < b by omega, decide_true, Bool.true_and] at bit
  simp only [BitVec.getLsbD_extractLsb', h, decide_true, Bool.true_and]
  rw [Nat.add_assoc, bit]

theorem getLsbD_of_wider {n : Nat} {x y : BitVec n} {a b : Nat} (wide : x.extractLsb' a b = y.extractLsb' a b) (k : Nat)
    (inside : k < b) : x.getLsbD (a + k) = y.getLsbD (a + k) := by
  have bit := congrArg (fun z => z.getLsbD k) wide
  simpa [BitVec.getLsbD_extractLsb', inside] using bit

section
variable (kept : HeaderKept q p)
include kept

theorem HeaderKept.adaptation : adaptation p = adaptation q :=
  congrArg BitVec.toNat (extractLsb'_of_wider kept.control 0 (by decide))

theorem HeaderKept.scrambling : scrambling p = scrambling q :=
  congrArg BitVec.toNat (extractLsb'_of_wider kept.control 2 (by decide))

theorem HeaderKept.errorFlag : errorFlag p = errorFlag q := getLsbD_of_wider kept.flags 2 (by decide)

theorem HeaderKept.unitStart : unitStart p = unitStart q := getLsbD_of_wider kept.flags 1 (by decide)

theorem HeaderKept.afLength : afLength p = afLength q := congrArg BitVec.toNat kept.length

theorem HeaderKept.clockRefFlag : clockRefFlag p = clockRefFlag q := by
  unfold Machine.clockRefFlag hasAfFlags
  rw [kept.adaptation, kept.afLength, kept.field]

theorem HeaderKept.headerVerdict : headerVerdict p = headerVerdict q := by
  unfold Machine.headerVerdict
  rw [kept.adaptation, kept.afLength, kept.errorFlag, kept.clockRefFlag]

theorem HeaderKept.hasClockRef : hasClockRef p = hasClockRef q := by
  unfold Machine.hasClockRef
  rw [kept.headerVerdict, kept.clockRefFlag, kept.afLength]

theorem HeaderKept.bearsPayload : bearsPayload p = bearsPayload q := by
  unfold Machine.bearsPayload
  rw [kept.adaptation]

theorem HeaderKept.payloadStart : payloadStart p = payloadStart q := by
  unfold Machine.payloadStart
  rw [kept.adaptation, kept.afLength]

theorem HeaderKept.payloadLength : payloadLength p = payloadLength q := by
  unfold Machine.payloadLength
  rw [kept.adaptation, kept.afLength]

theorem HeaderKept.scanStamps (payload : ∀ j, 4 ≤ j → getByte p j = getByte q j) : scanStamps p = scanStamps q := by
  have byte : ∀ k, payloadByte p k = payloadByte q k := fun k => by
    have start : 4 ≤ Machine.payloadStart q + k := by unfold Machine.payloadStart; split <;> omega
    unfold payloadByte
    rw [kept.payloadStart]
    exact payload _ start
  unfold Machine.scanStamps
  rw [kept.headerVerdict, kept.unitStart, kept.adaptation, kept.payloadLength, kept.payloadStart, kept.scrambling]
  simp only [byte]

end

/-! ## Stamps moved (R52, R54, R55) -/

/-- The stamps of a packet lie past byte 12, inside the packet and apart. -/
theorem scanStamps_places {ks : List Nat} (scan : scanStamps q = .stamps ks) :
    ∃ n, 13 ≤ n ∧ n + 5 ≤ 188 ∧ (ks = [n] ∨ ks = [n, n + 5] ∧ n + 10 ≤ 188) := by
  have start : 4 ≤ payloadStart q ∧ (0 < payloadLength q → payloadStart q + payloadLength q = 188) := by
    unfold payloadStart payloadLength
    split
    · next three => rw [if_neg (by omega)]; constructor <;> omega
    · split <;> constructor <;> omega
  unfold scanStamps at scan
  repeat' split at scan
  all_goals cases scan
  · next room => exact ⟨payloadStart q + 9, by omega, by omega, .inl rfl⟩
  · next room => exact ⟨payloadStart q + 9, by omega, by omega, .inr ⟨rfl, by omega⟩⟩

theorem moveStamps_of_none {d : Stamp} (none : ∀ ks, scanStamps p ≠ .stamps ks) : moveStamps p d = p := by
  unfold moveStamps
  split
  · next ks scan => exact absurd scan (none ks)
  · rfl

theorem getStamp_congr {k : Nat} (bytes : ∀ j, k ≤ j → j < k + 5 → getByte p j = getByte q j) : getStamp p k = getStamp q k := by
  unfold getStamp
  rw [bytes k (by omega) (by omega), bytes (k + 1) (by omega) (by omega), bytes (k + 2) (by omega) (by omega),
    bytes (k + 3) (by omega) (by omega), bytes (k + 4) (by omega) (by omega)]

/-- Stamp `k` of `p` is that of `q` with `d` added, its leading bits and markers as they were. -/
structure StampMoved (q p : Packet) (k : Nat) (d : Stamp) : Prop where
  value : getStamp p k = getStamp q k + d
  head : (getByte p k).extractLsb' 4 4 = (getByte q k).extractLsb' 4 4
  markers : ∀ j, j = 0 ∨ j = 2 ∨ j = 4 → (getByte p (k + j)).extractLsb' 0 1 = (getByte q (k + j)).extractLsb' 0 1

theorem StampMoved.congr {q' p' : Packet} {k : Nat} {d : Stamp} (moved : StampMoved q p k d)
    (before : ∀ j, k ≤ j → j < k + 5 → getByte q' j = getByte q j)
    (after : ∀ j, k ≤ j → j < k + 5 → getByte p' j = getByte p j) : StampMoved q' p' k d := by
  refine ⟨?_, ?_, fun j place => ?_⟩
  · rw [getStamp_congr after, getStamp_congr before, moved.value]
  · rw [after k (by omega) (by omega), before k (by omega) (by omega), moved.head]
  · rw [after (k + j) (by omega) (by omega), before (k + j) (by omega) (by omega), moved.markers j place]

theorem setStamp_moved (p : Packet) {k : Nat} (within : k + 5 ≤ 188) (d : Stamp) :
    StampMoved p (setStamp p k (getStamp p k + d)) k d := by
  obtain ⟨value, head, markers⟩ := setStamp_spec p within (getStamp p k + d)
  exact ⟨value, head, markers⟩

theorem stampMoved_refl (p : Packet) (k : Nat) : StampMoved p p k 0 := ⟨(BitVec.add_zero _).symm, rfl, fun _ _ => rfl⟩

/-- The stamps found move; every other byte stands. -/
theorem moveStamps_spec {ks : List Nat} (scan : scanStamps p = .stamps ks) (d : Stamp) :
    (∀ k, k ∈ ks → StampMoved p (moveStamps p d) k d) ∧
      ∀ j, (∀ k, k ∈ ks → ¬ (k ≤ j ∧ j < k + 5)) → getByte (moveStamps p d) j = getByte p j := by
  obtain ⟨n, -, within, one | ⟨two, within'⟩⟩ := scanStamps_places scan
  · subst one
    have moved : moveStamps p d = setStamp p n (getStamp p n + d) := by
      unfold moveStamps
      rw [scan]
      rfl
    rw [moved]
    refine ⟨fun k isIn => ?_, fun j out => ?_⟩
    · rw [List.mem_singleton] at isIn
      rw [isIn]
      exact setStamp_moved p within d
    · have := out n (by simp)
      exact setStamp_outside p (by omega) _
  · subst two
    have moved : moveStamps p d = setStamp (setStamp p n (getStamp p n + d)) (n + 5)
        (getStamp (setStamp p n (getStamp p n + d)) (n + 5) + d) := by
      unfold moveStamps
      rw [scan]
      simp only [List.foldl_cons, List.foldl_nil]
      rw [getStamp_congr fun j low high => setStamp_outside p (by omega) _]
    have first := setStamp_moved p within d
    have second := setStamp_moved (setStamp p n (getStamp p n + d)) (show n + 5 + 5 ≤ 188 by omega) d
    rw [moved]
    refine ⟨fun k isIn => ?_, fun j out => ?_⟩
    · rcases List.mem_cons.1 isIn with rfl | isIn
      · exact first.congr (fun _ _ _ => rfl) fun j low high => setStamp_outside _ (by omega) _
      · rw [List.mem_singleton] at isIn
        rw [isIn]
        exact second.congr (fun j low high => (setStamp_outside p (by omega) _).symm) fun _ _ _ => rfl
    · have := out n (by simp)
      have := out (n + 5) (by simp)
      rw [setStamp_outside _ (by omega), setStamp_outside _ (by omega)]

/-- An offset moves no byte of the header and the clock reference. -/
theorem moveStamps_head (p : Packet) (d : Stamp) {j : Nat} (head : j < 13) : getByte (moveStamps p d) j = getByte p j := by
  by_cases stamps : ∃ ks, scanStamps p = .stamps ks
  · obtain ⟨ks, scan⟩ := stamps
    obtain ⟨n, past, -, place⟩ := scanStamps_places scan
    refine (moveStamps_spec scan d).2 j fun k isIn inside => ?_
    rcases place with one | ⟨two, -⟩
    · simp [one] at isIn; omega
    · simp [two] at isIn; omega
  · rw [moveStamps_of_none fun ks scan => stamps ⟨ks, scan⟩]

/-! ## The whole rewrite -/

/-- The stamps moved where there is an offset (R54, R55). -/
def movedBy (off : Option Stamp) (p : Packet) : Packet :=
  match off with
  | some d => moveStamps p d
  | none => p

theorem movedBy_head (off : Option Stamp) (p : Packet) {j : Nat} (head : j < 13) :
    getByte (movedBy off p) j = getByte p j := by
  cases off with
  | none => rfl
  | some d => exact moveStamps_head p d head

theorem headerKept_of_bytes (bytes : ∀ j, j < 6 → getByte p j = getByte q j) : HeaderKept q p :=
  ⟨by rw [bytes 1 (by decide)], by rw [bytes 3 (by decide)], bytes 4 (by decide), bytes 5 (by decide)⟩

/-- The clock reference of the packet, where there is an estimate for it (R56). -/
def restampedBy (ref : Option Nat) (p : Packet) : Packet :=
  match ref with
  | some c => if hasClockRef p then setClockRef p (BitVec.ofNat 33 (c / 300)) (BitVec.ofNat 9 (c % 300)) else p
  | none => p

theorem rewrite_eq (x : RunRewrite) (cEst : Option Nat) (p : Packet) :
    rewrite x cEst p = restampedBy (if x.restamps then cEst else none) (movedBy x.offset p) := by
  unfold rewrite movedBy restampedBy restamp
  cases x.restamps <;> cases x.offset <;> cases cEst <;> rfl

theorem restampedBy_other (ref : Option Nat) (p : Packet) {j : Nat}
    (out : ref.isSome = true → hasClockRef p = true → ¬ (6 ≤ j ∧ j ≤ 11)) : getByte (restampedBy ref p) j = getByte p j := by
  cases ref with
  | none => rfl
  | some c =>
    unfold restampedBy
    dsimp only
    split
    · next carries =>
      have := out rfl carries
      exact (setClockRef_spec p _ _).2.2.2 j (by omega)
    · rfl

theorem setLabel_kept (q : Packet) (lb : Label) : HeaderKept q (setLabel q lb) := by
  obtain ⟨-, flags, others⟩ := setLabel_spec q lb
  exact ⟨flags, by rw [others 3 (by decide) (by decide)], others 4 (by decide) (by decide), others 5 (by decide) (by decide)⟩

theorem scanStamps_setLabel (q : Packet) (lb : Label) : scanStamps (setLabel q lb) = scanStamps q :=
  (setLabel_kept q lb).scanStamps fun j low => (setLabel_spec q lb).2.2 j (by omega) (by omega)

/-- The packet that goes out on label `lb` with its rewrites and its count (R142 to R147). -/
theorem rewritten_of_rewrite (q : Packet) (lb : Label) (count : BitVec 4) (x : RunRewrite) (cEst : Option Nat) :
    Rewritten q lb count x.offset (if x.restamps then cEst else none) (setCount (rewrite x cEst (setLabel q lb)) count) := by
  obtain ⟨label, flags, labelled⟩ := setLabel_spec q lb
  have moved : ∀ j, j < 13 → getByte (movedBy x.offset (setLabel q lb)) j = getByte (setLabel q lb) j := fun j =>
    movedBy_head x.offset _
  have kept : HeaderKept q (movedBy x.offset (setLabel q lb)) := by
    have before := headerKept_of_bytes (q := setLabel q lb) (p := movedBy x.offset (setLabel q lb)) fun j low =>
      moved j (by omega)
    have after := setLabel_kept q lb
    exact ⟨before.flags.trans after.flags, before.control.trans after.control, before.length.trans after.length,
      before.field.trans after.field⟩
  have places : ∀ ks k, scanStamps q = .stamps ks → k ∈ ks → 13 ≤ k := fun ks k scan isIn => by
    obtain ⟨n, past, -, one | ⟨two, -⟩⟩ := scanStamps_places scan
    · simp [one] at isIn; omega
    · simp [two] at isIn; omega
  rw [rewrite_eq]
  generalize (if x.restamps = true then cEst else none) = ref
  obtain ⟨counted, control, others⟩ := setCount_spec (restampedBy ref (movedBy x.offset (setLabel q lb))) count
  have low : ∀ j, j < 6 → j ≠ 3 → getByte (setCount (restampedBy ref (movedBy x.offset (setLabel q lb))) count) j =
      getByte (setLabel q lb) j := fun j small other => by
    rw [others j other, restampedBy_other ref _ fun _ _ => by omega, moved j (by omega)]
  have high : ∀ j, 12 ≤ j → getByte (setCount (restampedBy ref (movedBy x.offset (setLabel q lb))) count) j =
      getByte (movedBy x.offset (setLabel q lb)) j := fun j large => by
    rw [others j (by omega), restampedBy_other ref _ fun _ _ => by omega]
  refine ⟨⟨?_, ?_⟩, ⟨counted, ?_⟩, fun ks k scan isIn => ?_, fun c some carries => ?_, fun j inside one two three stamps clock => ?_⟩
  · unfold packetLabel
    rw [low 1 (by decide) (by decide), low 2 (by decide) (by decide)]
    exact label
  · rw [low 1 (by decide) (by decide), flags]
  · rw [control, restampedBy_other ref _ fun _ _ => by omega, moved 3 (by decide), labelled 3 (by decide) (by decide)]
  · have past := places ks k scan isIn
    have step : StampMoved (setLabel q lb) (movedBy x.offset (setLabel q lb)) k (x.offset.getD 0) := by
      cases x.offset with
      | none => exact stampMoved_refl _ _
      | some d => exact (moveStamps_spec ((scanStamps_setLabel q lb).trans scan) d).1 k isIn
    have whole := step.congr (q' := q) (fun j low high => (labelled j (by omega) (by omega)).symm) fun j low' _ => high j (by omega)
    exact ⟨whole.value, whole.head, whole.markers⟩
  · have carries' : hasClockRef (movedBy x.offset (setLabel q lb)) = true := by rw [kept.hasClockRef, carries]
    have restamped : restampedBy ref (movedBy x.offset (setLabel q lb)) =
        setClockRef (movedBy x.offset (setLabel q lb)) (BitVec.ofNat 33 (c / 300)) (BitVec.ofNat 9 (c % 300)) := by
      rw [some]
      exact if_pos carries'
    rw [restamped] at others ⊢
    obtain ⟨base, ext, ones, -⟩ := setClockRef_spec (movedBy x.offset (setLabel q lb)) (BitVec.ofNat 33 (c / 300))
      (BitVec.ofNat 9 (c % 300))
    refine ⟨?_, ?_, ?_⟩
    · unfold clockRefBase at base ⊢
      rw [others 6 (by decide), others 7 (by decide), others 8 (by decide), others 9 (by decide), others 10 (by decide)]
      exact base
    · unfold clockRefExt at ext ⊢
      rw [others 10 (by decide), others 11 (by decide)]
      exact ext
    · rw [others 10 (by decide), ones]
  · rw [others j three, restampedBy_other ref _ fun some carries => clock some (by rw [← kept.hasClockRef, carries])]
    refine Eq.trans ?_ (labelled j one two)
    cases off : x.offset with
    | none => rfl
    | some d =>
      by_cases found : ∃ ks, scanStamps (setLabel q lb) = .stamps ks
      · obtain ⟨ks, scan⟩ := found
        exact (moveStamps_spec scan d).2 j fun k isIn =>
          stamps ks k ((scanStamps_setLabel q lb).symm.trans scan) isIn (by rw [off]; rfl)
      · exact congrArg (fun z => getByte z j) (moveStamps_of_none fun ks scan => found ⟨ks, scan⟩)

end Sys2Proof.Machine
end

section
/-! PROOF. One slot served (R137 to R151), operation by operation: each writes the lane's counters, flags and context, the
counts of the alerts and the read-fault flags of the clips, and nothing else. -/

namespace Sys2Proof.Machine

variable {s t u : State} {l m : LaneId} {ln ln' : Lane} {r : LaneRecord} {o o' : OnLane} {al : Vector Alert 4}
  {d : Decided} {e : QueueEntry} {cl : SourceClass}

/-! ## What serving a slot writes -/

/-- State `t` is `s` with lane `l` now `ln` of context `o` and the alert table `al`; no alert's fields are changed, and of the clips
only read-fault flags. -/
structure Slotted (s t : State) (l : LaneId) (ln : Lane) (o : OnLane) (al : Vector Alert 4) : Prop where
  state : ∃ cl, t = { s with lanes := s.lanes.set l { ln with on := some o }, alerts := al, clips := cl }
  alerts : ∀ a, (t.alert a).body = (s.alert a).body
  clips : ∀ c, (t.clip c).body = (s.clip c).body ∧ (t.clip c).locks = (s.clip c).locks ∧
    (t.clip c).disturbed = (s.clip c).disturbed

theorem Slotted.refl (on : (s.lane l).on = some o) : Slotted s s l (s.lane l) o s.alerts := by
  refine ⟨⟨s.clips, ?_⟩, fun _ => rfl, fun _ => ⟨rfl, rfl, rfl⟩⟩
  have same : ({ s.lane l with on := some o } : Lane) = s.lane l := by rw [← on]
  have lanes : s.lanes.set l (s.lane l) = s.lanes := Vector.set_getElem_self _
  rw [same, lanes]

section
variable (x : Slotted s t l ln o al)
include x

theorem Slotted.lane : t.lane l = { ln with on := some o } := by
  obtain ⟨cl, rfl⟩ := x.state
  exact State.lane_setLane_self s l _

theorem Slotted.on : (t.lane l).on = some o := by rw [x.lane]

theorem Slotted.record : (t.lane l).record = ln.record := by rw [x.lane]

theorem Slotted.elsewhere (other : m ≠ l) : t.lane m = s.lane m := by
  obtain ⟨cl, rfl⟩ := x.state
  exact (State.lane_setLane s l m _).trans (if_neg other)

theorem Slotted.orders : t.orders = s.orders := by
  obtain ⟨cl, rfl⟩ := x.state
  rfl

theorem Slotted.order (i : OrderId) : t.order i = s.order i := by
  obtain ⟨cl, rfl⟩ := x.state
  rfl

theorem Slotted.report : t.report = s.report := by
  obtain ⟨cl, rfl⟩ := x.state
  rfl

theorem Slotted.table : t.alerts = al := by
  obtain ⟨cl, rfl⟩ := x.state
  rfl

theorem Slotted.alert (a : AlertId) : t.alert a = al[a] := by
  obtain ⟨cl, rfl⟩ := x.state
  rfl

theorem Slotted.clipBody (c : ClipId) : (t.clip c).body = (s.clip c).body := (x.clips c).1

theorem Slotted.locks (c : ClipId) : (t.clip c).locks = (s.clip c).locks := (x.clips c).2.1

theorem Slotted.modOn (f : OnLane → OnLane) : Slotted s (t.modOn l f) l ln (f o) al := by
  refine ⟨?_, x.alerts, x.clips⟩
  obtain ⟨cl, rfl⟩ := x.state
  refine ⟨cl, ?_⟩
  have before := x.lane
  unfold State.modOn State.modLane State.setLane
  rw [before]
  simp only [Option.map_some, Vector.set_set]

theorem Slotted.modLane (f : Lane → Lane) (on : ∀ z, (f { ln with on := z }) = { f ln with on := z }) :
    Slotted s (t.modLane l f) l (f ln) o al := by
  refine ⟨?_, x.alerts, x.clips⟩
  obtain ⟨cl, rfl⟩ := x.state
  refine ⟨cl, ?_⟩
  have before := x.lane
  unfold State.modLane State.setLane
  rw [before, on]
  simp only [Vector.set_set]

theorem Slotted.note (c : Counter) (f : Flag) : Slotted s (t.note l c f) l (ln.note c f) o al :=
  x.modLane _ fun _ => rfl

theorem Slotted.raise (c : Counter) : Slotted s (t.raise l c) l (ln.raise c) o al := x.modLane _ fun _ => rfl

theorem Slotted.modAlert (a : AlertId) (f : Alert → Alert) (body : ∀ y, (f y).body = y.body) :
    Slotted s (t.modAlert a f) l ln o (al.set a (f al[a])) := by
  refine ⟨?_, fun b => ?_, x.clips⟩
  · have here := x.alert a
    obtain ⟨cl, rfl⟩ := x.state
    exact ⟨cl, rfl⟩
  · rw [State.alert_modAlert]
    split
    · next same => rw [body, same]; exact x.alerts a
    · exact x.alerts b

theorem Slotted.setReadFault (from_ : Origin) : Slotted s (setReadFault t from_) l ln o al := by
  cases from_ with
  | tap src i => exact x
  | clip c k =>
    refine ⟨?_, x.alerts, fun b => ?_⟩
    · obtain ⟨cl, rfl⟩ := x.state
      exact ⟨_, rfl⟩
    · have same := x.clips b
      unfold Machine.setReadFault
      dsimp only
      rw [State.clip_modClip]
      split
      · next eq => subst eq; exact same
      · exact same

/-- The tables the judgements read stand where the lane's record and the place of its ingest cursor do. -/
theorem Slotted.agree (on : (s.lane l).on = some o') (record : ln.record = (s.lane l).record)
    (ingest : o.track.ingest = o'.track.ingest) (fill : o.track.fill = o'.track.fill) : Agree s t := by
  refine ⟨x.alerts, fun i => by rw [x.order], fun m => ?_, fun m => ?_⟩ <;> by_cases here : m = l
  · rw [here, x.lane, record]
  · rw [x.elsewhere here]
  · rw [here, x.on, on, Option.map_some, Option.map_some, ingest, fill]
  · rw [x.elsewhere here]

theorem Slotted.isOverride (a : AlertId) : isOverride t a = isOverride s a := by
  unfold Machine.isOverride
  rw [x.alerts]

theorem Slotted.effectiveEntry (st : List StackEntry) : effectiveEntry t st = effectiveEntry s st := by
  unfold Machine.effectiveEntry
  simp only [x.isOverride]

theorem Slotted.overrideEffective (st : List StackEntry) : overrideEffective t st = overrideEffective s st := by
  unfold Machine.overrideEffective
  simp only [x.effectiveEntry, x.isOverride]

theorem Slotted.sourceClass : sourceClass t o d = sourceClass s o d := by
  unfold Machine.sourceClass
  rw [x.overrideEffective]

end

/-! ## What serving a slot keeps of its lane -/

/-- An insertion apart from what a slot served or passed in shadow changes of it. -/
def ActiveInsertion.identity (a : ActiveInsertion) : ActiveInsertion :=
  { a with cursor := none, offset := none, entered := [], served := 0, shadow := 0, underrun := 0,
           flags := { a.flags with fetchFault := false, clockStale := false } }

/-- From `ln` and `o` to `ln'` and `o'` a slot has been served on a lane: what that leaves standing. -/
structure SlotKept (ln : Lane) (o : OnLane) (ln' : Lane) (o' : OnLane) : Prop where
  record : ln'.record = ln.record
  queueGen : ln'.queueGen = ln.queueGen
  interjectGen : ln'.interjectGen = ln.interjectGen
  tally : Tallied [.underrun, .fetchFault, .unmapped, .unparsedStamp, .displaced] [.underrun, .fetchFault, .unmapped] ln ln'
  track : o'.track = { o.track with copy := o'.track.copy }
  clock : o'.clock = o.clock
  cues : o'.cues = o.cues
  waiting : o'.waiting = o.waiting
  feed : o'.feed.state = o.feed.state
  source : o'.fetch.source = o.fetch.source
  cursor : o'.fetch.cursor = o.fetch.cursor
  emptied : o.fetch.queue = [] → o'.fetch.queue = []
  ids : o'.stack.map StackEntry.id = o.stack.map StackEntry.id
  identity : o'.active.map ActiveInsertion.identity = o.active.map ActiveInsertion.identity

theorem SlotKept.refl (ln : Lane) (o : OnLane) : SlotKept ln o ln o :=
  ⟨rfl, rfl, rfl, .of_eq rfl rfl, rfl, rfl, rfl, rfl, rfl, rfl, rfl, id, rfl, rfl⟩

theorem SlotKept.trans {ln'' : Lane} {o'' : OnLane} (a : SlotKept ln o ln' o') (b : SlotKept ln' o' ln'' o'') :
    SlotKept ln o ln'' o'' where
  record := b.record.trans a.record
  queueGen := b.queueGen.trans a.queueGen
  interjectGen := b.interjectGen.trans a.interjectGen
  tally := a.tally.trans b.tally
  track := by rw [b.track, a.track]
  clock := b.clock.trans a.clock
  cues := b.cues.trans a.cues
  waiting := b.waiting.trans a.waiting
  feed := b.feed.trans a.feed
  source := b.source.trans a.source
  cursor := b.cursor.trans a.cursor
  emptied := fun empty => b.emptied (a.emptied empty)
  ids := b.ids.trans a.ids
  identity := b.identity.trans a.identity

theorem SlotKept.tallied (ln' : Lane) (o : OnLane) (record : ln'.record = ln.record) (queueGen : ln'.queueGen = ln.queueGen)
    (interjectGen : ln'.interjectGen = ln.interjectGen)
    (tally : Tallied [.underrun, .fetchFault, .unmapped, .unparsedStamp, .displaced] [.underrun, .fetchFault, .unmapped]
      ln ln') : SlotKept ln o ln' o :=
  ⟨record, queueGen, interjectGen, tally, rfl, rfl, rfl, rfl, rfl, rfl, rfl, id, rfl, rfl⟩

theorem SlotKept.note {c : Counter} {f : Flag} (ln : Lane) (o : OnLane)
    (counted : c ∈ [Counter.underrun, .fetchFault, .unmapped, .unparsedStamp, .displaced])
    (flagged : f ∈ [Flag.underrun, .fetchFault, .unmapped]) : SlotKept ln o (ln.note c f) o :=
  .tallied _ o rfl rfl rfl (.note ln counted flagged)

theorem SlotKept.raise {c : Counter} (ln : Lane) (o : OnLane)
    (counted : c ∈ [Counter.underrun, .fetchFault, .unmapped, .unparsedStamp, .displaced]) : SlotKept ln o (ln.raise c) o :=
  .tallied _ o rfl rfl rfl (.raise ln counted)

/-! ## The shadow (R87, R89) -/

/-- An insertion after a slot that it passes in shadow if it is suspended and not exhausted. -/
def ActiveInsertion.shadowed (s : State) (d : Decided) (a : ActiveInsertion) : ActiveInsertion :=
  if a.suspended ∧ a.cursor ≠ some .exhausted then a.passShadow s d.pSlot (d.stale || d.pSlot.isNone) else a

theorem shadowStep_slotted (x : Slotted s t l ln o al) (d : Decided) : Slotted s (shadowStep l d t) l ln
    { o with active := o.active.map (ActiveInsertion.shadowed t d) } al := x.modOn _

/-- What passing a packet leaves of an insertion. -/
theorem passPacket_kept (s : State) (p : Option Stamp) (a : ActiveInsertion) : a.passPacket s p =
    { a with cursor := (a.passPacket s p).cursor, offset := (a.passPacket s p).offset, entered := (a.passPacket s p).entered } := by
  unfold ActiveInsertion.passPacket
  split
  · split <;> rfl
  · rfl

theorem identity_passShadow (s : State) (p : Option Stamp) (stale : Bool) (a : ActiveInsertion) :
    (a.passShadow s p stale).identity = a.identity := by
  unfold ActiveInsertion.passShadow
  dsimp only
  rw [passPacket_kept]
  rfl

theorem identity_shadowed (s : State) (d : Decided) (a : ActiveInsertion) : (a.shadowed s d).identity = a.identity := by
  unfold ActiveInsertion.shadowed
  split
  · exact identity_passShadow _ _ _ a
  · rfl

theorem shadowed_kept (ln : Lane) (o : OnLane) (s : State) (d : Decided) :
    SlotKept ln o ln { o with active := o.active.map (ActiveInsertion.shadowed s d) } :=
  ⟨rfl, rfl, rfl, .of_eq rfl rfl, rfl, rfl, rfl, rfl, rfl, rfl, rfl, id, rfl, by
    rw [Option.map_map]
    exact congrArg (Option.map · o.active) (funext fun a => identity_shadowed s d a)⟩

/-! ## A packet taken (R71, R72, R140) -/

theorem identity_servePacket (s : State) (d : Decided) (e : QueueEntry) (a : ActiveInsertion) :
    (a.servePacket s d e).identity = a.identity := by
  unfold ActiveInsertion.servePacket
  dsimp only
  split
  · rfl
  · rw [passPacket_kept]
    rfl

theorem stackEntry_servePacket_id (s : State) (d : Decided) (z : StackEntry) : (z.servePacket s d).id = z.id := by
  unfold StackEntry.servePacket
  split <;> rfl

/-- The lane's context after the head `e` of its queue is taken for a slot of class `cl`. -/
def OnLane.taken (s : State) (r : LaneRecord) (cl : SourceClass) (d : Decided) (e : QueueEntry) (o : OnLane) : OnLane :=
  { ownerServed s r cl d e o with
    fetch := { (ownerServed s r cl d e o).fetch with queue := (ownerServed s r cl d e o).fetch.queue.tail } }

theorem taken_kept (ln : Lane) (s : State) (r : LaneRecord) (cl : SourceClass) (d : Decided) (e : QueueEntry) (o : OnLane) :
    SlotKept ln o ln (o.taken s r cl d e) := by
  have emptied : o.fetch.queue = [] → o.fetch.queue.tail = [] := fun empty => by rw [empty, List.tail_nil]
  unfold OnLane.taken ownerServed
  cases cl with
  | alert =>
    dsimp only
    split
    · next z _ =>
      exact ⟨rfl, rfl, rfl, .of_eq rfl rfl, rfl, rfl, rfl, rfl, rfl, rfl, rfl, emptied,
        modEntry_ids _ _ _ (stackEntry_servePacket_id s d), rfl⟩
    · exact ⟨rfl, rfl, rfl, .of_eq rfl rfl, rfl, rfl, rfl, rfl, rfl, rfl, rfl, emptied, rfl, rfl⟩
  | insertion =>
    refine ⟨rfl, rfl, rfl, .of_eq rfl rfl, rfl, rfl, rfl, rfl, rfl, rfl, rfl, emptied, rfl, ?_⟩
    rw [Option.map_map]
    exact congrArg (Option.map · o.active) (funext fun a => identity_servePacket s d e a)
  | loss => exact ⟨rfl, rfl, rfl, .of_eq rfl rfl, rfl, rfl, rfl, rfl, rfl, rfl, rfl, emptied, rfl, rfl⟩
  | network => exact ⟨rfl, rfl, rfl, .of_eq rfl rfl, rfl, rfl, rfl, rfl, rfl, rfl, rfl, emptied, rfl, rfl⟩
  | filler => exact ⟨rfl, rfl, rfl, .of_eq rfl rfl, rfl, rfl, rfl, rfl, rfl, rfl, rfl, emptied, rfl, rfl⟩

/-- The alert table after the effective alert of a stack has had a slot of class `cl` counted by `f`. -/
def countedAlerts (s : State) (cl : SourceClass) (st : List StackEntry) (f : Alert → Alert) (al : Vector Alert 4) :
    Vector Alert 4 :=
  match cl, effectiveEntry s st with
  | .alert, some z => al.set z.id (f al[z.id])
  | _, _ => al

theorem countedAlerts_of_alert {f : Alert → Alert} {st : List StackEntry} {z : StackEntry}
    (effective : effectiveEntry s st = some z) : countedAlerts s .alert st f al = al.set z.id (f al[z.id]) := by
  unfold countedAlerts
  rw [effective]

theorem countedAlerts_of_none {f : Alert → Alert} {st : List StackEntry} (none : effectiveEntry s st = none) :
    countedAlerts s cl st f al = al := by
  unfold countedAlerts
  rw [none]
  split
  · next same => cases same
  · rfl

/-- State `v` with that slot counted. -/
def countedFor (s : State) (cl : SourceClass) (st : List StackEntry) (f : Alert → Alert) (v : State) : State :=
  match cl, effectiveEntry s st with
  | .alert, some z => v.modAlert z.id f
  | _, _ => v

theorem Slotted.countedFor (x : Slotted s t l ln o al) (u : State) (cl : SourceClass) (st : List StackEntry)
    (f : Alert → Alert) (body : ∀ y, (f y).body = y.body) :
    Slotted s (countedFor u cl st f t) l ln o (countedAlerts u cl st f al) := by
  unfold Machine.countedFor countedAlerts
  split
  · next z _ => exact x.modAlert z.id f body
  · exact x

theorem takeHead_slotted (x : Slotted s t l ln o al) (r : LaneRecord) (cl : SourceClass) (d : Decided) (e : QueueEntry) :
    Slotted s (takeHead l r cl d e t) l (if e.fault then ln.note .fetchFault .fetchFault else ln) (o.taken t r cl d e)
      (countedAlerts t cl o.stack (Alert.served1 e.fault) al) := by
  have told : Slotted s (t.modOn l fun o =>
      let o := ownerServed t r cl d e o
      { o with fetch := { o.fetch with queue := o.fetch.queue.tail } }) l ln (o.taken t r cl d e) al := x.modOn _
  unfold takeHead
  rw [x.on]
  dsimp only [Option.bind_some] at told ⊢
  generalize t.modOn l _ = v at told ⊢
  have counted : Slotted s (countedFor t cl o.stack (Alert.served1 e.fault) v) l ln (o.taken t r cl d e)
      (countedAlerts t cl o.stack (Alert.served1 e.fault) al) := told.countedFor _ _ _ _ fun _ => rfl
  change Slotted s (if e.fault then (setReadFault (countedFor t cl o.stack (Alert.served1 e.fault) v) e.origin).note l
    .fetchFault .fetchFault else countedFor t cl o.stack (Alert.served1 e.fault) v) _ _ _ _
  generalize countedFor t cl o.stack (Alert.served1 e.fault) v = w at counted
  cases fault : e.fault with
  | true => rw [fault] at counted; exact (counted.setReadFault e.origin).note .fetchFault .fetchFault
  | false => rw [fault] at counted; exact counted

theorem countedIf_kept (b : Bool) (c : Counter) (f : Flag) (ln : Lane) (o : OnLane)
    (counted : c ∈ [Counter.underrun, .fetchFault, .unmapped, .unparsedStamp, .displaced])
    (flagged : f ∈ [Flag.underrun, .fetchFault, .unmapped]) : SlotKept ln o (if b then ln.note c f else ln) o := by
  cases b with
  | true => exact .note ln o counted flagged
  | false => exact .refl ln o

theorem takeHead_kept (ln : Lane) (o : OnLane) (s : State) (r : LaneRecord) (cl : SourceClass) (d : Decided) (e : QueueEntry) :
    SlotKept ln o (if e.fault then ln.note .fetchFault .fetchFault else ln) (o.taken s r cl d e) :=
  (countedIf_kept e.fault .fetchFault .fetchFault ln o (by decide) (by decide)).trans (taken_kept _ s r cl d e o)

/-! ## An underrun (R71, R87, R115, R127) -/

/-- The lane's context after an underrun in a slot of class `cl`. -/
def OnLane.starved (cl : SourceClass) (d : Decided) (o : OnLane) : OnLane :=
  match cl with
  | .insertion => { o with active := o.active.map (ActiveInsertion.countUnderrun (d.stale || d.pSlot.isNone)) }
  | .loss => { o with feed := o.feed.countUnderrun }
  | _ => o

/-- An alert with an underrun counted. -/
def Alert.starved (a : Alert) : Alert := { a with underrun := raise32 a.underrun }

theorem starved_kept (ln : Lane) (cl : SourceClass) (d : Decided) (o : OnLane) : SlotKept ln o ln (o.starved cl d) := by
  unfold OnLane.starved
  cases cl with
  | insertion =>
    refine ⟨rfl, rfl, rfl, .of_eq rfl rfl, rfl, rfl, rfl, rfl, rfl, rfl, rfl, id, rfl, ?_⟩
    rw [Option.map_map]
    rfl
  | loss => exact ⟨rfl, rfl, rfl, .of_eq rfl rfl, rfl, rfl, rfl, rfl, rfl, rfl, rfl, id, rfl, rfl⟩
  | alert => exact .refl ln o
  | network => exact .refl ln o
  | filler => exact .refl ln o

theorem underrun_slotted (x : Slotted s t l ln o al) (cl : SourceClass) (d : Decided) :
    Slotted s (underrun l cl d t) l (ln.note .underrun .underrun) (o.starved cl d)
      (countedAlerts t cl o.stack Alert.starved al) := by
  have noted := x.note .underrun .underrun
  unfold underrun OnLane.starved
  rw [x.on]
  cases cl with
  | alert =>
    dsimp only [Option.bind_some]
    cases effective : effectiveEntry t o.stack with
    | some z =>
      rw [countedAlerts_of_alert effective]
      exact noted.modAlert z.id Alert.starved fun _ => rfl
    | none =>
      rw [countedAlerts_of_none effective]
      exact noted
  | insertion => exact noted.modOn _
  | loss => exact noted.modOn _
  | network => exact noted
  | filler => exact noted

/-! ## The packet prepared (R142 to R144) -/

/-- The packet taken as it goes on. -/
def preparedOut (s : State) (r : LaneRecord) (cl : SourceClass) (d : Decided) (e : QueueEntry) (o : OnLane) : Outgoing :=
  if e.fault then .filler
  else
    match mapPacket (originLabels s e.origin) r.labelMap e.packet with
    | .to i lb => .mapped (rewrite (runRewrite s r cl o) d.cEst (setLabel e.packet lb)) i
    | _ => .filler

/-- The lane with the packet's mapping and stamps counted. -/
def preparedLane (s : State) (r : LaneRecord) (cl : SourceClass) (e : QueueEntry) (o : OnLane) (ln : Lane) : Lane :=
  if e.fault then ln
  else
    match mapPacket (originLabels s e.origin) r.labelMap e.packet with
    | .filler => ln
    | .unmapped => ln.note .unmapped .unmapped
    | .to _ lb => if unparsedIn (runRewrite s r cl o) (setLabel e.packet lb) then ln.raise .unparsedStamp else ln

theorem prepareTaken_slotted (x : Slotted s t l ln o al) (r : LaneRecord) (cl : SourceClass) (d : Decided) (e : QueueEntry) :
    (prepareTaken l r cl d e t).1 = preparedOut t r cl d e o ∧
      Slotted s (prepareTaken l r cl d e t).2 l (preparedLane t r cl e o ln) o al := by
  unfold prepareTaken preparedOut preparedLane
  cases e.fault with
  | true => exact ⟨rfl, x⟩
  | false =>
    rw [if_neg Bool.false_ne_true, if_neg Bool.false_ne_true, if_neg Bool.false_ne_true]
    cases mapPacket (originLabels t e.origin) r.labelMap e.packet with
    | filler => exact ⟨rfl, x⟩
    | unmapped => exact ⟨rfl, x.note .unmapped .unmapped⟩
    | _ i lb =>
      dsimp only
      rw [x.on]
      dsimp only
      refine ⟨rfl, ?_⟩
      cases unparsedIn (runRewrite t r cl o) (setLabel e.packet lb) with
      | true => exact x.raise .unparsedStamp
      | false => exact x

theorem preparedLane_kept (ln : Lane) (o : OnLane) (s : State) (r : LaneRecord) (cl : SourceClass) (e : QueueEntry) :
    SlotKept ln o (preparedLane s r cl e o ln) o := by
  unfold preparedLane
  split
  · exact .refl ln o
  · split
    · exact .refl ln o
    · exact .note ln o (by decide) (by decide)
    · split
      · exact .raise ln o (by decide)
      · exact .refl ln o

/-! ## The source's packet (R138 to R144) -/

theorem chooseSource_of_plain (d : Decided) {cl : SourceClass} (plain : cl.substituted = false) :
    chooseSource l r cl d t = (if cl = .network then .network else .filler, t) := by
  unfold chooseSource
  cases cl with
  | network => rfl
  | filler => rfl
  | alert => cases plain
  | insertion => cases plain
  | loss => cases plain

theorem chooseSource_of_none (d : Decided) (none : r.lossSource = .filler) :
    chooseSource l r .loss d t = (.filler, t.modOn l fun o => { o with feed := o.feed.countServed }) := by
  unfold chooseSource
  exact if_pos ⟨rfl, none⟩

theorem chooseSource_of_queue (d : Decided) (on : (t.lane l).on = some o) (substituted : cl.substituted = true)
    (some_ : ¬ (cl = .loss ∧ r.lossSource = .filler)) : chooseSource l r cl d t =
      match o.fetch.queue with
      | [] => (.filler, underrun l cl d t)
      | e :: _ => prepareTaken l r cl d e (takeHead l r cl d e t) := by
  have queue : ((t.lane l).on.bind fun o => o.fetch.queue.head?) = o.fetch.queue.head? := by rw [on]; rfl
  unfold chooseSource
  rw [queue]
  cases cl with
  | network => cases substituted
  | filler => cases substituted
  | alert => exact (if_neg some_).trans (by cases o.fetch.queue <;> rfl)
  | insertion => exact (if_neg some_).trans (by cases o.fetch.queue <;> rfl)
  | loss => exact (if_neg some_).trans (by cases o.fetch.queue <;> rfl)

/-- Whatever the source, the choice of the packet writes the slot's lane and the counts alone. -/
theorem chooseSource_slotted (x : Slotted s t l ln o al) (r : LaneRecord) (cl : SourceClass) (d : Decided) :
    ∃ ln' o' al', Slotted s (chooseSource l r cl d t).2 l ln' o' al' ∧ SlotKept ln o ln' o' := by
  cases substituted : cl.substituted with
  | false =>
    rw [chooseSource_of_plain d substituted]
    exact ⟨ln, o, al, x, .refl ln o⟩
  | true =>
    by_cases none : cl = .loss ∧ r.lossSource = .filler
    · obtain ⟨rfl, none⟩ := none
      rw [chooseSource_of_none d none]
      exact ⟨ln, _, al, x.modOn _, rfl, rfl, rfl, .of_eq rfl rfl, rfl, rfl, rfl, rfl, rfl, rfl, rfl, id, rfl, rfl⟩
    · rw [chooseSource_of_queue d x.on substituted none]
      cases o.fetch.queue with
      | nil => exact ⟨_, _, _, underrun_slotted x cl d, (SlotKept.note ln o (by decide) (by decide)).trans
          (starved_kept _ cl d o)⟩
      | cons e es =>
        have took := takeHead_slotted x r cl d e
        exact ⟨_, _, _, (prepareTaken_slotted took r cl d e).2, (takeHead_kept ln o t r cl d e).trans
          (preparedLane_kept _ _ _ r cl e)⟩

/-! ## The interject step (R130 to R134) -/

theorem replaceEntry_ids (st : List StackEntry) {a : AlertId} {y : StackEntry} (id : y.id = a) :
    (modEntry st a fun _ => y).map StackEntry.id = st.map StackEntry.id := by
  unfold modEntry
  rw [List.map_map]
  refine List.map_congr_left fun z _ => ?_
  change StackEntry.id (if z.id = a then y else z) = z.id
  split
  · next same => rw [id, same]
  · rfl

theorem restacked_kept (ln : Lane) {st : List StackEntry} (ids : st.map StackEntry.id = o.stack.map StackEntry.id) :
    SlotKept ln o ln { o with stack := st } :=
  ⟨rfl, rfl, rfl, .of_eq rfl rfl, rfl, rfl, rfl, rfl, rfl, rfl, rfl, id, ids, rfl⟩

theorem pace_id (n : Nat) (z : StackEntry) : (z.pace n).id = z.id := by
  unfold StackEntry.pace
  repeat' split
  all_goals rfl

theorem send_id (s : State) (d : Decided) (q : QueueEntry) (z : StackEntry) : (z.send s d q).id = z.id := by
  unfold StackEntry.send
  split <;> rfl

/-- The lane's context after the interject packet `q` of entry `z` is sent. -/
def OnLane.sent (s : State) (r : LaneRecord) (d : Decided) (z : StackEntry) (q : QueueEntry) (displaces : Bool) (out : Outgoing)
    (o : OnLane) : OnLane :=
  { o with
    stack := modEntry o.stack z.id fun _ => z.send s d q
    fetch := { o.fetch with interject := o.fetch.interject.tail }
    sel := if displaces then o.sel.displaced r d out else o.sel }

/-- An alert with a packet counted as served. -/
def Alert.counted (a : Alert) : Alert := { a with served := raise32 a.served }

/-- The lane with a displaced packet and unparsed stamps counted. -/
def sentLane (s : State) (d : Decided) (lb : Label) (z : StackEntry) (q : QueueEntry) (displaces : Bool) (ln : Lane) : Lane :=
  let ln := if displaces then ln.raise .displaced else ln
  if unparsedIn { offset := (z.send s d q).offset, restamps := true } (setLabel q.packet lb) then ln.raise .unparsedStamp
  else ln

theorem sendInterject_slotted (x : Slotted s t l ln o al) (r : LaneRecord) (d : Decided) (lb : Label) (z : StackEntry)
    (q : QueueEntry) (displaces : Bool) (out : Outgoing) :
    (sendInterject l r d lb z q displaces out t).1 = .interject (interjectPacket lb d (z.send t d q) q.packet) ∧
      Slotted s (sendInterject l r d lb z q displaces out t).2 l (sentLane t d lb z q displaces ln)
        (o.sent t r d z q displaces out) (al.set z.id (Alert.counted al[z.id])) := by
  unfold sendInterject sentLane OnLane.sent
  dsimp only
  rw [send_id]
  refine ⟨rfl, ?_⟩
  have told := (x.modOn fun o => { o with
    stack := modEntry o.stack z.id fun _ => z.send t d q
    fetch := { o.fetch with interject := o.fetch.interject.tail }
    sel := if displaces then o.sel.displaced r d out else o.sel }).modAlert z.id Alert.counted fun _ => rfl
  have displaced : Slotted s (if displaces then ((t.modOn l fun o => { o with
      stack := modEntry o.stack z.id fun _ => z.send t d q
      fetch := { o.fetch with interject := o.fetch.interject.tail }
      sel := if displaces then o.sel.displaced r d out else o.sel }).modAlert z.id Alert.counted).raise l .displaced
      else (t.modOn l fun o => { o with
      stack := modEntry o.stack z.id fun _ => z.send t d q
      fetch := { o.fetch with interject := o.fetch.interject.tail }
      sel := if displaces then o.sel.displaced r d out else o.sel }).modAlert z.id Alert.counted) l
      (if displaces then ln.raise .displaced else ln) (o.sent t r d z q displaces out)
      (al.set z.id (Alert.counted al[z.id])) := by
    cases displaces with
    | true => exact told.raise .displaced
    | false => exact told
  cases unparsedIn { offset := (z.send t d q).offset, restamps := true } (setLabel q.packet lb) with
  | true => exact displaced.raise .unparsedStamp
  | false => exact displaced

theorem sent_kept (ln : Lane) (o : OnLane) (s : State) (r : LaneRecord) (d : Decided) (lb : Label) (z : StackEntry)
    (q : QueueEntry) (displaces : Bool) (out : Outgoing) :
    SlotKept ln o (sentLane s d lb z q displaces ln) (o.sent s r d z q displaces out) := by
  have lane : SlotKept ln o (sentLane s d lb z q displaces ln) o := by
    unfold sentLane
    dsimp only
    have one : SlotKept ln o (if displaces then ln.raise .displaced else ln) o := by
      cases displaces with
      | true => exact .raise ln o (by decide)
      | false => exact .refl ln o
    split
    · exact one.trans (.raise _ o (by decide))
    · exact one
  refine lane.trans ⟨rfl, rfl, rfl, .of_eq rfl rfl, rfl, rfl, rfl, rfl, rfl, rfl, rfl, id, ?_, rfl⟩
  exact replaceEntry_ids o.stack (send_id s d q z)

/-- The context with the effective entry paced. -/
def OnLane.paced (n : Nat) (z : StackEntry) (o : OnLane) : OnLane :=
  { o with stack := modEntry o.stack z.id fun _ => z.pace n }

/-- The context with the wait of the paced entry counted on. -/
def OnLane.waited (z : StackEntry) (o : OnLane) : OnLane :=
  { o with stack := modEntry o.stack z.id fun y => { y with wait := heldAt 255 (y.wait + 1) } }

theorem interjectStep_of_none (r : LaneRecord) (d : Decided) (out : Outgoing) (on : (t.lane l).on = some o)
    (none : (effectiveEntry t o.stack).bind (fun z => interjectLabel t z.id) = none) :
    interjectStep l r d out t = (out, t) := by
  unfold interjectStep
  rw [on]
  dsimp only
  split
  · rfl
  · next z effective =>
    rw [effective, Option.bind_some] at none
    rw [none]

/-- What the interject step does with the effective entry of an INTERJECT alert (R130, R131). -/
theorem interjectStep_of_some (r : LaneRecord) (d : Decided) (out : Outgoing) (on : (t.lane l).on = some o) {z : StackEntry}
    (effective : effectiveEntry t o.stack = some z) {lb : Label} (label : interjectLabel t z.id = some lb) :
    interjectStep l r d out t =
      let n := alertInterval t z.id
      let v := t.modOn l (OnLane.paced n z)
      if (z.pace n).due = true then
        match o.fetch.interject.head?, placement r d (z.pace n).wait out with
        | some q, .replaces => sendInterject l r d lb (z.pace n) q false out v
        | some q, .displaces => sendInterject l r d lb (z.pace n) q true out v
        | _, _ => (out, v.modOn l (OnLane.waited z))
      else (out, v) := by
  have same := pace_id (alertInterval t z.id) z
  unfold interjectStep OnLane.paced OnLane.waited
  rw [on]
  dsimp only
  rw [effective]
  dsimp only
  rw [label]
  dsimp only
  rw [same] <;> rfl

theorem interjectStep_slotted (x : Slotted s t l ln o al) (r : LaneRecord) (d : Decided) (out : Outgoing) :
    ∃ ln' o' al', Slotted s (interjectStep l r d out t).2 l ln' o' al' ∧ SlotKept ln o ln' o' ∧ o'.active = o.active := by
  cases effective : effectiveEntry t o.stack with
  | none =>
    rw [interjectStep_of_none r d out x.on (by rw [effective]; rfl)]
    exact ⟨ln, o, al, x, .refl ln o, rfl⟩
  | some z =>
    cases label : interjectLabel t z.id with
    | none =>
      rw [interjectStep_of_none r d out x.on (by rw [effective]; exact label)]
      exact ⟨ln, o, al, x, .refl ln o, rfl⟩
    | some lb =>
      rw [interjectStep_of_some r d out x.on effective label]
      dsimp only
      have paced := x.modOn (OnLane.paced (alertInterval t z.id) z)
      have kept : SlotKept ln o ln (o.paced (alertInterval t z.id) z) :=
        restacked_kept ln (replaceEntry_ids o.stack (pace_id _ z))
      have sends := fun (q : QueueEntry) (b : Bool) => (sendInterject_slotted paced r d lb (z.pace (alertInterval t z.id)) q b out).2
      split
      · split
        · next q _ _ => exact ⟨_, _, _, sends q false, kept.trans (sent_kept _ _ _ r d lb _ q false out), rfl⟩
        · next q _ _ => exact ⟨_, _, _, sends q true, kept.trans (sent_kept _ _ _ r d lb _ q true out), rfl⟩
        · exact ⟨_, _, _, paced.modOn _, kept.trans (restacked_kept ln (modEntry_ids _ _ _ fun _ => rfl)), rfl⟩
      · exact ⟨_, _, _, paced, kept, rfl⟩

/-! ## The slot served (R137) -/

/-- The lane's context with the slot's class and its prepared copy. -/
def OnLane.finished (r : LaneRecord) (cl : SourceClass) (d : Decided) (out : Outgoing) (o : OnLane) : OnLane :=
  { o with
    track := { o.track with copy := some (finishPacket r cl d out o.sel).1 }
    sel := { (finishPacket r cl d out o.sel).2 with served := some cl } }

theorem serveSlot_eq (r : LaneRecord) (d : Decided) (on : (t.lane l).on = some o) : serveSlot l r d t =
    (interjectStep l r d (chooseSource l r (sourceClass t o d) d (shadowStep l d t)).1
      (chooseSource l r (sourceClass t o d) d (shadowStep l d t)).2).2.modOn l
    (OnLane.finished r (sourceClass t o d) d
      (interjectStep l r d (chooseSource l r (sourceClass t o d) d (shadowStep l d t)).1
        (chooseSource l r (sourceClass t o d) d (shadowStep l d t)).2).1) := by
  unfold serveSlot
  rw [on]
  rfl

theorem finished_kept (ln : Lane) (r : LaneRecord) (cl : SourceClass) (d : Decided) (out : Outgoing) (o : OnLane) :
    SlotKept ln o ln (o.finished r cl d out) :=
  ⟨rfl, rfl, rfl, .of_eq rfl rfl, rfl, rfl, rfl, rfl, rfl, rfl, rfl, id, rfl, rfl⟩

/-- A slot served: the class, the copy, and what stands. -/
theorem serveSlot_slotted (x : Slotted s t l ln o al) (r : LaneRecord) (d : Decided) :
    ∃ ln' o' al' copy, Slotted s (serveSlot l r d t) l ln' o' al' ∧ SlotKept ln o ln' o' ∧
      o'.sel.served = some (sourceClass s o d) ∧ o'.track.copy = some copy := by
  obtain ⟨ln₁, o₁, al₁, chosen, kept₁⟩ := chooseSource_slotted (shadowStep_slotted x d) r (sourceClass t o d) d
  obtain ⟨ln₂, o₂, al₂, placed, kept₂, -⟩ := interjectStep_slotted chosen r d
    (chooseSource l r (sourceClass t o d) d (shadowStep l d t)).1
  rw [serveSlot_eq r d x.on]
  exact ⟨_, _, _, _, placed.modOn _, (((shadowed_kept ln o t d).trans kept₁).trans kept₂).trans (finished_kept _ r _ d _ _),
    congrArg some x.sourceClass, rfl⟩

end Sys2Proof.Machine
end

section
/-! PROOF. The content part of a decision (R16, R137): its first stage, the insertion steps and the slot served after them. -/

namespace Sys2Proof.Machine

variable {s t u v : State} {l m : LaneId} {ln : Lane} {r : LaneRecord} {o o' o'' : OnLane} {a : Addr} {rest : List MemRead}
  {dec : Decision} {decs : List Decision} {d : Line} {err : Bool}

/-! ## The insertion steps (R83 to R86) -/

/-- From `s` to `t` an insertion of lane `l` has begun or ended, or none has: lane `l`, of context `o` before and `o'` after, keeps
all but its fetch source, its selector's run state and its insertions; no other lane and no alert changes. -/
structure BreakStep (s t : State) (l : LaneId) (o o' : OnLane) : Prop where
  lane : t.lane l = { s.lane l with queueGen := (t.lane l).queueGen, on := some o' }
  elsewhere : ∀ m, m ≠ l → t.lane m = s.lane m
  alerts : t.alerts = s.alerts
  track : o'.track = o.track
  clock : o'.clock = o.clock
  cues : o'.cues = o.cues
  feed : o'.feed = o.feed
  stack : o'.stack = o.stack

theorem BreakStep.on (b : BreakStep s t l o o') : (t.lane l).on = some o' := congrArg Lane.on b.lane

theorem BreakStep.refl (on : (s.lane l).on = some o) : BreakStep s s l o o :=
  ⟨by rw [← on], fun _ _ => rfl, rfl, rfl, rfl, rfl, rfl, rfl⟩

theorem BreakStep.trans (x : BreakStep s t l o o') (y : BreakStep t u l o' o'') : BreakStep s u l o o'' :=
  ⟨by rw [y.lane, x.lane], fun m other => (y.elsewhere m other).trans (x.elsewhere m other), y.alerts.trans x.alerts,
    y.track.trans x.track, y.clock.trans x.clock, y.cues.trans x.cues, y.feed.trans x.feed, y.stack.trans x.stack⟩

theorem endInsertion_break (x : ActiveInsertion) (kind : RecordKind) (out : Option Stamp) (on : (s.lane l).on = some o) :
    ∃ o', BreakStep s (endInsertion l x kind out s) l o o' := by
  obtain ⟨u, o', move, j⟩ := endInsertion_judgement x kind out on
  have lane := j.lane
  rw [move.lane] at lane
  exact ⟨o', lane, fun m other => (j.elsewhere other).trans (move.lane m), j.alerts.trans move.alerts, j.kept.track,
    j.kept.clock, j.kept.cues, j.kept.feed, j.kept.stack⟩

/-- The lane's context right after its waiting cue splices in, its source not yet judged (R84). -/
def OnLane.spliced (s : State) (w : WaitingCue) (p : Stamp) (o : OnLane) : OnLane :=
  { o with active := some (splicedInsertion s o w p), waiting := none }

theorem spliceIn_judgement (w : WaitingCue) (p : Stamp) (on : (s.lane l).on = some o) :
    ∃ o', Judgement (s.modOrder w.order Order.activate) l (o.spliced (s.modOrder w.order Order.activate) w p)
      (spliceIn l w p s) o' :=
  judgement_modOn (u := s.modOrder w.order Order.activate) on (OnLane.spliced (s.modOrder w.order Order.activate) w p) rfl

theorem spliceIn_break (w : WaitingCue) (p : Stamp) (on : (s.lane l).on = some o) :
    ∃ o', BreakStep s (spliceIn l w p s) l o o' := by
  obtain ⟨o', j⟩ := spliceIn_judgement w p on
  exact ⟨o', j.lane, fun m other => j.elsewhere other, j.alerts, j.kept.track, j.kept.clock, j.kept.cues, j.kept.feed,
    j.kept.stack⟩

/-- Step 1 of R83 where nothing ends the insertion. -/
theorem endingStep_of_none {p : Option Stamp} (on : (s.lane l).on = some o)
    (runs : ∀ x, o.active = some x → endingOf s p x = none) : endingStep l p s = s := by
  unfold endingStep
  rw [on, Option.bind_some]
  split
  · rfl
  · next x active => rw [runs x active]

theorem endingStep_of_some {p : Option Stamp} {x : ActiveInsertion} {kind : RecordKind} (on : (s.lane l).on = some o)
    (active : o.active = some x) (ends : endingOf s p x = some kind) : endingStep l p s = endInsertion l x kind p s := by
  unfold endingStep
  rw [on, Option.bind_some, active]
  dsimp only
  rw [ends]

theorem endingStep_break (p : Option Stamp) (on : (s.lane l).on = some o) :
    ∃ o', BreakStep s (endingStep l p s) l o o' := by
  by_cases ends : ∃ x kind, o.active = some x ∧ endingOf s p x = some kind
  · obtain ⟨x, kind, active, ends⟩ := ends
    rw [endingStep_of_some on active ends]
    exact endInsertion_break x kind p on
  · rw [endingStep_of_none on fun x active => Option.eq_none_iff_forall_ne_some.2 fun kind yes => ends ⟨x, kind, active, yes⟩]
    exact ⟨o, .refl on⟩

/-- Steps 2 and 3 of R83, the waiting cue `w` splicing in on a slot of time `p`. -/
def spliceSteps (l : LaneId) (w : WaitingCue) (p : Stamp) (s : State) : State :=
  match ((spliceIn l w p s).lane l).on.bind OnLane.active with
  | some x => if atOrAfter p x.ret then endInsertion l x (returnKind x) (some p) (spliceIn l w p s) else spliceIn l w p s
  | none => spliceIn l w p s

theorem spliceStep_of_waiting {p : Option Stamp} (on : (s.lane l).on = some o)
    (waits : ∀ w, o.waiting = some w → ¬ Reached p w.splice) : spliceStep l p s = s := by
  unfold spliceStep
  rw [on, Option.bind_some]
  split
  · next w x waiting => exact if_neg fun reached => waits w waiting ⟨x, rfl, reached⟩
  · rfl

theorem spliceStep_of_idle {p : Stamp} {w : WaitingCue} (on : (s.lane l).on = some o) (waiting : o.waiting = some w)
    (reached : atOrAfter p w.splice = true) (idle : o.active = none) :
    spliceStep l (some p) s = spliceSteps l w p s := by
  unfold spliceStep
  rw [on, Option.bind_some, waiting]
  dsimp only
  rw [if_pos reached, Option.bind_some, idle]
  rfl

theorem spliceStep_of_active {p : Stamp} {w : WaitingCue} {x : ActiveInsertion} (on : (s.lane l).on = some o)
    (waiting : o.waiting = some w) (reached : atOrAfter p w.splice = true) (active : o.active = some x) :
    spliceStep l (some p) s = spliceSteps l w p (endInsertion l x (chainKind x) (some p) s) := by
  unfold spliceStep
  rw [on, Option.bind_some, waiting]
  dsimp only
  rw [if_pos reached, Option.bind_some, active]
  rfl

theorem spliceSteps_break (w : WaitingCue) (p : Stamp) (on : (s.lane l).on = some o) :
    ∃ o', BreakStep s (spliceSteps l w p s) l o o' := by
  obtain ⟨o₁, spliced⟩ := spliceIn_break w p on
  unfold spliceSteps
  rw [spliced.on, Option.bind_some]
  cases o₁.active with
  | none => exact ⟨o₁, spliced⟩
  | some x =>
    dsimp only
    split
    · obtain ⟨o₂, ended⟩ := endInsertion_break x (returnKind x) (some p) spliced.on
      exact ⟨o₂, spliced.trans ended⟩
    · exact ⟨o₁, spliced⟩

theorem spliceStep_break (p : Option Stamp) (on : (s.lane l).on = some o) :
    ∃ o', BreakStep s (spliceStep l p s) l o o' := by
  by_cases splices : ∃ w, o.waiting = some w ∧ Reached p w.splice
  · obtain ⟨w, waiting, q, rfl, reached⟩ := splices
    cases active : o.active with
    | none =>
      rw [spliceStep_of_idle on waiting reached active]
      exact spliceSteps_break w q on
    | some x =>
      rw [spliceStep_of_active on waiting reached active]
      obtain ⟨o₁, ended⟩ := endInsertion_break x (chainKind x) (some q) on
      obtain ⟨o₂, rest⟩ := spliceSteps_break w q ended.on
      exact ⟨o₂, ended.trans rest⟩
  · rw [spliceStep_of_waiting on fun w waiting reached => splices ⟨w, waiting, reached⟩]
    exact ⟨o, .refl on⟩

theorem insertionSteps_break (p : Option Stamp) (on : (s.lane l).on = some o) :
    ∃ o', BreakStep s (insertionSteps l p s) l o o' := by
  obtain ⟨o₁, ended⟩ := endingStep_break p on
  obtain ⟨o₂, spliced⟩ := spliceStep_break p ended.on
  exact ⟨o₂, ended.trans spliced⟩

/-- Steps 1 to 3 of R83 where no insertion ends and none begins. -/
theorem insertionSteps_of_none {p : Option Stamp} (on : (s.lane l).on = some o)
    (runs : ∀ x, o.active = some x → endingOf s p x = none)
    (waits : ∀ w, o.waiting = some w → ¬ Reached p w.splice) : insertionSteps l p s = s := by
  unfold insertionSteps
  rw [endingStep_of_none on runs]
  exact spliceStep_of_waiting on waits

theorem reached_iff {p : Option Stamp} {x : Stamp} : reached p x = true ↔ Reached p x := by
  unfold reached Reached
  cases p with
  | none => simp
  | some q => simp

theorem endingOf_of_running {p : Option Stamp} {x : ActiveInsertion} (unmarked : (s.order x.order).abort = false)
    (before : ¬ Reached p x.ret) (more : x.cursor ≠ some .exhausted) : endingOf s p x = none := by
  unfold endingOf
  rw [if_neg (Bool.eq_false_iff.1 unmarked), if_neg fun reached => before (reached_iff.1 reached), if_neg more]

/-! ## The first stage (R16, R44 to R46) -/

theorem decide1_stamp : (decide1 r o dec d err).stamp = slotStampOf o dec d err := by
  change (if dec.fresh = true ∧ ¬ err = true then _ else _) = if dec.fresh = true ∧ err = false then _ else _
  simp only [Bool.not_eq_true]
  rfl

theorem decide1_pSlot : (decide1 r o dec d err).pSlot = slotTime r o dec d err := by
  rw [slotTime, ← decide1_stamp (r := r)]
  rfl

theorem decide1_cEst : (decide1 r o dec d err).cEst = slotClock o dec d err := by
  rw [slotClock, ← decide1_stamp (r := r)]
  rfl

/-- The lane with a slot read fault counted where its line was read with error. -/
def readLane (err : Bool) (ln : Lane) : Lane := if err then ln.note .readFault .readFault else ln

/-- Stage 1 of a decision: its slot read fault counted, and the decision taken from the list. -/
structure FirstStage (s v : State) (l : LaneId) (r : LaneRecord) (o : OnLane) (D : Decided) (err : Bool)
    (rest : List MemRead) : Prop where
  slotted : Slotted { s with memReads := rest } v l (readLane err (s.lane l)) (o.takeDecision D) s.alerts
  clips : v.clips = s.clips

theorem firstStage (on : (s.lane l).on = some o) (r : LaneRecord) (D : Decided) (err : Bool) (rest : List MemRead) :
    FirstStage s ((if err then ({ s with memReads := rest } : State).note l .readFault .readFault
      else { s with memReads := rest }).modOn l (OnLane.takeDecision D)) l r o D err rest := by
  have start : Slotted { s with memReads := rest } { s with memReads := rest } l (s.lane l) o s.alerts := .refl on
  cases err with
  | true => exact ⟨(start.note _ _).modOn _, rfl⟩
  | false => exact ⟨start.modOn _, rfl⟩

/-- The state after the content part: the slot served after the insertion steps. -/
def slotServed (l : LaneId) (r : LaneRecord) (D : Decided) (v : State) : State :=
  serveSlot l r D (insertionSteps l D.pSlot v)

/-- SLOT_CONTENT_PART of the lane's oldest decision (R16). -/
theorem exec_of_deciding (deciding : Deciding s a l rest r o dec decs) (d : Line) (err : Bool) :
    ∃ v, FirstStage s v l r o (decide1 r o dec d err) err rest ∧ exec (.slotContentPart d err) s =
      .next (release a (copiedLine (slotServed l r (decide1 r o dec d err) v) l 0 d) err
        (slotServed l r (decide1 r o dec d err) v)) := by
  obtain ⟨due, record, on, head⟩ := deciding
  refine ⟨_, firstStage on r _ err rest, ?_⟩
  have content : contentPart l d err { s with memReads := rest } = slotServed l r (decide1 r o dec d err)
      ((if err then ({ s with memReads := rest } : State).note l .readFault .readFault
        else { s with memReads := rest }).modOn l (OnLane.takeDecision (decide1 r o dec d err))) := by
    unfold contentPart slotServed
    rw [State.onLane_of (s := { s with memReads := rest }) record on]
    dsimp only
    rw [head]
  change returnUp d err s = _
  unfold returnUp
  rw [due]
  dsimp only [serveReturn]
  rw [content]

theorem copiedLine_of_copy {copy : PreparedCopy} (on : (t.lane l).on = some o) (made : o.track.copy = some copy) (d : Line) :
    copiedLine t l 0 d = copy.line0.getD d := by
  unfold copiedLine
  rw [on, Option.bind_some, made]
  rfl

/-! ## O29 -/

/-- Settles O29. -/
theorem contentPartFixesTheStamp : Obligations.ContentPartFixesTheStamp := by
  unfold Obligations.ContentPartFixesTheStamp
  intro d err s a l rest r o dec decs deciding
  obtain ⟨v, ⟨first, -⟩, ran⟩ := exec_of_deciding deciding d err
  obtain ⟨o₁, steps⟩ := insertionSteps_break (decide1 r o dec d err).pSlot first.on
  have path := inner_insertionSteps blind_unit l (decide1 r o dec d err).pSlot v
  obtain ⟨ln₂, o₂, al, copy, served, kept, -, made⟩ :=
    serveSlot_slotted (Slotted.refl steps.on) r (decide1 r o dec d err)
  unfold slotServed at ran
  rw [copiedLine_of_copy served.on made d] at ran
  have lane := steps.lane
  rw [first.lane] at lane
  generalize serveSlot l r (decide1 r o dec d err) (insertionSteps l (decide1 r o dec d err).pSlot v) = t at ran served
  generalize insertionSteps l (decide1 r o dec d err).pSlot v = w at steps path served kept lane
  obtain ⟨cl, frame⟩ := served.state
  obtain ⟨cl₀, start⟩ := first.state
  have stamp := decide1_stamp (r := r) (o := o) (dec := dec) (d := d) (err := err)
  have taken : (o.takeDecision (decide1 r o dec d err)).track = { o.track with
      awaiting := decs
      prevStamp := if (slotStampOf o dec d err).isSome then slotStampOf o dec d err else o.track.prevStamp } := by
    unfold OnLane.takeDecision
    rw [stamp, deciding.head, List.tail_cons]
  have track : o₂.track = { o.track with
      awaiting := decs
      prevStamp := if (slotStampOf o dec d err).isSome then slotStampOf o dec d err else o.track.prevStamp
      copy := some copy } := by
    rw [kept.track, made, steps.track, taken]
  have clock : o₂.clock = o.clock.refresh (slotStampOf o dec d err) := by
    rw [kept.clock, steps.clock, ← stamp]
    rfl
  have counted : ln₂.count .readFault = (readLane err (s.lane l)).count .readFault :=
    (kept.tally.counts .readFault (by decide)).trans (by rw [lane]; rfl)
  have flagged : ln₂.flag .readFault = (readLane err (s.lane l)).flag .readFault :=
    (kept.tally.flags .readFault (by decide)).trans (by rw [lane]; rfl)
  refine ⟨_, copy, ran, ?_, ?_, ?_, ?_, fun m other => ?_, rfl, ?_, ?_, ?_, ?_, ?_, ?_⟩
  · exact (congrArg (Option.map OnLane.track) served.on).trans (congrArg some track)
  · exact (congrArg (Option.map OnLane.clock) served.on).trans (congrArg some clock)
  · refine (congrArg (fun z => Lane.count z .readFault) served.lane).trans (counted.trans ?_)
    cases err <;> rfl
  · refine (congrArg (fun z => Lane.flag z .readFault) served.lane).trans (flagged.trans ?_)
    cases err with
    | true => exact (Lane.flag_note_self _ _ _).trans (Bool.or_true _).symm
    | false => exact (Bool.or_false _).symm
  · have elsewhere := (served.elsewhere other).trans ((steps.elsewhere m other).trans (first.elsewhere other))
    exact congrArg (fun z => z.on.map OnLane.track) elsewhere
  · exact (congrArg State.memReads frame :).trans (path.memReads.trans (congrArg State.memReads start :))
  · exact (congrArg State.upOrder frame :).trans (path.upOrder.trans (congrArg State.upOrder start :))
  · exact (congrArg State.upWrites frame :).trans (path.upWrites.trans (congrArg State.upWrites start :))
  · exact (congrArg State.runCount frame :).trans (path.runCount.trans (congrArg State.runCount start :))
  · exact (congrArg State.memPort frame :).trans (path.memPort.trans (congrArg State.memPort start :))
  · exact ⟨(congrArg State.slots frame :).trans (path.slots.trans (congrArg State.slots start :)),
      (congrArg State.queue frame :).trans (path.queue.trans (congrArg State.queue start :)),
      (congrArg State.working frame :).trans (path.working.trans (congrArg State.working start :))⟩

end Sys2Proof.Machine
end

section
/-! PROOF. The packet that leaves a slot (R139, R141, R146 to R151), byte by byte: the generated filler, the network packet with
its count, and the plain lane of O30. -/

namespace Sys2Proof.Machine

variable {s t u v : State} {l m : LaneId} {ln : Lane} {r : LaneRecord} {o o' : OnLane} {a : Addr} {rest : List MemRead}
  {dec : Decision} {decs : List Decision} {d : Line} {err : Bool} {D : Decided} {cl : SourceClass} {out : Outgoing}
  {al : Vector Alert 4}

/-! ## The bytes of a slot (Table 12-1) -/

theorem getByte_slotLine (x : SlotData) (j : Nat) {k : Nat} (low : k < 64) : getByte (slotLine x j) k = getByte x (64 * j + k) := by
  refine BitVec.eq_of_getLsbD_eq fun i h => ?_
  unfold slotLine
  rw [getLsbD_getByte, getLsbD_getByte, BitVec.getLsbD_extractLsb', decide_eq_true (by omega : 8 * k + i < 512),
    Bool.true_and, show 512 * j + (8 * k + i) = 8 * (64 * j + k) + i by omega]

theorem getByte_makeSlot_stamp (c : Arrival) (p : Packet) {k : Nat} (low : k < 4) : getByte (makeSlot c p) k = getByte c k := by
  refine BitVec.eq_of_getLsbD_eq fun i h => ?_
  unfold makeSlot
  rw [getLsbD_getByte, getLsbD_getByte, BitVec.getLsbD_append, if_pos (by omega : 8 * k + i < 32)]

theorem getByte_makeSlot_packet (c : Arrival) (p : Packet) (k : Nat) : getByte (makeSlot c p) (k + 4) = getByte p k := by
  refine BitVec.eq_of_getLsbD_eq fun i h => ?_
  unfold makeSlot
  rw [getLsbD_getByte, getLsbD_getByte, BitVec.getLsbD_append, if_neg (by omega),
    show 8 * (k + 4) + i - 32 = 8 * k + i by omega]

theorem getByte_line0Stamp (d : Line) {k : Nat} (low : k < 4) : getByte (line0Stamp d) k = getByte d k := by
  refine BitVec.eq_of_getLsbD_eq fun i h => ?_
  unfold line0Stamp
  rw [getLsbD_getByte, getLsbD_getByte, BitVec.getLsbD_extractLsb', decide_eq_true (by omega : 8 * k + i < 32),
    Bool.true_and, Nat.zero_add]

theorem getByte_line0Packet (d : Line) {k : Nat} (low : k < 60) : getByte (line0Packet d) k = getByte d (k + 4) := by
  refine BitVec.eq_of_getLsbD_eq fun i h => ?_
  unfold line0Packet slotPacket
  rw [getLsbD_getByte, getLsbD_getByte, BitVec.getLsbD_extractLsb', BitVec.getLsbD_setWidth,
    decide_eq_true (by omega : 8 * k + i < 1504), decide_eq_true (by omega : 32 + (8 * k + i) < 1536), Bool.true_and,
    Bool.true_and, show 32 + (8 * k + i) = 8 * (k + 4) + i by omega]

theorem hasMarker_line0 (d : Line) : hasMarker (line0Packet d) = true ↔ getByte d 4 = 0x47#8 := by
  unfold hasMarker
  rw [getByte_line0Packet d (by decide), beq_iff_eq]

/-- Bytes 0..3 of a line 0 that replaces a slot's are the returned line's (R151). -/
theorem getByte_replaced_stamp (d : Line) (p : Packet) {k : Nat} (low : k < 4) :
    getByte (slotLine (makeSlot (line0Stamp d) p) 0) k = getByte d k := by
  rw [getByte_slotLine _ 0 (by omega), Nat.mul_zero, Nat.zero_add, getByte_makeSlot_stamp _ _ low, getByte_line0Stamp d low]

theorem getByte_replaced_packet (d : Line) (p : Packet) {k : Nat} (low : k < 60) :
    getByte (slotLine (makeSlot (line0Stamp d) p) 0) (k + 4) = getByte p k := by
  rw [getByte_slotLine _ 0 (by omega), Nat.mul_zero, Nat.zero_add, getByte_makeSlot_packet]

/-! ## The generated filler packet (R141) -/

theorem getByte_filler_tail {k : Nat} (tail : 4 ≤ k) (inside : k < 188) : getByte fillerPacket k = 0xFF#8 := by
  refine BitVec.eq_of_getLsbD_eq fun i h => ?_
  unfold fillerPacket
  rw [getLsbD_getByte, BitVec.getLsbD_append, if_neg (by omega), BitVec.getLsbD_allOnes,
    decide_eq_true h, decide_eq_true (by omega : 8 * k + i - 32 < 1472), show (0xFF#8) = BitVec.allOnes 8 from rfl,
    BitVec.getLsbD_allOnes, decide_eq_true h, Bool.true_and]

theorem getByte_filler_head {k : Nat} (head : k < 4) : getByte fillerPacket k = getByte (0x10FF1F47#32) k := by
  refine BitVec.eq_of_getLsbD_eq fun i h => ?_
  unfold fillerPacket
  rw [getLsbD_getByte, getLsbD_getByte, BitVec.getLsbD_append, if_pos (by omega : 8 * k + i < 32)]

theorem slotLine_filler (c : Arrival) {j : Nat} (first : 1 ≤ j) (last : j ≤ 2) :
    slotLine (makeSlot c fillerPacket) j = BitVec.allOnes 512 := by
  refine BitVec.eq_of_getLsbD_eq fun i h => ?_
  unfold slotLine makeSlot fillerPacket
  rw [BitVec.getLsbD_extractLsb', BitVec.getLsbD_append, if_neg (by omega), BitVec.getLsbD_append, if_neg (by omega),
    BitVec.getLsbD_allOnes, BitVec.getLsbD_allOnes, decide_eq_true h,
    decide_eq_true (by omega : 512 * j + i - 32 - 32 < 1472), Bool.true_and]

/-! ## The count of a network packet (R139, R149, R150) -/

theorem getByte_setLine0Count_other (d : Line) (c : BitVec 4) {k : Nat} (other : k ≠ 7) :
    getByte (setLine0Count d c) k = getByte d k := getByte_setByte_ne other _

theorem getByte_setLine0Count (d : Line) (c : BitVec 4) :
    getByte (setLine0Count d c) 7 = (getByte d 7 &&& 0xF0#8) ||| c.setWidth 8 :=
  getByte_setByte_self (by decide) _

theorem packetCount_setLine0Count (d : Line) (c : BitVec 4) : packetCount (line0Packet (setLine0Count d c)) = c := by
  unfold packetCount
  rw [getByte_line0Packet _ (by decide), getByte_setLine0Count, countByte_value]

theorem setLine0Count_kept (d : Line) (c : BitVec 4) :
    (getByte (setLine0Count d c) 7).extractLsb' 4 4 = (getByte d 7).extractLsb' 4 4 := by
  rw [getByte_setLine0Count, countByte_kept]

/-! ## Serving without an insertion step -/

theorem endingOf_congr (orders : ∀ i, t.order i = s.order i) (p : Option Stamp) (x : ActiveInsertion) :
    endingOf t p x = endingOf s p x := by
  unfold endingOf
  rw [orders]

/-- A decision on which no insertion ends and none begins. -/
theorem exec_of_serving (deciding : Deciding s a l rest r o dec decs) (d : Line) (err : Bool)
    (runs : ∀ x, o.active = some x → endingOf s (slotTime r o dec d err) x = none)
    (waits : ∀ w, o.waiting = some w → ¬ Reached (slotTime r o dec d err) w.splice) :
    ∃ v, FirstStage s v l r o (decide1 r o dec d err) err rest ∧ exec (.slotContentPart d err) s =
      .next (release a (copiedLine (serveSlot l r (decide1 r o dec d err) v) l 0 d) err
        (serveSlot l r (decide1 r o dec d err) v)) := by
  obtain ⟨v, first, ran⟩ := exec_of_deciding deciding d err
  have still : insertionSteps l (decide1 r o dec d err).pSlot v = v := by
    rw [decide1_pSlot]
    refine insertionSteps_of_none first.slotted.on (fun x active => ?_) waits
    rw [endingOf_congr first.slotted.order]
    exact runs x active
  unfold slotServed at ran
  rw [still] at ran
  exact ⟨v, first, ran⟩

/-- The line released is the prepared copy's line 0, or the line returned. -/
theorem released_line (x : Slotted s t l ln (o.finished r cl D out) al) (d : Line) :
    copiedLine t l 0 d = (finishPacket r cl D out o.sel).1.line0.getD d := copiedLine_of_copy x.on rfl d

/-! ## The class of a slot (Table 8-1) -/

theorem sourceClass_of_override (override : overrideEffective s o.stack = true) : sourceClass s o D = .alert := if_pos override

/-- The class where no insertion is in service. -/
theorem sourceClass_of_idle (plain : overrideEffective s o.stack = false)
    (idle : ∀ x, o.active = some x → x.suspended = true ∨ x.cursor = some .exhausted) : sourceClass s o D =
      if o.feed.state ≠ .live then .loss else if D.fresh = true ∧ ¬ D.err = true then .network else .filler := by
  have none : (o.active.filter fun x => !x.suspended && x.cursor != some .exhausted) = none := by
    cases active : o.active with
    | none => rfl
    | some x => rcases idle x active with h | h <;> simp [Option.filter, h]
  unfold sourceClass
  rw [plain, if_neg Bool.false_ne_true, none]
  exact if_neg Bool.false_ne_true

theorem sourceClass_of_active {x : ActiveInsertion} (plain : overrideEffective s o.stack = false)
    (active : o.active = some x) (running : x.suspended = false) (more : x.cursor ≠ some .exhausted) :
    sourceClass s o D = .insertion := by
  unfold sourceClass
  rw [plain, if_neg Bool.false_ne_true, active]
  exact if_pos (by simp [Option.filter, running, more])

/-! ## The generated filler goes out -/

theorem finishPacket_filler (r : LaneRecord) (D : Decided) (x : Selector) (substitute : ¬ (cl = .network ∧ x.away = true)) :
    finishPacket r cl D .filler x = (replacedCopy D.data fillerPacket, { x with away := x.away || cl.substituted }) := by
  unfold finishPacket
  dsimp only
  rw [if_neg substitute]

/-- A generated filler goes out of lane `l`, whatever its class (R141, R151). -/
theorem fillerOut_of_finished (x : Slotted s t l ln (o.finished r cl D .filler) al) (data : D.data = d) (a : Addr) (err : Bool) :
    FillerOut (release a (copiedLine t l 0 d) err t) l a d err := by
  have copy : (finishPacket r cl D .filler o.sel).1 = replacedCopy d fillerPacket := by
    unfold finishPacket
    dsimp only
    rw [data]
  have bytes := fun (k : Nat) (low : k < 60) => getByte_replaced_packet d fillerPacket low
  rw [released_line x d, copy]
  refine ⟨slotLine (makeSlot (line0Stamp d) fillerPacket) 0, rfl, ?_, fun j low => getByte_replaced_stamp d _ low,
    (bytes 0 (by decide)).trans (getByte_filler_head (by decide)), (bytes 1 (by decide)).trans (getByte_filler_head (by decide)), (bytes 2 (by decide)).trans (getByte_filler_head (by decide)),
    (bytes 3 (by decide)).trans (getByte_filler_head (by decide)), fun j eight inside => ?_⟩
  · refine (congrArg (Option.map fun o => o.track.copy) x.on).trans (congrArg some (congrArg some (copy.trans ?_)))
    unfold replacedCopy
    dsimp only
    rw [slotLine_filler (j := 1) _ (by decide) (by decide), slotLine_filler (j := 2) _ (by decide) (by decide)]
  · obtain ⟨k, rfl⟩ := Nat.exists_eq_add_of_le' (show 4 ≤ j by omega)
    rw [bytes k (by omega), getByte_filler_tail (by omega) (by omega)]

/-! ## A network slot (R139, R148 to R150) -/

/-- The selector of a lane that serves its network, any return to it marked (R148). -/
def Selector.returned (x : Selector) : Selector := if x.away then x.markPending else x

theorem finishPacket_network (r : LaneRecord) (D : Decided) (x : Selector) : finishPacket r .network D .network x =
    match rewrittenPlace r D with
    | none => ({ line0 := none, line1 := none, line2 := none }, x.returned)
    | some i =>
      match x.returned.continuity[i]?.map (Continuity.network (Config.openLastCount D.data i)
          (bearsPayload (line0Packet D.data)) (packetCount (line0Packet D.data))) with
      | none => ({ line0 := none, line1 := none, line2 := none }, x.returned)
      | some n => ({ line0 := some (setLine0Count D.data n.1), line1 := none, line2 := none },
          x.returned.modRecord i fun _ => n.2) := by
  have same : (if SourceClass.network = SourceClass.network ∧ x.away = true then x.markPending else x) = x.returned := by
    unfold Selector.returned
    simp only [true_and]
  unfold finishPacket
  dsimp only
  rw [same] <;> rfl

theorem returned_away (x : Selector) : x.returned.away = false := by
  unfold Selector.returned
  split
  · rfl
  · next stays => exact Bool.eq_false_iff.2 stays

/-- A network packet without a place goes out as it was returned. -/
theorem finishPacket_passed (unplaced : rewrittenPlace r D = none) (x : Selector) : finishPacket r .network D .network x =
    ({ line0 := none, line1 := none, line2 := none }, x.returned) := by
  rw [finishPacket_network, unplaced]

/-- A network packet on a map entry goes out with the count of Table 8-3. -/
theorem finishPacket_counted {i : Nat} (place : rewrittenPlace r D = some i) {x : Selector} {c : Continuity}
    (entry : x.returned.continuity[i]? = some c) {n : BitVec 4 × Continuity}
    (counts : Continuity.network (Config.openLastCount D.data i) (bearsPayload (line0Packet D.data))
      (packetCount (line0Packet D.data)) c = n) : finishPacket r .network D .network x =
        ({ line0 := some (setLine0Count D.data n.1), line1 := none, line2 := none }, x.returned.modRecord i fun _ => n.2) := by
  rw [finishPacket_network, place]
  dsimp only
  rw [entry, Option.map_some, counts]

/-- The line 0 of a network packet is the returned line, its count apart. -/
theorem finishPacket_network_line (r : LaneRecord) (D : Decided) (x : Selector) :
    (finishPacket r .network D .network x).1.line0 = none ∨
      ∃ c, (finishPacket r .network D .network x).1.line0 = some (setLine0Count D.data c) := by
  rw [finishPacket_network]
  split
  · exact .inl rfl
  · split
    · exact .inl rfl
    · exact .inr ⟨_, rfl⟩

theorem finishPacket_network_away (r : LaneRecord) (D : Decided) (x : Selector) :
    (finishPacket r .network D .network x).2.away = false := by
  rw [finishPacket_network]
  split
  · exact returned_away x
  · split
    · exact returned_away x
    · exact returned_away x

/-- Table 8-3. -/
theorem network_eq (free : BitVec 4) (payload : Bool) (input : BitVec 4) (c : Continuity) :
    Continuity.network free payload input c =
      match payload, c.pending, c.last with
      | true, true, _ => (c.last.getD free + 1,
          { last := some (c.last.getD free + 1), delta := c.last.getD free + 1 - input, pending := false })
      | true, false, some _ => (input + c.delta, { c with last := some (input + c.delta) })
      | true, false, none => (input, { c with last := some input })
      | false, true, _ => (c.last.getD free, c)
      | false, false, _ => (input + c.delta, c) := by
  obtain ⟨last, delta, pending⟩ := c
  cases payload <;> cases pending <;> cases last <;> rfl

theorem returned_continuity (x : Selector) : x.returned.continuity = x.continuity.map fun c =>
    if x.away = true ∧ c.last.isSome = true then { c with pending := true } else c := by
  unfold Selector.returned
  split
  · next away => simp only [Selector.markPending, away, true_and]
  · next stays =>
    refine (List.map_id _).symm.trans (List.map_congr_left fun c _ => ?_)
    exact (if_neg fun h => stays h.1).symm

theorem networkPlace_of_first {n : Nat} {en : LabelEntry} (place : r.labelMap[n]? = some en)
    (label : en.label = packetLabel (line0Packet D.data))
    (first : ∀ m y, m < n → r.labelMap[m]? = some y → y.label ≠ packetLabel (line0Packet D.data)) :
    networkPlace r D = some n := by
  obtain ⟨inside, here⟩ := List.getElem?_eq_some_iff.1 place
  unfold networkPlace
  rw [List.findIdx?_eq_some_iff_getElem]
  refine ⟨inside, by rw [here, label]; exact beq_self_eq_true _, fun j before => ?_⟩
  rw [Bool.not_eq_true, beq_eq_false_iff_ne]
  exact first j _ before (List.getElem?_eq_getElem _)

theorem networkPlace_of_none (apart : ∀ en, en ∈ r.labelMap → en.label ≠ packetLabel (line0Packet D.data)) :
    networkPlace r D = none := by
  unfold networkPlace
  rw [List.findIdx?_eq_none_iff]
  exact fun en isIn => beq_eq_false_iff_ne.2 (apart en isIn)

theorem shadowStep_of_idle (on : (v.lane l).on = some o) (idle : o.active = none) (D : Decided) : shadowStep l D v = v := by
  have same : (fun o : OnLane => { o with active := o.active.map (ActiveInsertion.shadowed v D) }) o = o := by
    dsimp only
    rw [idle, Option.map_none, ← idle]
  change v.modOn l _ = _
  rw [State.modOn_put on]
  exact (congrArg (fun z => v.put l { v.lane l with on := some z } v.fetchWait) same).trans (State.put_same on)

/-- A slot of a lane without alert, insertion and waiting cue on a LIVE feed: the packet chosen is the network's, or the filler. -/
theorem serveSlot_of_plain (on : (v.lane l).on = some o) (stack : o.stack = []) (active : o.active = none)
    (live : o.feed.state = .live) (r : LaneRecord) (D : Decided) : serveSlot l r D v = v.modOn l
      (if D.fresh = true ∧ ¬ D.err = true then OnLane.finished r .network D .network else OnLane.finished r .filler D .filler) := by
  have cls : sourceClass v o D = if D.fresh = true ∧ ¬ D.err = true then .network else .filler := by
    rw [sourceClass_of_idle (by rw [stack]; rfl) (fun x some_ => by rw [active] at some_; cases some_),
      if_neg (not_not.2 live)]
  have shadow := shadowStep_of_idle on active D
  have still : ∀ out, interjectStep l r D out v = (out, v) := fun out =>
    interjectStep_of_none r D out on (by rw [stack]; rfl)
  rw [serveSlot_eq r D on, shadow, cls]
  split
  · rw [chooseSource_of_plain D rfl, if_pos rfl, still]
  · rw [chooseSource_of_plain D rfl, if_neg nofun, still]

/-- Settles O30. -/
theorem networkOrFillerIsServed : Obligations.NetworkOrFillerIsServed := by
  unfold Obligations.NetworkOrFillerIsServed
  intro d err s a l rest r o dec decs deciding stack active waiting live
  obtain ⟨v, first, ran⟩ := exec_of_serving deciding d err (fun x some_ => by rw [active] at some_; cases some_)
    (fun w some_ => by rw [waiting] at some_; cases some_)
  have served := serveSlot_of_plain first.slotted.on stack active live r (decide1 r o dec d err)
  by_cases network : dec.fresh = true ∧ err = false
  · have chosen : (decide1 r o dec d err).fresh = true ∧ ¬ (decide1 r o dec d err).err = true :=
      ⟨network.1, Bool.eq_false_iff.1 network.2⟩
    rw [if_pos chosen] at served
    have done := first.slotted.modOn (OnLane.finished r .network (decide1 r o dec d err) .network)
    rw [served, released_line done d] at ran
    generalize v.modOn l _ = t at ran done
    have line := finishPacket_network_line r (decide1 r o dec d err) o.sel
    refine ⟨_, _, _, ran, done.on, rfl, fun j low => ?_, fun other => ?_, fun _ _ => ⟨rfl, ?_, fun other => ?_,
      fun n en c0 marker place label before entry => ?_⟩⟩
    · rcases line with none | ⟨c, counted⟩
      · exact congrArg (fun z => getByte (Option.getD z d) j) none
      · exact (congrArg (fun z => getByte (Option.getD z d) j) counted).trans
          (getByte_setLine0Count_other d c (by omega))
    · rcases other with fresh | bad
      · exact absurd (network.1.symm.trans fresh) nofun
      · exact absurd (network.2.symm.trans bad) nofun
    · exact finishPacket_network_away r _ o.sel
    · have unplaced : rewrittenPlace r (decide1 r o dec d err) = none := by
        rcases other with marker | apart
        · exact if_neg fun has => marker ((hasMarker_line0 d).1 has)
        · exact (ite_eq_right_iff.2 fun _ => networkPlace_of_none apart)
      have passed := finishPacket_passed unplaced o.sel
      exact ⟨congrArg (fun z => Option.getD z.1.line0 d) passed, congrArg (some ∘ Prod.fst) passed,
        (congrArg (fun z => z.2.continuity) passed).trans (returned_continuity o.sel)⟩
    · have placed : rewrittenPlace r (decide1 r o dec d err) = some n :=
        (if_pos ((hasMarker_line0 d).2 marker)).trans (networkPlace_of_first place label before)
      have marked : o.sel.returned.continuity[n]? = some (if o.sel.away = true ∧ c0.last.isSome = true
          then { c0 with pending := true } else c0) := by
        rw [returned_continuity, List.getElem?_map, entry]
        rfl
      have counted := finishPacket_counted placed marked (network_eq _ _ _ _)
      intro c last input after
      have line : Option.getD (finishPacket r .network (decide1 r o dec d err) .network o.sel).1.line0 d =
          setLine0Count d after.1 := congrArg (fun z => Option.getD z.1.line0 d) counted
      have copied : (finishPacket r .network (decide1 r o dec d err) .network o.sel).1 =
          { line0 := some (setLine0Count d after.1), line1 := none, line2 := none } := congrArg Prod.fst counted
      have records : (finishPacket r .network (decide1 r o dec d err) .network o.sel).2.continuity =
          o.sel.returned.continuity.modify n fun _ => after.2 := congrArg (fun z => z.2.continuity) counted
      generalize after = y at line copied records
      refine ⟨?_, ?_, fun j inside other => ?_, ?_, ?_⟩
      · exact (congrArg (fun z => packetCount (line0Packet z)) line).trans (packetCount_setLine0Count d y.1)
      · exact (congrArg (fun z => (getByte z 7).extractLsb' 4 4) line).trans (setLine0Count_kept d y.1)
      · exact (congrArg (fun z => getByte z j) line).trans (getByte_setLine0Count_other d y.1 other)
      · exact (congrArg some copied).trans (by rw [← line]; rfl)
      · refine records.trans ?_
        rw [List.set_eq_modify, returned_continuity]
  · have chosen : ¬ ((decide1 r o dec d err).fresh = true ∧ ¬ (decide1 r o dec d err).err = true) := fun h =>
      network ⟨h.1, Bool.eq_false_iff.2 h.2⟩
    rw [if_neg chosen] at served
    have done := first.slotted.modOn (OnLane.finished r .filler (decide1 r o dec d err) .filler)
    have finished := finishPacket_filler (cl := .filler) r (decide1 r o dec d err)
      (o.takeDecision (decide1 r o dec d err)).sel nofun
    rw [served] at ran
    generalize v.modOn l _ = t at ran done
    have out := fillerOut_of_finished done rfl a err
    obtain ⟨x, port, -, stamp, -⟩ := id out
    refine ⟨_, _, x, ran, done.on, port, stamp, fun _ => ⟨out, rfl, ?_, ?_⟩, fun fresh good => absurd ⟨fresh, good⟩ network⟩
    · exact (congrArg (fun z => z.2.away) finished).trans (Bool.or_false _)
    · exact congrArg (fun z => z.2.continuity) finished

end Sys2Proof.Machine
end

section
/-! PROOF. A packet of the queue goes out (R52, R71, R140 to R147, R151): mapped and rewritten, or as the generated filler. -/

namespace Sys2Proof.Machine

variable {s t u v : State} {l m : LaneId} {ln : Lane} {r : LaneRecord} {o o' : OnLane} {a : Addr} {rest : List MemRead}
  {d : Line} {err : Bool} {D : Decided} {cl : SourceClass} {out : Outgoing} {al : Vector Alert 4} {e : QueueEntry}
  {p q : Packet}

/-! ## The packet that is mapped -/

theorem rewrite_kept (x : RunRewrite) (cEst : Option Nat) (q : Packet) (lb : Label) :
    HeaderKept q (rewrite x cEst (setLabel q lb)) ∧ getByte (rewrite x cEst (setLabel q lb)) 0 = getByte q 0 := by
  have same : ∀ j, j < 6 → getByte (rewrite x cEst (setLabel q lb)) j = getByte (setLabel q lb) j := fun j low => by
    rw [rewrite_eq, restampedBy_other _ _ fun _ _ => by omega, movedBy_head _ _ (by omega)]
  have head := headerKept_of_bytes same
  have label := setLabel_kept q lb
  exact ⟨⟨head.flags.trans label.flags, head.control.trans label.control, head.length.trans label.length,
    head.field.trans label.field⟩, (same 0 (by decide)).trans ((setLabel_spec q lb).2.2 0 (by decide) (by decide))⟩

theorem setByte_getByte {n : Nat} (x : BitVec n) (k : Nat) : setByte x k (getByte x k) = x := by
  refine BitVec.eq_of_getLsbD_eq fun i h => ?_
  rw [getLsbD_setByte, decide_eq_true h, Bool.true_and]
  split
  · next inside => rw [getLsbD_getByte, decide_eq_true (by omega), Bool.true_and, show 8 * k + (i - 8 * k) = i by omega]
  · rfl

theorem countByte_self (b : Byte) : (b &&& 0xF0#8) ||| (b.setWidth 4).setWidth 8 = b := by
  refine BitVec.eq_of_getLsbD_eq fun i h => ?_
  interval_cases i <;> simp

theorem setCount_self (p : Packet) : setCount p (packetCount p) = p := by
  unfold setCount packetCount
  rw [countByte_self, setByte_getByte]

/-! ## Label mapping (R142, R143) -/

theorem placeOf_eq_some {ls : List LabelEntry} {k : StreamKind} {n : Nat} : placeOf ls k = some n ↔
    ∃ en, ls[n]? = some en ∧ en.kind = k ∧ ∀ m y, m < n → ls[m]? = some y → y.kind ≠ k := by
  unfold placeOf
  rw [List.findIdx?_eq_some_iff_getElem]
  constructor
  · rintro ⟨inside, here, before⟩
    refine ⟨ls[n], List.getElem?_eq_getElem inside, eq_of_beq here, fun m y low place same => ?_⟩
    obtain ⟨_, rfl⟩ := List.getElem?_eq_some_iff.1 place
    exact before m low (beq_iff_eq.2 same)
  · rintro ⟨en, place, kind, before⟩
    obtain ⟨inside, rfl⟩ := List.getElem?_eq_some_iff.1 place
    exact ⟨inside, beq_iff_eq.2 kind, fun j low same => before j _ low (List.getElem?_eq_getElem _) (eq_of_beq same)⟩

/-- A packet that has a start marker and a header that is not bad. -/
def Readable (p : Packet) : Prop := hasMarker p = true ∧ headerVerdict p ≠ .bad

theorem mapPacket_of_unreadable {source target : List LabelEntry} (bad : ¬ Readable p) :
    mapPacket source target p = .unmapped := by
  refine if_pos (Bool.or_eq_true_iff.2 ?_)
  by_cases marker : hasMarker p = true
  · exact .inr (beq_iff_eq.2 (not_not.1 fun good => bad ⟨marker, good⟩))
  · exact .inl (by rw [Bool.eq_false_iff.2 marker]; rfl)

theorem mapPacket_of_readable {source target : List LabelEntry} (good : Readable p) : mapPacket source target p =
    if packetLabel p = fillerLabel then .filler
    else
      match (kindIn source (packetLabel p)).bind (placeOf target) with
      | none => .unmapped
      | some i =>
        match target[i]? with
        | some e => .to i e.label
        | none => .unmapped := by
  refine if_neg fun bad => ?_
  rcases Bool.or_eq_true_iff.1 bad with marker | header
  · rw [good.1] at marker
    cases marker
  · exact good.2 (eq_of_beq header)

/-- Where a packet is mapped to (R142). -/
theorem mapPacket_of_mapsTo {n : Nat} {en : LabelEntry} (maps : MapsTo s r e n en) :
    mapPacket (originLabels s e.origin) r.labelMap e.packet = .to n en.label := by
  obtain ⟨-, marker, header, label, k, kind, place, same, before⟩ := maps
  rw [mapPacket_of_readable ⟨marker, header⟩, if_neg label, kind, Option.bind_some,
    placeOf_eq_some.2 ⟨en, place, same, before⟩]
  dsimp only
  rw [place]

/-- A packet that is mapped has the entry of R142. -/
theorem mapsTo_of_mapPacket {n : Nat} {lb : Label} (sound : e.fault = false)
    (mapped : mapPacket (originLabels s e.origin) r.labelMap e.packet = .to n lb) : ∃ en, MapsTo s r e n en := by
  have good : Readable e.packet := by
    by_contra bad
    rw [mapPacket_of_unreadable bad] at mapped
    cases mapped
  rw [mapPacket_of_readable good] at mapped
  split at mapped
  · cases mapped
  · next label =>
    split at mapped
    · cases mapped
    · next i found =>
      obtain ⟨k, kind, placed⟩ := Option.bind_eq_some_iff.1 found
      obtain ⟨en, place, same, before⟩ := placeOf_eq_some.1 placed
      rw [place] at mapped
      cases mapped
      exact ⟨en, sound, good.1, good.2, label, k, kind, place, same, before⟩

theorem mapPacket_eq_filler {source target : List LabelEntry} : mapPacket source target p = .filler ↔
    Readable p ∧ packetLabel p = fillerLabel := by
  constructor
  · intro filler
    have good : Readable p := by
      by_contra bad
      rw [mapPacket_of_unreadable bad] at filler
      cases filler
    rw [mapPacket_of_readable good] at filler
    split at filler
    · next label => exact ⟨good, label⟩
    · split at filler
      · cases filler
      · split at filler <;> cases filler
  · rintro ⟨good, label⟩
    rw [mapPacket_of_readable good, if_pos label]

/-- A packet of the queue goes out mapped, or as the generated filler, uncounted or counted as unmapped. -/
theorem mapping_cases (s : State) (r : LaneRecord) (e : QueueEntry) :
    (∃ n en, MapsTo s r e n en) ∨
    (∀ n en, ¬ MapsTo s r e n en) ∧ (e.fault = true ∨ Readable e.packet ∧ packetLabel e.packet = fillerLabel) ∨
    (∀ n en, ¬ MapsTo s r e n en) ∧ e.fault = false ∧
      mapPacket (originLabels s e.origin) r.labelMap e.packet = .unmapped := by
  by_cases fault : e.fault = true
  · exact .inr (.inl ⟨fun n en maps => absurd (maps.1.symm.trans fault) nofun, .inl fault⟩)
  · have sound := Bool.eq_false_iff.2 fault
    cases mapped : mapPacket (originLabels s e.origin) r.labelMap e.packet with
    | filler =>
      refine .inr (.inl ⟨fun n en maps => ?_, .inr (mapPacket_eq_filler.1 mapped)⟩)
      rw [mapPacket_of_mapsTo maps] at mapped
      cases mapped
    | unmapped =>
      refine .inr (.inr ⟨fun n en maps => ?_, sound, rfl⟩)
      rw [mapPacket_of_mapsTo maps] at mapped
      cases mapped
    | _ n lb =>
      obtain ⟨en, maps⟩ := mapsTo_of_mapPacket sound mapped
      exact .inl ⟨n, en, maps⟩

/-! ## The packet prepared, by outcome -/

theorem preparedOut_of_mapsTo {n : Nat} {en : LabelEntry} (maps : MapsTo u r e n en) (cl : SourceClass) (D : Decided)
    (o : OnLane) : preparedOut u r cl D e o = .mapped (rewrite (runRewrite u r cl o) D.cEst (setLabel e.packet en.label)) n := by
  unfold preparedOut
  rw [if_neg (Bool.eq_false_iff.1 maps.1), mapPacket_of_mapsTo maps]

theorem preparedLane_of_mapsTo {n : Nat} {en : LabelEntry} (maps : MapsTo u r e n en) (cl : SourceClass) (o : OnLane)
    (ln : Lane) : preparedLane u r cl e o ln =
      if (runRewrite u r cl o).offset.isSome = true ∧ scanStamps e.packet = .unparsed then ln.raise .unparsedStamp else ln := by
  have counted : (unparsedIn (runRewrite u r cl o) (setLabel e.packet en.label) = true) =
      ((runRewrite u r cl o).offset.isSome = true ∧ scanStamps e.packet = .unparsed) := by
    unfold unparsedIn
    rw [scanStamps_setLabel, Bool.and_eq_true, beq_iff_eq]
  unfold preparedLane
  rw [if_neg (Bool.eq_false_iff.1 maps.1), mapPacket_of_mapsTo maps]
  dsimp only
  simp only [counted]

theorem preparedOut_of_passed (passed : e.fault = true ∨ Readable e.packet ∧ packetLabel e.packet = fillerLabel)
    (cl : SourceClass) (D : Decided) (o : OnLane) (ln : Lane) :
    preparedOut u r cl D e o = .filler ∧ preparedLane u r cl e o ln = ln := by
  unfold preparedOut preparedLane
  cases fault : e.fault with
  | true => exact ⟨rfl, rfl⟩
  | false =>
    rcases passed with bad | filler
    · rw [bad] at fault
      cases fault
    · rw [if_neg Bool.false_ne_true, if_neg Bool.false_ne_true, mapPacket_eq_filler.2 filler]
      exact ⟨rfl, rfl⟩

theorem preparedOut_of_unmapped (sound : e.fault = false)
    (unmapped : mapPacket (originLabels u e.origin) r.labelMap e.packet = .unmapped) (cl : SourceClass) (D : Decided)
    (o : OnLane) (ln : Lane) :
    preparedOut u r cl D e o = .filler ∧ preparedLane u r cl e o ln = ln.note .unmapped .unmapped := by
  unfold preparedOut preparedLane
  rw [if_neg (Bool.eq_false_iff.1 sound), if_neg (Bool.eq_false_iff.1 sound), unmapped]
  exact ⟨rfl, rfl⟩

/-! ## A mapped packet goes out (R147, R151) -/

/-- The count a substituted packet carries (R147). -/
def substitutedCount (payload : Bool) (c : Continuity) : BitVec 4 := if payload then c.last.getD 15 + 1 else c.last.getD 15

theorem substituted_eq (payload : Bool) (c : Continuity) : Continuity.substituted payload c =
    (substitutedCount payload c, { c with last := if payload then some (substitutedCount payload c) else c.last }) := by
  cases payload <;> rfl

theorem network_of_substituted (substitute : cl.substituted = true) (x : Selector) : ¬ (cl = .network ∧ x.away = true) :=
  fun h => absurd (h.1 ▸ substitute) nofun

/-- A mapped packet leaves with its entry's count (R147); without that entry, with its own. -/
theorem finishPacket_mapped (r : LaneRecord) (D : Decided) (p : Packet) (n : Nat) (x : Selector)
    (substitute : cl.substituted = true) : ∃ count, (∀ c, x.continuity[n]? = some c →
        count = substitutedCount (bearsPayload p) c) ∧
      finishPacket r cl D (.mapped p n) x = (replacedCopy D.data (setCount p count),
        { x with away := true, continuity := match x.continuity[n]? with
            | some c => x.continuity.set n { c with last := if bearsPayload p then some count else c.last }
            | none => x.continuity }) := by
  have stays : (if cl = .network ∧ x.away = true then x.markPending else x) = x :=
    if_neg (network_of_substituted substitute x)
  unfold finishPacket
  dsimp only
  rw [stays]
  cases entry : x.continuity[n]? with
  | none =>
    refine ⟨packetCount p, fun c some_ => (by cases some_), ?_⟩
    rw [setCount_self]
    rfl
  | some c =>
    refine ⟨substitutedCount (bearsPayload p) c, fun c' some_ => (by cases some_; rfl), ?_⟩
    rw [Option.map_some, substituted_eq]
    dsimp only [Selector.modRecord]
    rw [List.set_eq_modify]

theorem finishPacket_away (r : LaneRecord) (D : Decided) (x : Selector) (substitute : cl.substituted = true)
    (chosen : out = .filler ∨ ∃ p n, out = .mapped p n) : (finishPacket r cl D out x).2.away = true := by
  rcases chosen with rfl | ⟨p, n, rfl⟩
  · rw [finishPacket_filler r D x (network_of_substituted substitute x)]
    change (x.away || cl.substituted) = true
    rw [substitute, Bool.or_true]
  · obtain ⟨count, -, finished⟩ := finishPacket_mapped r D p n x substitute
    rw [finished]

/-! ## The packet of the queue goes out -/

/-- The rewrite of the packets of a run of offset `off` with clock reference `ref`. -/
structure RunAs (x : RunRewrite) (cEst : Option Nat) (off : Option Stamp) (ref : Option Nat) : Prop where
  offset : x.offset = off
  clock : (if x.restamps then cEst else none) = ref

theorem queuedOut_of_taken {off : Option Stamp} {ref : Option Nat} {w : State}
    (labels : originLabels u e.origin = originLabels s e.origin)
    (counts : ∀ c, c = .unparsedStamp ∨ c = .unmapped → ln.count c = (s.lane l).count c)
    (flag : ln.flag .unmapped = (s.lane l).flag .unmapped) (substitute : cl.substituted = true)
    (continuity : o'.sel.continuity = o.sel.continuity) (data : D.data = d) (run : RunAs (runRewrite u r cl o') D.cEst off ref)
    (done : Slotted w t l (preparedLane u r cl e o' ln) (o'.finished r cl D (preparedOut u r cl D e o')) al) (a : Addr) (err : Bool) :
    QueuedOut s (release a (copiedLine t l 0 d) err t) l r o e off ref a d err := by
  have maps_iff : ∀ n en, MapsTo u r e n en ↔ MapsTo s r e n en := fun n en => by unfold MapsTo; rw [labels]
  have chosen : preparedOut u r cl D e o' = .filler ∨ ∃ p n, preparedOut u r cl D e o' = .mapped p n := by
    rcases mapping_cases u r e with ⟨n, en, maps⟩ | ⟨-, passed⟩ | ⟨-, sound, unmapped⟩
    · exact .inr ⟨_, n, preparedOut_of_mapsTo maps cl D o'⟩
    · exact .inl (preparedOut_of_passed passed cl D o' ln).1
    · exact .inl (preparedOut_of_unmapped sound unmapped cl D o' ln).1
  have unchanged : (∀ n en, ¬ MapsTo s r e n en) → preparedOut u r cl D e o' = .filler ∧
      (preparedLane u r cl e o' ln).count .unparsedStamp = ln.count .unparsedStamp := fun none => by
    rcases mapping_cases u r e with ⟨n, en, maps⟩ | ⟨-, passed⟩ | ⟨-, sound, unmapped⟩
    · exact absurd ((maps_iff n en).1 maps) (none n en)
    · obtain ⟨filler, lane⟩ := preparedOut_of_passed passed cl D o' ln
      exact ⟨filler, by rw [lane]⟩
    · obtain ⟨filler, lane⟩ := preparedOut_of_unmapped sound unmapped cl D o' ln
      exact ⟨filler, by rw [lane]; exact Lane.count_raise_ne ln (by decide)⟩
  have count := fun c => (congrArg (fun z => Lane.count z c) done.lane :)
  have flagged := fun f => (congrArg (fun z => Lane.flag z f) done.lane :)
  refine ⟨?_, fun none => ?_, fun n en maps => ?_, fun sound none plain => ?_, fun passed => ?_⟩
  · exact (congrArg (Option.map fun y => y.sel.away) done.on).trans
      (congrArg some (finishPacket_away r D o'.sel substitute chosen))
  · obtain ⟨filler, same⟩ := unchanged none
    rw [filler] at done
    refine ⟨fillerOut_of_finished done data a err, ?_, ?_⟩
    · refine (congrArg (Option.map fun y => y.sel.continuity) done.on).trans (congrArg some ?_)
      rw [← continuity]
      exact congrArg (fun z => z.2.continuity) (finishPacket_filler r D o'.sel (network_of_substituted substitute o'.sel))
    · exact (count .unparsedStamp).trans (same.trans (counts _ (.inl rfl)))
  · have there := (maps_iff n en).2 maps
    have line := preparedLane_of_mapsTo there cl o' ln
    rw [preparedOut_of_mapsTo there cl D o'] at done
    obtain ⟨kept, first⟩ := rewrite_kept (runRewrite u r cl o') D.cEst e.packet en.label
    obtain ⟨number, counted, finished⟩ := finishPacket_mapped (cl := cl) r D
      (rewrite (runRewrite u r cl o') D.cEst (setLabel e.packet en.label)) n o'.sel substitute
    have rewritten := rewritten_of_rewrite e.packet en.label number (runRewrite u r cl o') D.cEst
    rw [run.offset, run.clock] at rewritten
    rw [kept.bearsPayload] at counted finished
    have line0 := released_line done d
    rw [finished] at line0
    have marker : getByte (setCount (rewrite (runRewrite u r cl o') D.cEst (setLabel e.packet en.label)) number) 0 = 0x47#8 :=
      ((setCount_spec _ number).2.2 0 (by decide)).trans (first.trans (beq_iff_eq.1 there.2.1))
    generalize setCount (rewrite (runRewrite u r cl o') D.cEst (setLabel e.packet en.label)) number = sent at *
    refine ⟨number, sent, makeSlot (d.extractLsb' 0 32) sent, fun c entry => ?_, rewritten, marker, rfl, ?_, ?_, ?_⟩
    · rw [← continuity] at entry ⊢
      refine ⟨counted c entry, ?_⟩
      refine (congrArg (Option.map fun y => y.sel.continuity) done.on).trans (congrArg some ?_)
      refine (congrArg (fun z => z.2.continuity) finished).trans ?_
      dsimp only
      rw [entry]
    · rw [← data] at line0 ⊢
      exact congrArg (fun z => some (UpLine.mk a z err)) line0
    · refine (congrArg (Option.map fun y => y.track.copy) done.on).trans (congrArg some ?_)
      rw [← data]
      exact (congrArg (some ∘ Prod.fst) finished)
    · refine (count .unparsedStamp).trans ?_
      change (preparedLane u r cl e o' ln).count .unparsedStamp = _
      rw [line, run.offset]
      split
      · rw [Lane.count_raise_self, Lane.count_raise_self, counts _ (.inl rfl)]
      · exact counts _ (.inl rfl)
  · rcases mapping_cases u r e with ⟨n, en, maps⟩ | ⟨-, bad | filler⟩ | ⟨-, -, unmapped⟩
    · exact absurd ((maps_iff n en).1 maps) (none n en)
    · exact absurd (sound.symm.trans bad) nofun
    · exact absurd ⟨filler.1.1, filler.1.2, filler.2⟩ plain
    · obtain ⟨-, lane⟩ := preparedOut_of_unmapped sound unmapped cl D o' ln
      refine ⟨(count .unmapped).trans ?_, (flagged .unmapped).trans ?_⟩
      · change (preparedLane u r cl e o' ln).count .unmapped = _
        rw [lane, Lane.count_raise_self, ← counts _ (.inr rfl)]
        exact Lane.count_raise_self ln .unmapped
      · change (preparedLane u r cl e o' ln).flag .unmapped = _
        rw [lane]
        exact Lane.flag_note_self ln .unmapped .unmapped
  · have same : (preparedLane u r cl e o' ln).count .unmapped = ln.count .unmapped ∧
        (preparedLane u r cl e o' ln).flag .unmapped = ln.flag .unmapped := by
      rcases passed with bad | ⟨n, en, maps⟩ | ⟨marker, header, label⟩
      · rw [(preparedOut_of_passed (.inl bad) cl D o' ln).2]
        exact ⟨rfl, rfl⟩
      · rw [preparedLane_of_mapsTo ((maps_iff n en).2 maps) cl o' ln]
        split
        · exact ⟨Lane.count_raise_ne ln (by decide), rfl⟩
        · exact ⟨rfl, rfl⟩
      · rw [(preparedOut_of_passed (.inr ⟨⟨marker, header⟩, label⟩) cl D o' ln).2]
        exact ⟨rfl, rfl⟩
    exact ⟨(count .unmapped).trans (same.1.trans (counts _ (.inr rfl))), (flagged .unmapped).trans (same.2.trans flag)⟩

end Sys2Proof.Machine
end

section
/-! PROOF. Substituted slots (R71, R111 to R115, R140): the slot served from the queue or starved, and the loss source (O37). -/

namespace Sys2Proof.Machine

variable {s t u v w : State} {l m : LaneId} {ln : Lane} {r : LaneRecord} {o o' : OnLane} {a : Addr} {rest : List MemRead}
  {dec : Decision} {decs : List Decision} {d : Line} {err : Bool} {D : Decided} {cl : SourceClass} {al : Vector Alert 4}
  {e : QueueEntry} {es : List QueueEntry}

/-! ## A substituted slot served -/

/-- The lane's context after the shadow of its suspended insertion. -/
def OnLane.shadowed (s : State) (D : Decided) (o : OnLane) : OnLane :=
  { o with active := o.active.map (ActiveInsertion.shadowed s D) }

theorem OnLane.shadowed_of_idle (s : State) (D : Decided) (idle : o.active = none) : o.shadowed s D = o := by
  unfold OnLane.shadowed
  rw [idle, Option.map_none, ← idle]

/-- Whatever the counts, no interject packet takes the place of what lane context `o` has chosen (R145). -/
def NoInterject (w : State) (o : OnLane) : Prop :=
  ∀ u : State, (∀ a, (u.alert a).body = (w.alert a).body) →
    (effectiveEntry u o.stack).bind (fun z => interjectLabel u z.id) = none

theorem noInterject_of_empty (w : State) (empty : o.stack = []) : NoInterject w o := fun u _ => by rw [empty]; rfl

/-- The lane with the fault of the packet taken counted. -/
def takenLane (e : QueueEntry) (ln : Lane) : Lane := if e.fault then ln.note .fetchFault .fetchFault else ln

/-- A substituted slot with a packet `e` at the head of its queue: the packet is taken and goes out (R71, R140). -/
structure QueueServed (w v t : State) (l : LaneId) (r : LaneRecord) (cl : SourceClass) (D : Decided) (e : QueueEntry)
    (ln : Lane) (o : OnLane) (al : Vector Alert 4) : Prop where
  taken : ∃ u, Slotted w u l (takenLane e ln) ((o.shadowed v D).taken (shadowStep l D v) r cl D e)
      (countedAlerts (shadowStep l D v) cl o.stack (Alert.served1 e.fault) al) ∧
    Slotted w t l (preparedLane u r cl e ((o.shadowed v D).taken (shadowStep l D v) r cl D e) (takenLane e ln))
      (((o.shadowed v D).taken (shadowStep l D v) r cl D e).finished r cl D
        (preparedOut u r cl D e ((o.shadowed v D).taken (shadowStep l D v) r cl D e)))
      (countedAlerts (shadowStep l D v) cl o.stack (Alert.served1 e.fault) al)

theorem serveSlot_of_queue (x : Slotted w v l ln o al) (cls : sourceClass v o D = cl) (substitute : cl.substituted = true)
    (some_ : ¬ (cl = .loss ∧ r.lossSource = .filler)) (queue : o.fetch.queue = e :: es)
    (quiet : NoInterject w ((o.shadowed v D).taken (shadowStep l D v) r cl D e)) :
    QueueServed w v (serveSlot l r D v) l r cl D e ln o al := by
  have shadow : Slotted w (shadowStep l D v) l ln (o.shadowed v D) al := shadowStep_slotted x D
  have took := takeHead_slotted shadow r cl D e
  obtain ⟨out, prepared⟩ := prepareTaken_slotted took r cl D e
  have still : ∀ out, interjectStep l r D out (prepareTaken l r cl D e (takeHead l r cl D e (shadowStep l D v))).2 =
      (out, (prepareTaken l r cl D e (takeHead l r cl D e (shadowStep l D v))).2) := fun out =>
    interjectStep_of_none r D out prepared.on (quiet _ prepared.alerts)
  refine ⟨_, took, ?_⟩
  rw [serveSlot_eq r D x.on, cls, chooseSource_of_queue D shadow.on substitute some_,
    show (o.shadowed v D).fetch.queue = e :: es from queue]
  dsimp only
  rw [still, out]
  exact prepared.modOn _

/-- A substituted slot with an empty queue: an underrun, filled (R71). -/
theorem serveSlot_of_starved (x : Slotted w v l ln o al) (cls : sourceClass v o D = cl) (substitute : cl.substituted = true)
    (some_ : ¬ (cl = .loss ∧ r.lossSource = .filler)) (queue : o.fetch.queue = [])
    (quiet : NoInterject w ((o.shadowed v D).starved cl D)) :
    Slotted w (serveSlot l r D v) l (ln.note .underrun .underrun) (((o.shadowed v D).starved cl D).finished r cl D .filler)
      (countedAlerts (shadowStep l D v) cl o.stack Alert.starved al) := by
  have shadow : Slotted w (shadowStep l D v) l ln (o.shadowed v D) al := shadowStep_slotted x D
  have empty := underrun_slotted shadow cl D
  have still : interjectStep l r D .filler (underrun l cl D (shadowStep l D v)) =
      (.filler, underrun l cl D (shadowStep l D v)) := interjectStep_of_none r D .filler empty.on (quiet _ empty.alerts)
  rw [serveSlot_eq r D x.on, cls, chooseSource_of_queue D shadow.on substitute some_,
    show (o.shadowed v D).fetch.queue = [] from queue]
  dsimp only
  rw [still]
  exact empty.modOn _

/-- A NONE loss source: the filler, served (R111, R115). -/
theorem serveSlot_of_noSource (x : Slotted w v l ln o al) (cls : sourceClass v o D = .loss) (none : r.lossSource = .filler)
    (quiet : NoInterject w { o.shadowed v D with feed := o.feed.countServed }) :
    Slotted w (serveSlot l r D v) l ln
      ({ o.shadowed v D with feed := o.feed.countServed }.finished r .loss D .filler) al := by
  have shadow : Slotted w (shadowStep l D v) l ln (o.shadowed v D) al := shadowStep_slotted x D
  have counted := shadow.modOn fun o => { o with feed := o.feed.countServed }
  have still := interjectStep_of_none r D .filler counted.on (quiet _ counted.alerts)
  rw [serveSlot_eq r D x.on, cls, chooseSource_of_none D none]
  dsimp only
  rw [still]
  exact counted.modOn _

/-! ## What the slot's packet leaves of the selector -/

/-- The selector after a slot, what continuity and the class do not concern. -/
theorem finishPacket_lossRun (r : LaneRecord) (cl : SourceClass) (D : Decided) (out : Outgoing) (x : Selector) :
    (finishPacket r cl D out x).2.lossRun = x.lossRun := by
  have marked : (if cl = .network ∧ x.away = true then x.markPending else x).lossRun = x.lossRun := by split <;> rfl
  unfold finishPacket
  dsimp only
  generalize (if cl = .network ∧ x.away = true then x.markPending else x) = y at marked
  split
  · split
    · exact marked
    · split <;> exact marked
  · exact marked
  · split <;> exact marked
  · exact marked

theorem finishPacket_filler_away (r : LaneRecord) (D : Decided) (x : Selector) (substitute : cl.substituted = true) :
    (finishPacket r cl D .filler x).2.away = true := finishPacket_away r D x substitute (.inl rfl)

theorem finishPacket_filler_continuity (r : LaneRecord) (D : Decided) (x : Selector) (substitute : cl.substituted = true) :
    (finishPacket r cl D .filler x).2.continuity = x.continuity :=
  congrArg (fun z => z.2.continuity) (finishPacket_filler r D x (network_of_substituted substitute x))

theorem preparedOut_cases (u : State) (r : LaneRecord) (cl : SourceClass) (D : Decided) (e : QueueEntry) (o : OnLane) :
    preparedOut u r cl D e o = .filler ∨ ∃ p n, preparedOut u r cl D e o = .mapped p n := by
  unfold preparedOut
  split
  · exact .inl rfl
  · split
    · exact .inr ⟨_, _, rfl⟩
    · exact .inl rfl

/-! ## Counters and flags -/

theorem count_readLane {c : Counter} (other : c ≠ .readFault) : (readLane err ln).count c = ln.count c := by
  unfold readLane
  split
  · exact Lane.count_raise_ne ln other
  · rfl

theorem flag_note_ne (ln : Lane) (c : Counter) {f g : Flag} (other : g ≠ f) : (ln.note c f).flag g = ln.flag g := by
  change ((ln.raise c).setFlag f).flag g = _
  rw [Lane.flag_setFlag, decide_eq_false other, Bool.or_false]
  rfl

theorem flag_readLane {f : Flag} (other : f ≠ .readFault) : (readLane err ln).flag f = ln.flag f := by
  unfold readLane
  split
  · exact flag_note_ne ln _ other
  · rfl

theorem count_takenLane {c : Counter} (other : c ≠ .fetchFault) : (takenLane e ln).count c = ln.count c := by
  unfold takenLane
  split
  · exact Lane.count_raise_ne ln other
  · rfl

theorem flag_takenLane {f : Flag} (other : f ≠ .fetchFault) : (takenLane e ln).flag f = ln.flag f := by
  unfold takenLane
  split
  · exact flag_note_ne ln _ other
  · rfl

theorem count_takenLane_fault : (takenLane e ln).count .fetchFault =
    if e.fault then (ln.raise .fetchFault).count .fetchFault else ln.count .fetchFault := by
  unfold takenLane
  split <;> rfl

theorem count_preparedLane {c : Counter} (u : State) (r : LaneRecord) (cl : SourceClass) (o : OnLane)
    (unmapped : c ≠ .unmapped) (unparsed : c ≠ .unparsedStamp) :
    (preparedLane u r cl e o ln).count c = ln.count c := by
  unfold preparedLane
  split
  · rfl
  · split
    · rfl
    · exact Lane.count_raise_ne ln unmapped
    · split
      · exact Lane.count_raise_ne ln unparsed
      · rfl

theorem record_readLane : (readLane err ln).record = ln.record := by
  unfold readLane
  split <;> rfl

theorem record_takenLane : (takenLane e ln).record = ln.record := by
  unfold takenLane
  split <;> rfl

/-- A packet's list of labels is read from tables that serving a slot leaves alone. -/
theorem originLabels_slotted (x : Slotted w u l ln o al) (record : ln.record = (w.lane l).record) (from_ : Origin) :
    originLabels u from_ = originLabels w from_ := by
  unfold originLabels
  cases from_ with
  | clip c k => dsimp only; rw [x.clipBody]
  | tap src i =>
    dsimp only
    by_cases here : src = l
    · rw [here, x.record, record]
    · rw [x.elsewhere here]

/-- The packet of a substituted slot goes out as `QueuedOut` states. -/
theorem queuedOut_of_served {off : Option Stamp} {ref : Option Nat}
    (served : QueueServed { s with memReads := rest } v t l r cl D e (readLane err (s.lane l)) (o.takeDecision D) al)
    (substitute : cl.substituted = true) (data : D.data = d)
    (continuity : (((o.takeDecision D).shadowed v D).taken (shadowStep l D v) r cl D e).sel.continuity = o.sel.continuity)
    (run : ∀ u, (∀ a, (u.alert a).body = (s.alert a).body) → (∀ i, u.order i = s.order i) →
      RunAs (runRewrite u r cl (((o.takeDecision D).shadowed v D).taken (shadowStep l D v) r cl D e)) D.cEst off ref) :
    QueuedOut s (release a (copiedLine t l 0 d) err t) l r o e off ref a d err := by
  obtain ⟨u, took, done⟩ := served.taken
  refine queuedOut_of_taken ?_ ?_ ?_ substitute continuity data (run u took.alerts took.order) done a err
  · exact originLabels_slotted took (record_takenLane.trans record_readLane) e.origin
  · rintro c (rfl | rfl)
    · rw [count_takenLane (by decide), count_readLane (by decide)]
    · rw [count_takenLane (by decide), count_readLane (by decide)]
  · rw [flag_takenLane (by decide), flag_readLane (by decide)]

/-! ## The loss source (R111 to R115) -/

/-- A tap packet's offset (R55, R140). -/
theorem tapOffset_of_tap {mode : StampMode} {held : Option Stamp} {rm : LaneRecord} {om : OnLane} {n : Nat}
    (record : (s.lane m).record = some rm) (on : (s.lane m).on = some om) (tap : e.origin = .tap m n) :
    tapOffset s mode D e held = if e.runStart = false then held else
      match mode, D.pSlot, presentation om.clock rm.playDelay (some e.stamp) with
      | .rebase, some u, some v => some (u - v)
      | _, _, _ => none := by
  have time : sourceTime s e = presentation om.clock rm.playDelay (some e.stamp) := by
    unfold sourceTime
    rw [tap]
    dsimp only
    rw [State.onLane_of record on]
  unfold tapOffset liveOffset
  rw [time]
  cases e.runStart <;> rfl

/-- The rewrite of a packet of the loss source (Table 8-2). -/
theorem runAs_of_loss {z : LossRun} (run : o.sel.lossRun = some z) (u : State) (cEst : Option Nat) :
    RunAs (runRewrite u r .loss o) cEst z.offset (match r.lossSource with
      | .backup _ _ _ => if z.offset.isSome then cEst else none
      | _ => cEst) := by
  unfold runRewrite
  dsimp only
  rw [run]
  cases r.lossSource with
  | filler => exact ⟨rfl, rfl⟩
  | slate c => exact ⟨rfl, rfl⟩
  | backup m mode lag => exact ⟨rfl, rfl⟩

/-- The loss source's run state after a packet of it is taken (R111, R140). -/
theorem lossRun_of_slate {c : ClipId} {cb : ClipBody} (slate : r.lossSource = .slate c) (body : (s.clip c).body = some cb)
    (z : LossRun) : z.servePacket s r D e =
      { cursor := if z.cursor + 1 < cb.length then z.cursor + 1 else 0
        offset := if z.cursor = 0 then D.pSlot.map fun u => u - cb.first else z.offset } := by
  have first : clipFirst s c = cb.first := by
    unfold clipFirst
    rw [body]
    rfl
  unfold LossRun.servePacket
  rw [slate]
  dsimp only
  rw [stepLoop, clipLength_of_body body, first]
  rfl

theorem lossRun_of_backup {mode : StampMode} {lag : Nat} (backup : r.lossSource = .backup m mode lag) (z : LossRun) :
    z.servePacket s r D e = { z with offset := tapOffset s mode D e z.offset } := by
  unfold LossRun.servePacket
  rw [backup]

/-- Settles O37. -/
theorem lossSourceIsServed : Obligations.LossSourceIsServed := by
  unfold Obligations.LossSourceIsServed
  intro d err s a l rest r o dec decs deciding stack active lost p estimate waits
  obtain ⟨v, ⟨first, -⟩, ran⟩ := exec_of_serving deciding d err (fun x some_ => by rw [active] at some_; cases some_) waits
  have cls : sourceClass v (o.takeDecision (decide1 r o dec d err)) (decide1 r o dec d err) = .loss :=
    (sourceClass_of_idle (by rw [show (o.takeDecision (decide1 r o dec d err)).stack = [] from stack]; rfl)
      fun x some_ => by rw [show (o.takeDecision (decide1 r o dec d err)).active = none from active] at some_; cases some_).trans
    (if_pos lost)
  have idle : (o.takeDecision (decide1 r o dec d err)).shadowed v (decide1 r o dec d err) =
      o.takeDecision (decide1 r o dec d err) := OnLane.shadowed_of_idle v _ active
  have uncounted : (readLane err (s.lane l)).count .underrun = (s.lane l).count .underrun := count_readLane (by decide)
  have pSlot : (decide1 r o dec d err).pSlot = p := decide1_pSlot
  have cEst : (decide1 r o dec d err).cEst = estimate := decide1_cEst
  have data : (decide1 r o dec d err).data = d := rfl
  generalize decide1 r o dec d err = D at *
  by_cases none : r.lossSource = .filler
  · have done := serveSlot_of_noSource first cls none (noInterject_of_empty _ (by rw [idle]; exact stack))
    rw [idle] at done
    generalize serveSlot l r D v = t at ran done
    refine ⟨_, _, ran, done.on, rfl, finishPacket_filler_away r D o.sel rfl, done.orders, done.report,
      fun m other => done.elsewhere other, fun _ => ⟨fillerOut_of_finished done data a err, rfl,
        finishPacket_filler_continuity r D o.sel rfl, rfl, ?_⟩, fun some_ => absurd none some_,
      fun e es some_ => absurd none some_⟩
    exact (congrArg (fun z => Lane.count z .underrun) done.lane).trans uncounted
  · have some_ : ¬ (SourceClass.loss = .loss ∧ r.lossSource = .filler) := fun h => none h.2
    cases queue : o.fetch.queue with
    | nil =>
      have done := serveSlot_of_starved first cls rfl some_ queue (noInterject_of_empty _ (by rw [idle]; exact stack))
      rw [idle] at done
      generalize serveSlot l r D v = t at ran done
      refine ⟨_, _, ran, done.on, rfl, finishPacket_filler_away r D o.sel rfl, done.orders, done.report,
        fun m other => done.elsewhere other, fun filler => absurd filler none, fun _ _ =>
          ⟨fillerOut_of_finished done data a err, finishPacket_lossRun r .loss D .filler o.sel,
            finishPacket_filler_continuity r D o.sel rfl, rfl, ?_, ?_⟩, fun e es _ some_ => by cases some_⟩
      · refine (congrArg (fun z => Lane.count z .underrun) done.lane).trans ?_
        exact (Lane.count_raise_self _ _).trans ((congrArg raise32 uncounted).trans (Lane.count_raise_self _ _).symm)
      · exact (congrArg (fun z => Lane.flag z .underrun) done.lane).trans (Lane.flag_note_self _ _ _)
    | cons e es =>
      have served := serveSlot_of_queue first cls rfl some_ queue (noInterject_of_empty _ (by rw [idle]; exact stack))
      have out := fun off ref => queuedOut_of_served (a := a) (off := off) (ref := ref) served rfl data
      obtain ⟨u, -, done⟩ := served.taken
      generalize serveSlot l r D v = t at ran done out
      rw [idle] at done out
      have still : shadowStep l D v = v := shadowStep_of_idle first.on active D
      rw [still] at done out
      have run : (finishPacket r .loss D (preparedOut u r .loss D e ((o.takeDecision D).taken v r .loss D e))
          ((o.takeDecision D).taken v r .loss D e).sel).2.lossRun =
          some ((o.sel.lossRun.getD .atSelection).servePacket v r D e) := finishPacket_lossRun _ _ _ _ _
      refine ⟨_, _, ran, done.on, rfl, finishPacket_away r D _ rfl (preparedOut_cases _ _ _ _ _ _), done.orders, done.report,
        fun m other => done.elsewhere other, fun filler => absurd filler none, fun _ some_ => (by cases some_),
        fun e' es' _ some_ => ?_⟩
      cases some_
      refine ⟨?_, congrArg List.tail queue, rfl, ?_, ?_, fun c cb slate body => ?_,
        fun m mode lag rm om n backup other record on tap => ?_⟩
      · have rewrites := fun u => runAs_of_loss (r := r) (o := (o.takeDecision D).taken v r .loss D e) rfl u D.cEst
        have sent := out _ _ rfl fun u _ _ => rewrites u
        rw [cEst] at sent
        have offset := congrArg (fun z => Option.bind z LossRun.offset) run
        exact offset ▸ sent
      · refine (congrArg (fun z => Lane.count z .underrun) done.lane).trans ?_
        exact (count_preparedLane u r .loss _ (by decide) (by decide)).trans ((count_takenLane (by decide)).trans uncounted)
      · refine (congrArg (fun z => Lane.count z .fetchFault) done.lane).trans ?_
        refine (count_preparedLane u r .loss _ (by decide) (by decide)).trans (count_takenLane_fault.trans ?_)
        have same : (readLane err (s.lane l)).count .fetchFault = (s.lane l).count .fetchFault := count_readLane (by decide)
        rw [Lane.count_raise_self, Lane.count_raise_self, same]
      · refine run.trans (congrArg some ?_)
        rw [lossRun_of_slate slate ((first.clipBody c).trans body), pSlot]
        rfl
      · refine run.trans (congrArg some ?_)
        rw [lossRun_of_backup backup, tapOffset_of_tap ((congrArg Lane.record (first.elsewhere other)).trans record)
          ((congrArg Lane.on (first.elsewhere other)).trans on) tap, pSlot]
        rfl

end Sys2Proof.Machine
end

section
/-! PROOF. An insertion in service takes its packets from the queue (R53, R55, R87, R88, R141 to R147): O32. -/

namespace Sys2Proof.Machine

variable {s t u v w : State} {l m : LaneId} {ln : Lane} {r : LaneRecord} {o o' : OnLane} {a : Addr} {rest : List MemRead}
  {dec : Decision} {decs : List Decision} {d : Line} {err : Bool} {D : Decided} {cl : SourceClass} {al : Vector Alert 4}
  {e : QueueEntry} {es : List QueueEntry} {x : ActiveInsertion} {b : OrderBody} {pos : ClipCursor} {c : ClipId} {k : Nat}

/-! ## Cursors and clips -/

theorem stepCursor_congr (clips : ∀ c, (t.clip c).body = (s.clip c).body) (b : OrderBody) (pos : ClipCursor) :
    stepCursor t b pos = stepCursor s b pos := by
  have length : clipLength t = clipLength s := funext fun c => by unfold clipLength; rw [clips]
  unfold stepCursor
  rw [length]

theorem cursorClip_live {mode : StampMode} {lag : Nat} (source : b.source = .live m mode lag) (pos : ClipCursor) :
    cursorClip b pos = none := by
  unfold cursorClip
  rw [source]

/-- A packet passed moves the cursor on, and packet 0 begins the clip (R53, R88). -/
theorem passPacket_of_clip (body : (s.order x.order).body = some b) (cursor : x.cursor = some pos)
    (clip : cursorClip b pos = some (c, k)) (p : Option Stamp) : x.passPacket s p = { x with
      cursor := some (stepCursor s b pos)
      offset := if k = 0 then clipOffset p (clipFirst s c) else x.offset
      entered := if k = 0 ∧ c ∉ x.entered then x.entered ++ [c] else x.entered } := by
  unfold ActiveInsertion.passPacket
  rw [body, cursor]
  dsimp only
  rw [clip]
  rfl

theorem clipFirst_of_body {cb : ClipBody} (body : (s.clip c).body = some cb) : clipFirst s c = cb.first := by
  unfold clipFirst
  rw [body]
  rfl

/-! ## A packet served (R71, R87, R140) -/

/-- The insertion after its cursor, D and clips entered have followed the packet (R55, R88). -/
def ActiveInsertion.advanced (s : State) (D : Decided) (e : QueueEntry) (x : ActiveInsertion) : ActiveInsertion :=
  match (s.order x.order).body.map OrderBody.source with
  | some (.live _ mode _) => { x with offset := tapOffset s mode D e x.offset }
  | _ => x.passPacket s D.pSlot

theorem servePacket_eq (s : State) (D : Decided) (e : QueueEntry) (x : ActiveInsertion) : x.servePacket s D e =
    { x.advanced s D e with
      served := (x.advanced s D e).served + 1
      flags := { (x.advanced s D e).flags with
        fetchFault := (x.advanced s D e).flags.fetchFault || e.fault
        clockStale := (x.advanced s D e).flags.clockStale || (D.stale || D.pSlot.isNone) } } := rfl

theorem advanced_kept (s : State) (D : Decided) (e : QueueEntry) (x : ActiveInsertion) : x.advanced s D e =
    { x with cursor := (x.advanced s D e).cursor, offset := (x.advanced s D e).offset,
             entered := (x.advanced s D e).entered } := by
  unfold ActiveInsertion.advanced
  split
  · rfl
  · exact passPacket_kept s D.pSlot x

theorem advanced_of_clips (source : ∀ m mode lag, (s.order x.order).body.map OrderBody.source ≠ some (.live m mode lag)) :
    x.advanced s D e = x.passPacket s D.pSlot := by
  unfold ActiveInsertion.advanced
  split
  · next m mode lag live => exact absurd live (source m mode lag)
  · rfl

theorem advanced_of_live {mode : StampMode} {lag : Nat} (body : (s.order x.order).body = some b)
    (source : b.source = .live m mode lag) : x.advanced s D e = { x with offset := tapOffset s mode D e x.offset } := by
  have live : (s.order x.order).body.map OrderBody.source = some (.live m mode lag) := by rw [body, Option.map_some, source]
  unfold ActiveInsertion.advanced
  rw [live]

theorem advanced_of_clip (body : (s.order x.order).body = some b) (cursor : x.cursor = some pos)
    (clip : cursorClip b pos = some (c, k)) : x.advanced s D e = { x with
      cursor := some (stepCursor s b pos)
      offset := if k = 0 then clipOffset D.pSlot (clipFirst s c) else x.offset
      entered := if k = 0 ∧ c ∉ x.entered then x.entered ++ [c] else x.entered } := by
  rw [advanced_of_clips, passPacket_of_clip body cursor clip]
  intro m mode lag live
  rw [body, Option.map_some, Option.some.injEq] at live
  rw [cursorClip_live live] at clip
  cases clip

/-- The rewrite of a packet of an insertion (Table 8-2). -/
theorem runAs_of_insertion (active : o.active = some x) (u : State) (cEst : Option Nat) :
    RunAs (runRewrite u r .insertion o) cEst x.offset (match (u.order x.order).body.map OrderBody.source with
      | some (.live _ _ _) => if x.offset.isSome then cEst else none
      | _ => cEst) := by
  unfold runRewrite
  dsimp only
  rw [active]
  dsimp only
  rcases (u.order x.order).body.map OrderBody.source with none | (⟨list, pad⟩ | ⟨m, mode, lag⟩)
  · exact ⟨rfl, rfl⟩
  · exact ⟨rfl, rfl⟩
  · exact ⟨rfl, rfl⟩

theorem shadowed_of_running (running : x.suspended = false) (s : State) (D : Decided) : x.shadowed s D = x :=
  if_neg fun h => absurd (running.symm.trans h.1) Bool.false_ne_true

theorem OnLane.shadowed_of_running (active : o.active = some x) (running : x.suspended = false) (s : State) (D : Decided) :
    o.shadowed s D = o := by
  unfold OnLane.shadowed
  rw [active, Option.map_some, Machine.shadowed_of_running running, ← active]

/-- Settles O32. -/
theorem insertionServesTheQueue : Obligations.InsertionServesTheQueue := by
  unfold Obligations.InsertionServesTheQueue
  intro d err s a l rest r o dec decs x e es deciding stack active waiting running more unmarked before queue p estimate
  have going : endingOf s (slotTime r o dec d err) x = none := endingOf_of_running unmarked before more
  obtain ⟨v, ⟨first, -⟩, ran⟩ := exec_of_serving deciding d err
    (fun y some_ => by cases active.symm.trans some_; exact going) (fun w some_ => by rw [waiting] at some_; cases some_)
  have cls : sourceClass v (o.takeDecision (decide1 r o dec d err)) (decide1 r o dec d err) = .insertion :=
    sourceClass_of_active (by rw [show (o.takeDecision (decide1 r o dec d err)).stack = [] from stack]; rfl) active running more
  have same : (o.takeDecision (decide1 r o dec d err)).shadowed v (decide1 r o dec d err) =
      o.takeDecision (decide1 r o dec d err) := OnLane.shadowed_of_running (o := o.takeDecision _) active running v _
  have pSlot : (decide1 r o dec d err).pSlot = p := decide1_pSlot
  have cEst : (decide1 r o dec d err).cEst = estimate := decide1_cEst
  have stale : (decide1 r o dec d err).stale = o.clock.isStale := rfl
  have data : (decide1 r o dec d err).data = d := rfl
  generalize decide1 r o dec d err = D at *
  have served := serveSlot_of_queue (r := r) first cls rfl nofun queue (noInterject_of_empty _ (by rw [same]; exact stack))
  have shadow := shadowStep_slotted first D
  rw [show ({ o.takeDecision D with active := _ } : OnLane) = o.takeDecision D from same] at shadow
  have out := fun off ref => queuedOut_of_served (a := a) (off := off) (ref := ref) served rfl data
  obtain ⟨u, -, done⟩ := served.taken
  generalize serveSlot l r D v = t at ran done out
  rw [same] at done out
  generalize shadowStep l D v = v₁ at shadow done out
  have order : (v₁.order x.order).body = (s.order x.order).body := congrArg Order.body (shadow.order x.order)
  have became : ((o.takeDecision D).taken v₁ r .insertion D e).active = some (x.servePacket v₁ D e) :=
    congrArg (Option.map (ActiveInsertion.servePacket v₁ D e)) active
  have kept := advanced_kept v₁ D e x
  have eq := servePacket_eq v₁ D e x
  have fields : (x.servePacket v₁ D e).served = x.served + 1 ∧ (x.servePacket v₁ D e).shadow = x.shadow ∧
      (x.servePacket v₁ D e).underrun = x.underrun ∧ (x.servePacket v₁ D e).order = x.order ∧
      (x.servePacket v₁ D e).ret = x.ret ∧ (x.servePacket v₁ D e).flags.fetchFault = (x.flags.fetchFault || e.fault) ∧
      (x.servePacket v₁ D e).flags.clockStale = (x.flags.clockStale || o.clock.isStale || p.isNone) := by
    rw [eq, kept, stale, pSlot]
    exact ⟨rfl, rfl, rfl, rfl, rfl, rfl, (Bool.or_assoc _ _ _).symm⟩
  obtain ⟨servedCount, shadowCount, underruns, itsOrder, ret, faults, clockStale⟩ := fields
  have clips : ∀ c, (v₁.clip c).body = (s.clip c).body := shadow.clipBody
  refine ⟨_, _, ran, (congrArg (Option.bind · OnLane.active) done.on).trans became, servedCount, shadowCount, underruns,
    itsOrder, ret, faults, clockStale, fun b pos body cursor clip => ?_, fun b pos c k cb body cursor clip cbody => ?_,
    fun b m mode lag rm om n body source other record on tap => ?_, ?_, done.orders, done.report,
    fun m other => done.elsewhere other, ?_⟩
  · obtain ⟨⟨c, k⟩, clip⟩ := Option.isSome_iff_exists.1 clip
    rw [eq, advanced_of_clip (order.trans body) cursor clip]
    exact congrArg some (stepCursor_congr clips b pos)
  · rw [eq, advanced_of_clip (order.trans body) cursor clip, clipFirst_of_body ((clips c).trans cbody), pSlot]
    exact ⟨rfl, rfl⟩
  · rw [eq, advanced_of_live (order.trans body) source]
    refine (tapOffset_of_tap ((congrArg Lane.record (shadow.elsewhere other)).trans record)
      ((congrArg Lane.on (shadow.elsewhere other)).trans on) tap).trans ?_
    rw [pSlot] <;> rfl
  · exact (congrArg (Option.map fun o => o.fetch.queue) done.on).trans (congrArg some (congrArg List.tail queue))
  · refine out _ _ rfl fun u _ orders => ?_
    have run := runAs_of_insertion (r := r) became u D.cEst
    rw [itsOrder, orders, cEst] at run
    exact ⟨run.offset, by rw [cEst]; exact run.clock⟩

end Sys2Proof.Machine
end

section
/-! PROOF. An OVERRIDE alert serves its clip, a suspended insertion in shadow (R87, R89, R125 to R129): O35. -/

namespace Sys2Proof.Machine

variable {s t u v w : State} {l m : LaneId} {ln : Lane} {r : LaneRecord} {o o' : OnLane} {a : Addr} {rest : List MemRead}
  {dec : Decision} {decs : List Decision} {d : Line} {err : Bool} {D : Decided} {cl : SourceClass} {al : Vector Alert 4}
  {q : QueueEntry} {qs : List QueueEntry} {e : StackEntry} {st : List StackEntry} {b : AlertBody}

/-! ## The effective alert (R125) -/

theorem effectiveEntry_of_found {z : StackEntry} (found : st.reverse.find? (fun y => isOverride s y.id) = some z) :
    effectiveEntry s st = some z := by
  unfold effectiveEntry
  rw [found]

theorem effectiveEntry_of_plain (plain : ∀ z, z ∈ st → isOverride s z.id = false) :
    effectiveEntry s st = st.getLast? := by
  have none : st.reverse.find? (fun y => isOverride s y.id) = none :=
    List.find?_eq_none.2 fun z isIn override => absurd ((plain z (List.mem_reverse.1 isIn)).symm.trans override) Bool.false_ne_true
  unfold effectiveEntry
  rw [none]

theorem found_iff : st.reverse.find? (fun y => isOverride s y.id) = some e ↔
    ∃ before after, st = before ++ e :: after ∧ isOverride s e.id = true ∧ ∀ z, z ∈ after → isOverride s z.id = false := by
  rw [List.find?_eq_some_iff_append]
  constructor
  · rintro ⟨override, as, bs, split_, plain⟩
    refine ⟨bs.reverse, as.reverse, ?_, override, fun z isIn => ?_⟩
    · have := congrArg List.reverse split_
      simpa using this
    · have := plain z (List.mem_reverse.1 isIn)
      simpa using this
  · rintro ⟨before, after, rfl, override, plain⟩
    exact ⟨override, after.reverse, before.reverse, by simp, fun z isIn => by
      simpa using plain z (List.mem_reverse.1 isIn)⟩

theorem effectiveEntry_eq_some_iff : effectiveEntry s st = some e ↔
    (∃ before after, st = before ++ e :: after ∧ isOverride s e.id = true ∧ ∀ z, z ∈ after → isOverride s z.id = false) ∨
    ∃ before, st = before ++ [e] ∧ ∀ z, z ∈ st → isOverride s z.id = false := by
  rw [← found_iff]
  cases found : st.reverse.find? (fun y => isOverride s y.id) with
  | some z =>
    rw [effectiveEntry_of_found found]
    refine ⟨.inl, fun h => h.resolve_right fun ⟨before, _, plain⟩ => ?_⟩
    have isIn := List.mem_reverse.1 (List.mem_of_find?_eq_some found)
    exact absurd ((plain z isIn).symm.trans (List.find?_some (p := fun y : StackEntry => isOverride s y.id) found)) Bool.false_ne_true
  | none =>
    have plain : ∀ z, z ∈ st → isOverride s z.id = false := fun z isIn =>
      Bool.eq_false_iff.2 (List.find?_eq_none.1 found z (List.mem_reverse.2 isIn))
    rw [effectiveEntry_of_plain plain, List.getLast?_eq_some_iff]
    exact ⟨fun ⟨before, last⟩ => .inr ⟨before, last, plain⟩,
      fun h => (h.resolve_left nofun).imp fun before last => last.1⟩

/-- The effective entry of a stack of which an entry has changed, no entry its alert. -/
theorem effectiveEntry_modEntry (s : State) (st : List StackEntry) (a : AlertId) (f : StackEntry → StackEntry)
    (ids : ∀ z, (f z).id = z.id) : effectiveEntry s (modEntry st a f) =
      (effectiveEntry s st).map fun z => if z.id = a then f z else z := by
  have same : ∀ z : StackEntry, (if z.id = a then f z else z).id = z.id := fun z => by
    split
    · exact ids z
    · rfl
  have found : (modEntry st a f).reverse.find? (fun y => isOverride s y.id) =
      (st.reverse.find? fun y => isOverride s y.id).map fun z => if z.id = a then f z else z := by
    unfold modEntry
    rw [← List.map_reverse, List.find?_map]
    refine congrArg (Option.map _) (congrArg (fun p => List.find? p st.reverse) (funext fun z => ?_))
    exact congrArg (isOverride s) (same z)
  have last : (modEntry st a f).getLast? = st.getLast?.map fun z => if z.id = a then f z else z := List.getLast?_map
  unfold effectiveEntry
  rw [found, last]
  cases st.reverse.find? fun y => isOverride s y.id <;> rfl

theorem effectiveEntry_congr (alerts : ∀ a, (t.alert a).body = (s.alert a).body) (st : List StackEntry) :
    effectiveEntry t st = effectiveEntry s st := by
  have override : ∀ a, isOverride t a = isOverride s a := fun a => by unfold isOverride; rw [alerts]
  unfold effectiveEntry
  simp only [override]

theorem isOverride_of_mode (body : (s.alert e.id).body = some b) (mode : b.mode = .override) : isOverride s e.id = true := by
  unfold isOverride
  rw [body]
  exact beq_iff_eq.2 mode

theorem overrideEffective_of_effective (effective : effectiveEntry s st = some e) :
    overrideEffective s st = isOverride s e.id := by
  unfold overrideEffective
  rw [effective]

theorem interjectLabel_of_override (body : (s.alert e.id).body = some b) (mode : b.mode = .override) :
    interjectLabel s e.id = none := by
  unfold interjectLabel
  rw [body, Option.map_some, mode]

/-- Under an OVERRIDE alert no interject packet is sent (R145). -/
theorem noInterject_of_override (effective : effectiveEntry w o.stack = some e) (body : (w.alert e.id).body = some b)
    (mode : b.mode = .override) : NoInterject w o := fun u alerts => by
  rw [effectiveEntry_congr alerts, effective, Option.bind_some]
  exact interjectLabel_of_override ((alerts e.id).trans body) mode

/-! ## The alert's packet (R127) -/

theorem stackEntry_servePacket_eq {c : ClipBody} (body : (s.alert e.id).body = some b) (clip : (s.clip b.clip).body = some c)
    (z : StackEntry) (same : z.id = e.id) : z.servePacket s D = { z with
      cursor := if z.cursor + 1 < c.length then z.cursor + 1 else 0
      offset := if z.cursor = 0 then D.pSlot.map fun u => u - c.first else z.offset } := by
  have its : alertClip s z.id = some b.clip := by
    unfold alertClip
    rw [same, body]
    rfl
  unfold StackEntry.servePacket
  rw [its]
  dsimp only
  rw [stepLoop, clipLength_of_body clip, clipFirst_of_body clip]
  rfl

theorem ownerServed_alert {o : OnLane} (effective : effectiveEntry s o.stack = some e) (r : LaneRecord) (q : QueueEntry) :
    o.taken s r .alert D q = { o with
      stack := modEntry o.stack e.id (StackEntry.servePacket s D), fetch := { o.fetch with queue := o.fetch.queue.tail } } := by
  have owner : ownerServed s r .alert D q o = { o with stack := modEntry o.stack e.id (StackEntry.servePacket s D) } := by
    unfold ownerServed
    dsimp only
    rw [effective]
  unfold OnLane.taken
  rw [owner]

/-! ## A suspended insertion in shadow (R87, R89) -/

theorem shadowed_of_suspended {x : ActiveInsertion} (suspended : x.suspended = true) (more : x.cursor ≠ some .exhausted)
    (s : State) (D : Decided) : x.shadowed s D = { x.passPacket s D.pSlot with
      shadow := x.shadow + 1
      flags := { x.flags with clockStale := x.flags.clockStale || (D.stale || D.pSlot.isNone) } } := by
  unfold ActiveInsertion.shadowed
  rw [if_pos ⟨suspended, more⟩]
  unfold ActiveInsertion.passShadow
  dsimp only
  rw [passPacket_kept]
  rfl

theorem alert_set (s : State) (z y : AlertId) (x : Alert) : (s.alerts.set z x)[y] = if y = z then x else s.alert y := by
  by_cases same : y = z
  · subst same
    rw [if_pos rfl]
    exact Vector.getElem_set_self _
  · rw [if_neg same]
    exact Vector.getElem_set_ne _ _ fun eq => same (Fin.ext eq.symm)

/-- Settles O35. -/
theorem overrideServesTheAlert : Obligations.OverrideServesTheAlert := by
  unfold Obligations.OverrideServesTheAlert
  refine ⟨fun s st e => effectiveEntry_eq_some_iff, ?_⟩
  intro d err s a l rest r o dec decs e b c deciding effective body mode clip p runOffset waits actives
  obtain ⟨v, ⟨first, -⟩, ran⟩ := exec_of_serving deciding d err
    (fun x active => endingOf_of_running (actives x active).2.1 (actives x active).2.2.1 (actives x active).2.2.2) waits
  have override := isOverride_of_mode body mode
  have effectiveV : effectiveEntry v o.stack = some e := (effectiveEntry_congr first.alerts _).trans effective
  have cls : sourceClass v (o.takeDecision (decide1 r o dec d err)) (decide1 r o dec d err) = .alert :=
    sourceClass_of_override ((overrideEffective_of_effective effectiveV).trans ((first.isOverride e.id).trans override))
  have pSlot : (decide1 r o dec d err).pSlot = p := decide1_pSlot
  have cEst : (decide1 r o dec d err).cEst = slotClock o dec d err := decide1_cEst
  have stale : (decide1 r o dec d err).stale = o.clock.isStale := rfl
  have data : (decide1 r o dec d err).data = d := rfl
  generalize decide1 r o dec d err = D at *
  have shadow := shadowStep_slotted first D
  have effective₁ : effectiveEntry (shadowStep l D v) o.stack = some e := (effectiveEntry_congr shadow.alerts _).trans effective
  have insertions : (o.active = none → o.active.map (ActiveInsertion.shadowed v D) = none) ∧
      ∀ x, o.active = some x → ∃ y, o.active.map (ActiveInsertion.shadowed v D) = some y ∧ y.shadow = x.shadow + 1 ∧
        y.served = x.served ∧ y.underrun = x.underrun ∧ y.suspended = true ∧ y.ret = x.ret ∧
        y.flags.clockStale = (x.flags.clockStale || o.clock.isStale || p.isNone) ∧
        ∀ ob pos, (s.order x.order).body = some ob → x.cursor = some pos → (cursorClip ob pos).isSome = true →
          y.cursor = some (stepCursor s ob pos) := by
    refine ⟨fun idle => by rw [idle]; rfl, fun x active => ⟨x.shadowed v D, by rw [active]; rfl, ?_⟩⟩
    obtain ⟨suspended, -, -, more⟩ := actives x active
    have kept := passPacket_kept v D.pSlot x
    rw [shadowed_of_suspended suspended more, stale, pSlot, ← Bool.or_assoc]
    rw [pSlot] at kept
    refine ⟨rfl, ?_, ?_, ?_, ?_, rfl, fun ob pos obody cursor some_ => ?_⟩
    · rw [kept]
    · rw [kept]
    · rw [kept]
      exact suspended
    · rw [kept]
    · obtain ⟨⟨c, k⟩, clipAt⟩ := Option.isSome_iff_exists.1 some_
      have passed := passPacket_of_clip (s := v) ((congrArg Order.body (first.order x.order)).trans obody) cursor clipAt p
      rw [passed]
      exact congrArg some (stepCursor_congr first.clipBody ob pos)
  cases queue : o.fetch.queue with
  | nil =>
    have done := serveSlot_of_starved (r := r) first cls rfl nofun queue (noInterject_of_override (e := e) effective body mode)
    rw [show countedAlerts (shadowStep l D v) .alert (o.takeDecision D).stack Alert.starved s.alerts = _ from
      countedAlerts_of_alert effective₁] at done
    generalize serveSlot l r D v = t at ran done
    refine ⟨_, _, ran, done.on, rfl, finishPacket_filler_away r D o.sel rfl, done.orders, done.report,
      fun m other => done.elsewhere other, fun z other => ?_, fun _ => ⟨fillerOut_of_finished done data a err, queue, rfl,
        finishPacket_filler_continuity r D o.sel rfl, ?_, ?_, ?_⟩, fun q qs some_ => (by cases some_), insertions.1, insertions.2⟩
    · exact (done.alert z).trans ((alert_set s e.id z _).trans (if_neg other))
    · exact (done.alert e.id).trans ((alert_set s e.id e.id _).trans (if_pos rfl))
    · refine (congrArg (fun z => Lane.count z .underrun) done.lane).trans ?_
      have same : (readLane err (s.lane l)).count .underrun = (s.lane l).count .underrun := count_readLane (by decide)
      exact (Lane.count_raise_self _ _).trans ((congrArg raise32 same).trans (Lane.count_raise_self _ _).symm)
    · exact (congrArg (fun z => Lane.flag z .underrun) done.lane).trans (Lane.flag_note_self _ _ _)
  | cons q qs =>
    have effectiveO : effectiveEntry (shadowStep l D v) ((o.takeDecision D).shadowed v D).stack = some e := effective₁
    have took := ownerServed_alert (D := D) effectiveO r q
    have moved : ∀ u : State, (∀ a, (u.alert a).body = (s.alert a).body) → effectiveEntry u
        (((o.takeDecision D).shadowed v D).taken (shadowStep l D v) r .alert D q).stack =
        some (e.servePacket (shadowStep l D v) D) := fun u alerts => by
      rw [took]
      refine (effectiveEntry_modEntry u o.stack e.id _ (stackEntry_servePacket_id _ D)).trans ?_
      rw [effectiveEntry_congr alerts, effective, Option.map_some, if_pos rfl]
    have id_ := stackEntry_servePacket_id (shadowStep l D v) D e
    have entry := fun z same => stackEntry_servePacket_eq (D := D) ((shadow.alerts e.id).trans body)
      ((shadow.clipBody b.clip).trans clip) z same
    have served := serveSlot_of_queue (r := r) first cls rfl nofun queue
      (noInterject_of_override (moved _ fun _ => rfl) (by rw [id_]; exact body) mode)
    have out := fun off ref => queuedOut_of_served (a := a) (off := off) (ref := ref) served rfl data
    obtain ⟨u, -, done⟩ := served.taken
    rw [show countedAlerts (shadowStep l D v) .alert (o.takeDecision D).stack (Alert.served1 q.fault) s.alerts = _ from
      countedAlerts_of_alert effective₁] at done
    generalize serveSlot l r D v = t at ran done out
    generalize shadowStep l D v = v₁ at *
    have stacked : (((o.takeDecision D).shadowed v D).taken v₁ r .alert D q).stack = o.stack.map (fun z => if z.id = e.id then
          { z with cursor := (if z.cursor + 1 < c.length then z.cursor + 1 else 0)
                   offset := (if z.cursor = 0 then p.map fun u => u - c.first else z.offset) } else z) := by
      rw [took]
      refine List.map_congr_left fun z _ => ?_
      split
      · next same => rw [entry z same, pSlot]
      · rfl
    have active : (((o.takeDecision D).shadowed v D).taken v₁ r .alert D q).active =
        o.active.map (ActiveInsertion.shadowed v D) := by rw [took]; rfl
    have fetched : (((o.takeDecision D).shadowed v D).taken v₁ r .alert D q).fetch.queue = qs := by
      rw [took]
      exact congrArg List.tail queue
    have continuity : (((o.takeDecision D).shadowed v D).taken v₁ r .alert D q).sel.continuity = o.sel.continuity := by
      rw [took]
      rfl
    have itsOffset : (e.servePacket v₁ D).offset = runOffset := by rw [entry e rfl, pSlot]
    generalize ((o.takeDecision D).shadowed v D).taken v₁ r .alert D q = o₂ at *
    refine ⟨_, _, ran, done.on, rfl, finishPacket_away r D _ rfl (preparedOut_cases _ _ _ _ _ _), done.orders, done.report,
      fun m other => done.elsewhere other, fun z other => ?_, fun some_ => (by cases some_), fun q' qs' some_ => ?_,
      fun idle => active.trans (insertions.1 idle), fun x some_ => active ▸ insertions.2 x some_⟩
    · exact (done.alert z).trans ((alert_set s e.id z _).trans (if_neg other))
    · cases some_
      refine ⟨out _ _ continuity fun u alerts _ => ⟨?_, cEst⟩, fetched, stacked, ?_, ?_⟩
      · exact (congrArg (Option.bind · StackEntry.offset) (moved u alerts)).trans itsOffset
      · exact (done.alert e.id).trans ((alert_set s e.id e.id _).trans (if_pos rfl))
      · refine (congrArg (fun z => Lane.count z .fetchFault) done.lane).trans ?_
        refine (count_preparedLane u r .alert _ (by decide) (by decide)).trans (count_takenLane_fault.trans ?_)
        have same : (readLane err (s.lane l)).count .fetchFault = (s.lane l).count .fetchFault := count_readLane (by decide)
        rw [Lane.count_raise_self, Lane.count_raise_self, same]

end Sys2Proof.Machine
end

section
/-! PROOF. A slot served after its insertion steps (R63 to R65, R83 to R90): what the service leaves of the judgement of the fetch
source, and the endings of O33. -/

namespace Sys2Proof.Machine

variable {s t u v w : State} {l m : LaneId} {ln ln' : Lane} {r : LaneRecord} {o o' o₁ o₂ : OnLane} {a : Addr}
  {rest : List MemRead} {dec : Decision} {decs : List Decision} {d : Line} {err : Bool} {D : Decided} {cl : SourceClass}
  {al : Vector Alert 4} {x : ActiveInsertion} {b : OrderBody}

/-! ## The judgement after the slot is served -/

/-- The alert of the effective entry is read from the alerts of the stack alone. -/
theorem effectiveEntry_id (s : State) (st : List StackEntry) : (effectiveEntry s st).map StackEntry.id =
    match (st.map StackEntry.id).reverse.find? (isOverride s) with
    | some a => some a
    | none => (st.map StackEntry.id).getLast? := by
  have found : (st.map StackEntry.id).reverse.find? (isOverride s) =
      (st.reverse.find? fun e => isOverride s e.id).map StackEntry.id := by
    rw [← List.map_reverse, List.find?_map]
    rfl
  rw [found, List.getLast?_map]
  unfold effectiveEntry
  cases st.reverse.find? fun e => isOverride s e.id <;> rfl

theorem effectiveEntry_id_congr {st st' : List StackEntry} (ids : st'.map StackEntry.id = st.map StackEntry.id) :
    (effectiveEntry s st').map StackEntry.id = (effectiveEntry s st).map StackEntry.id := by
  rw [effectiveEntry_id, effectiveEntry_id, ids]

theorem active_of_identity (identity : o'.active.map ActiveInsertion.identity = o.active.map ActiveInsertion.identity) :
    (o'.active.filter fun a => !a.suspended).map ActiveInsertion.order =
      (o.active.filter fun a => !a.suspended).map ActiveInsertion.order := by
  cases before : o.active with
  | none =>
    rw [before, Option.map_none, Option.map_eq_none_iff] at identity
    rw [identity]
  | some x =>
    rw [before, Option.map_some, Option.map_eq_some_iff] at identity
    obtain ⟨y, after, same⟩ := identity
    have suspended : y.suspended = x.suspended := (congrArg ActiveInsertion.suspended same :)
    have order : y.order = x.order := (congrArg ActiveInsertion.order same :)
    rw [after, Option.filter_some, Option.filter_some, suspended]
    cases x.suspended with
    | true => rfl
    | false => exact congrArg some order

theorem wantedSource_eq (s : State) (r : LaneRecord) (o : OnLane) : wantedSource s r o =
    match (effectiveEntry s o.stack).map StackEntry.id with
    | some a => if isOverride s a then some (.alert a) else wantedSource.wantedBelow s r o
    | none => wantedSource.wantedBelow s r o := by
  unfold wantedSource
  cases effectiveEntry s o.stack <;> rfl

theorem wantedBelow_eq (s : State) (r : LaneRecord) (o : OnLane) : wantedSource.wantedBelow s r o =
    match (o.active.filter fun a => !a.suspended).map ActiveInsertion.order with
    | some i => some (.insertion i)
    | none =>
      if o.feed.state ≠ .live then (if r.lossSource = .filler then none else some .loss)
      else o.waiting.bind fun w =>
        match (s.order w.order).body.map OrderBody.source with
        | some (.clips _ _) => some (.insertion w.order)
        | _ => none := by
  unfold wantedSource.wantedBelow
  cases o.active.filter fun a => !a.suspended with
  | some x => rfl
  | none =>
    dsimp only [Option.map_none]
    split
    · rfl
    · cases o.waiting <;> rfl

/-- A slot served leaves the source that its lane calls for. -/
theorem SlotKept.wantedSource (kept : SlotKept ln o ln' o') (t : State) (r : LaneRecord) :
    wantedSource t r o' = wantedSource t r o := by
  rw [wantedSource_eq, wantedSource_eq, wantedBelow_eq, wantedBelow_eq, effectiveEntry_id_congr kept.ids,
    active_of_identity kept.identity, kept.feed, kept.waiting]

theorem placeCursor_of_active (active : o'.active.map (fun x => (x.order, x.cursor)) = o.active.map fun x => (x.order, x.cursor)) :
    placeCursor t r o' = placeCursor t r o := by
  have place : ∀ i, (o'.active.filter fun a => a.order == i).bind ActiveInsertion.cursor =
      (o.active.filter fun a => a.order == i).bind ActiveInsertion.cursor := fun i => by
    cases before : o.active with
    | none =>
      rw [before, Option.map_none, Option.map_eq_none_iff] at active
      rw [active]
    | some x =>
      rw [before, Option.map_some, Option.map_eq_some_iff] at active
      obtain ⟨y, after, same⟩ := active
      have order : y.order = x.order := (congrArg Prod.fst same :)
      have cursor : y.cursor = x.cursor := (congrArg Prod.snd same :)
      rw [after, Option.filter_some, Option.filter_some, order]
      split
      · exact cursor
      · rfl
  funext i
  unfold placeCursor
  simp only [place]

theorem Slotted.agree_kept (served : Slotted w t l ln o₂ al) (on : (w.lane l).on = some o₁) (kept : SlotKept (w.lane l) o₁ ln o₂) :
    Agree w t :=
  served.agree on kept.record (by rw [kept.track]) (by rw [kept.track])

theorem FetchSourceIs.served (judged : FetchSourceIs w r o₁) (agree : Agree w t) (kept : SlotKept ln o₁ ln' o₂) :
    FetchSourceIs t r o₂ := by
  rw [fetchSourceIs_iff] at judged ⊢
  rw [kept.source, judged, kept.wantedSource, agree.wantedSource]

/-- A judgement of the fetch source, its slot served after it. -/
theorem SourceJudged.served {ln₀ : Lane} (judged : SourceJudged w r ln₀ o (w.lane l) o₁)
    (served : Slotted w t l ln o₂ al) (on : (w.lane l).on = some o₁) (kept : SlotKept (w.lane l) o₁ ln o₂)
    (place : o₁.fetch.queue = [] →
      o₂.active.map (fun x => (x.order, x.cursor)) = o₁.active.map fun x => (x.order, x.cursor)) :
    SourceJudgedOnce t r ln₀ o (t.lane l) o₂ := by
  have agree := served.agree_kept on kept
  have gen : (t.lane l).queueGen = (w.lane l).queueGen := by
    rw [served.lane]
    exact kept.queueGen
  refine ⟨fun role => (judged.source role).served agree kept, ?_⟩
  have moved := judged.moved
  rw [kept.source, kept.cursor, gen]
  split at moved
  · next moves =>
    rw [if_pos moves]
    obtain ⟨queue, raised, -, cursor⟩ := moved
    refine ⟨kept.emptied queue, raised, cursor.trans ?_⟩
    have same : Machine.placeCursor t r o₂ = Machine.placeCursor w r o₁ :=
      (placeCursor_of_active (place queue)).trans (funext fun i => agree.placeCursor r o₁ i)
    rw [same]
  · next still =>
    rw [if_neg still]
    exact ⟨moved.2.1, moved.2.2.1, moved.2.2.2.1⟩

theorem SourceJudgedOnce.of_agree {ln₀ : Lane} (judged : SourceJudgedOnce t r ln₀ o ln' o') (agree : Agree t u) :
    SourceJudgedOnce u r ln₀ o ln' o' := by
  have place : Machine.placeCursor u r o' = Machine.placeCursor t r o' := funext fun i => agree.placeCursor r o' i
  refine ⟨fun role => ?_, ?_⟩
  · rw [fetchSourceIs_iff, agree.wantedSource]
    exact fetchSourceIs_iff.1 (judged.source role)
  · rw [place]
    exact judged.moved

theorem agree_release (t : State) (a : Addr) (x : Line) (err : Bool) : Agree t (release a x err t) := .of_tables rfl rfl rfl

theorem overrideEffective_congr (alerts : ∀ a, (t.alert a).body = (s.alert a).body) (st : List StackEntry) :
    overrideEffective t st = overrideEffective s st := by
  have override : ∀ a, isOverride t a = isOverride s a := fun a => by unfold isOverride; rw [alerts]
  unfold overrideEffective
  rw [effectiveEntry_congr alerts]
  simp only [override]

/-! ## The first stage and the tables -/

theorem queueGen_readLane : (readLane err ln).queueGen = ln.queueGen := by
  unfold readLane
  split <;> rfl

theorem FirstStage.queueGen (first : FirstStage s v l r o D err rest) : (v.lane l).queueGen = (s.lane l).queueGen := by
  rw [first.slotted.lane]
  exact queueGen_readLane

theorem FirstStage.clip (first : FirstStage s v l r o D err rest) (c : ClipId) : v.clip c = s.clip c := by
  unfold State.clip
  rw [first.clips]

theorem FirstStage.ms (first : FirstStage s v l r o D err rest) : v.stationMs = s.stationMs := by
  obtain ⟨cl, same⟩ := first.slotted.state
  exact (congrArg State.stationMs same :)

theorem firstClipOf_congr {i : OrderId} (order : (t.order i).body = (s.order i).body) : firstClipOf t i = firstClipOf s i := by
  unfold firstClipOf
  rw [order]

/-- The record of an ended insertion is read from its order, the clips and the clock. -/
theorem endedRecord_congr (order : (t.order x.order).body = (s.order x.order).body) (clips : ∀ c, (t.clip c).disturbed = (s.clip c).disturbed)
    (ms : t.stationMs = s.stationMs) (kind : RecordKind) (out : Stamp) :
    endedRecord t l x kind out = endedRecord s l x kind out := by
  unfold endedRecord
  rw [firstClipOf_congr order, ms]
  simp only [clips]

theorem heldClips_congr {i : OrderId} (order : (t.order i).body = (s.order i).body) :
    heldClips t (some i) = heldClips s (some i) := by
  unfold heldClips
  rw [Option.bind_some, Option.bind_some, order]

/-- The class of a slot of a lane whose insertion, if any, is not in service. -/
theorem sourceClass_of_none (s : State) (D : Decided) (idle : o.active = none) : sourceClass s o D =
    if overrideEffective s o.stack then .alert else if o.feed.state ≠ .live then .loss
    else if D.fresh = true ∧ ¬ D.err = true then .network else .filler := by
  split
  · next override => exact sourceClass_of_override override
  · next plain =>
    exact sourceClass_of_idle (Bool.eq_false_iff.2 plain) fun x some_ => by rw [idle] at some_; cases some_

theorem identity_none (identity : o'.active.map ActiveInsertion.identity = o.active.map ActiveInsertion.identity)
    (idle : o.active = none) : o'.active = none := by
  rw [idle, Option.map_none, Option.map_eq_none_iff] at identity
  exact identity

/-! ## O33 -/

theorem fullyServed_iff : x.fullyServed = true ↔ (∃ k, x.cursor = some (.pad k)) ∨ x.cursor = some .exhausted := by
  unfold ActiveInsertion.fullyServed
  cases cursor : x.cursor with
  | none => simp
  | some pos => cases pos <;> simp

theorem endingOf_of_aborted (p : Option Stamp) (marked : (s.order x.order).abort = true) :
    endingOf s p x = some .insertAborted := if_pos marked

theorem endingOf_of_reached {p : Option Stamp} (unmarked : (s.order x.order).abort = false) (due : Reached p x.ret) :
    endingOf s p x = some (returnKind x) := by
  unfold endingOf
  rw [if_neg (Bool.eq_false_iff.1 unmarked), if_pos (reached_iff.2 due)]

theorem endingOf_of_exhausted {p : Option Stamp} (unmarked : (s.order x.order).abort = false) (before : ¬ Reached p x.ret)
    (done : x.cursor = some .exhausted) : endingOf s p x = some .insertShort := by
  unfold endingOf
  rw [if_neg (Bool.eq_false_iff.1 unmarked), if_neg fun due => before (reached_iff.1 due), if_pos done]

theorem returnKind_of_complete (complete : x.cursor = none ∨ (∃ k, x.cursor = some (.pad k)) ∨ x.cursor = some .exhausted) :
    returnKind x = .insertComplete := by
  refine if_pos ?_
  rcases complete with none | done
  · exact .inl (by rw [none]; rfl)
  · exact .inr (fullyServed_iff.2 done)

theorem returnKind_of_truncated (some_ : x.cursor ≠ none)
    (part : ¬ ((∃ k, x.cursor = some (.pad k)) ∨ x.cursor = some .exhausted)) : returnKind x = .insertTruncated := by
  refine if_neg fun h => ?_
  rcases h with none | done
  · exact some_ (Option.isNone_iff_eq_none.1 none)
  · exact part (fullyServed_iff.1 done)

/-- Settles O33. -/
theorem insertionEndsByItsCause : Obligations.InsertionEndsByItsCause := by
  unfold Obligations.InsertionEndsByItsCause
  intro d err s a l rest r o dec decs x b deciding active body p waits aborted servedAll ends
  obtain ⟨v, first, ran⟩ := exec_of_deciding deciding d err
  have record := deciding.record
  have pSlot : (decide1 r o dec d err).pSlot = p := decide1_pSlot
  have cases_ : (decide1 r o dec d err).fresh = dec.fresh ∧ (decide1 r o dec d err).err = err := ⟨rfl, rfl⟩
  obtain ⟨kind, ending, kinds⟩ : ∃ kind, endingOf v p x = some kind ∧ (aborted → kind = .insertAborted) ∧
      (¬ aborted → Reached p x.ret →
        (x.cursor = none ∨ servedAll → kind = .insertComplete) ∧ (x.cursor ≠ none → ¬ servedAll → kind = .insertTruncated)) ∧
      (¬ aborted → ¬ Reached p x.ret → kind = .insertShort) := by
    rw [endingOf_congr first.slotted.order]
    by_cases marked : aborted
    · exact ⟨_, endingOf_of_aborted p marked, fun _ => rfl, fun not => absurd marked not, fun not => absurd marked not⟩
    · have unmarked : (s.order x.order).abort = false := Bool.eq_false_iff.2 marked
      by_cases due : Reached p x.ret
      · exact ⟨_, endingOf_of_reached unmarked due, fun yes => absurd yes marked,
          fun _ _ => ⟨returnKind_of_complete, returnKind_of_truncated⟩, fun _ not => absurd due not⟩
      · have done : x.cursor = some .exhausted := (ends.resolve_left marked).resolve_left due
        exact ⟨_, endingOf_of_exhausted unmarked due done, fun yes => absurd yes marked, fun _ yes => absurd yes due,
          fun _ _ => rfl⟩
  generalize decide1 r o dec d err = D at *
  obtain ⟨u, o₁, move, j⟩ := endInsertion_judgement (l := l) (s := v) x kind p first.slotted.on
  have steps : insertionSteps l D.pSlot v = endInsertion l x kind p v := by
    unfold insertionSteps
    rw [pSlot, endingStep_of_some first.slotted.on active ending]
    exact spliceStep_of_waiting j.on fun w waiting => waits w (j.kept.waiting.symm.trans waiting)
  obtain ⟨ln₂, o₂, al, copy, served, kept, cls, -⟩ := serveSlot_slotted (Slotted.refl j.on) r D
  unfold slotServed at ran
  rw [steps] at ran
  generalize endInsertion l x kind p v = w at j ran served kept cls
  generalize serveSlot l r D w = t at ran served
  have gone : o₁.active = none := j.kept.active
  have lane : u.lane l = v.lane l := move.lane l
  have recorded : (u.lane l).record = some r := by
    rw [lane, first.slotted.record, record_readLane]
    exact record
  have order : ∀ i, v.order i = s.order i := first.slotted.order
  refine ⟨_, o₂, kind, ran, served.on, identity_none kept.identity gone, ?_, ⟨?_, fun c => ?_, ?_⟩, kinds.1, kinds.2.1, kinds.2.2,
    ?_, ?_, fun i other => ?_, fun m other => ?_⟩
  · exact kept.waiting.trans j.kept.waiting
  · exact (served.order _).trans ((j.order _).trans (move.order.trans (congrArg leftActive (order _))))
  · refine (served.locks c).trans ?_
    rw [j.clip, move.clips]
    change (if c ∈ heldClips v (some x.order) then (v.clip c).locks - 1 else (v.clip c).locks) = _
    rw [heldClips_congr (congrArg Order.body (order x.order)), heldClips_of_body body, first.clip]
  · refine served.report.trans (j.report.trans (move.report.trans ?_))
    rw [State.handOver_report, endedRecord_congr (congrArg Order.body (order x.order)) (fun c => by rw [first.clip]) first.ms,
      first.slotted.report]
  · rw [cls, sourceClass_of_none w D gone, j.kept.stack, j.kept.feed, cases_.1, cases_.2]
    have override : overrideEffective w o.stack = overrideEffective s o.stack :=
      overrideEffective_congr (fun a => (congrArg Alert.body (j.alert a)).trans
        ((congrArg (fun z : Vector Alert 4 => z[a].body) move.alerts).trans (first.slotted.alerts a))) _
    rw [show (o.takeDecision D).stack = o.stack from rfl, override]
    simp only [Bool.not_eq_true]
    rfl
  · have judged := j.judged w r j.tables recorded
    rw [lane] at judged
    have before := judged.of_before (ln₀ := s.lane l) (o₀ := o) first.queueGen rfl rfl rfl rfl
    refine (before.served served j.on kept fun _ => ?_).of_agree (agree_release t a _ err)
    rw [gone, identity_none kept.identity gone]
  · exact (served.order i).trans ((j.order i).trans ((move.others i other).trans (order i)))
  · exact (served.elsewhere other).trans ((j.elsewhere other).trans ((move.lane m).trans (first.slotted.elsewhere other)))

end Sys2Proof.Machine
end

section
/-! PROOF. Splice-in and the slot served on it (R83 to R90): O31 and O34. -/

namespace Sys2Proof.Machine

variable {s t u v w : State} {l m : LaneId} {ln ln' : Lane} {r : LaneRecord} {o o' o₁ o₂ : OnLane} {a : Addr}
  {rest : List MemRead} {dec : Decision} {decs : List Decision} {d : Line} {err : Bool} {D : Decided} {cl : SourceClass}
  {al al' : Vector Alert 4} {x y : ActiveInsertion} {b : OrderBody} {q : WaitingCue} {p : Stamp}

/-! ## The slot an insertion stands under (R87) -/

/-- The insertion `y` is `x` with one slot counted, stale or not. -/
structure SlotCounted (x y : ActiveInsertion) (stale : Bool) : Prop where
  slots : y.served + y.shadow + y.underrun = x.served + x.shadow + x.underrun + 1
  shadow : x.suspended = false → y.shadow = x.shadow
  clockStale : y.flags.clockStale = (x.flags.clockStale || stale)
  identity : y.identity = x.identity

theorem slotCounted_shadowed (suspended : x.suspended = true) (more : x.cursor ≠ some .exhausted) (s : State) (D : Decided) :
    SlotCounted x (x.shadowed s D) (D.stale || D.pSlot.isNone) := by
  refine ⟨?_, fun running => absurd (running.symm.trans suspended) Bool.false_ne_true, ?_, identity_shadowed s D x⟩
  · rw [shadowed_of_suspended suspended more, passPacket_kept]
    dsimp only
    omega
  · rw [shadowed_of_suspended suspended more]

theorem slotCounted_served (s : State) (D : Decided) (e : QueueEntry) (x : ActiveInsertion) :
    SlotCounted x (x.servePacket s D e) (D.stale || D.pSlot.isNone) := by
  refine ⟨?_, fun _ => ?_, ?_, identity_servePacket s D e x⟩
  · rw [servePacket_eq, advanced_kept]
    dsimp only
    omega
  · rw [servePacket_eq, advanced_kept]
  · rw [servePacket_eq, advanced_kept]

theorem slotCounted_starved (stale : Bool) (x : ActiveInsertion) : SlotCounted x (x.countUnderrun stale) stale :=
  ⟨rfl, fun _ => rfl, rfl, rfl⟩

theorem taken_alert_active (s : State) (r : LaneRecord) (D : Decided) (e : QueueEntry) (o : OnLane) :
    (o.taken s r .alert D e).active = o.active := by
  unfold OnLane.taken ownerServed
  dsimp only
  split <;> rfl

/-- The slot served leaves the lane's insertions as the choice of its packet left them. -/
theorem serveSlot_active_of_chosen (before : Slotted w v l ln o al) (r : LaneRecord) (D : Decided)
    (chosen : Slotted w (chooseSource l r (sourceClass v o D) D (shadowStep l D v)).2 l ln' o₁ al')
    (after : ((serveSlot l r D v).lane l).on = some o') : o'.active = o₁.active := by
  obtain ⟨ln₂, o₂, al₂, placed, -, same⟩ := interjectStep_slotted chosen r D
    (chooseSource l r (sourceClass v o D) D (shadowStep l D v)).1
  rw [serveSlot_eq r D before.on, (placed.modOn _).on, Option.some.injEq] at after
  rw [← after]
  exact same

/-- The one slot of a lane's insertion, in service or in shadow (R87). -/
theorem serveSlot_counts (before : Slotted w v l ln o al) (active : o.active = some x) (more : x.cursor ≠ some .exhausted)
    (override : x.suspended = overrideEffective w o.stack) (r : LaneRecord) (D : Decided)
    (after : ((serveSlot l r D v).lane l).on = some o') : ∃ y, o'.active = some y ∧
      SlotCounted x y (D.stale || D.pSlot.isNone) ∧ (x.suspended = false → o.fetch.queue = [] → y.cursor = x.cursor) := by
  have shadow : Slotted w (shadowStep l D v) l ln (o.shadowed v D) al := shadowStep_slotted before D
  have shadowed : (o.shadowed v D).active = some (x.shadowed v D) := congrArg (Option.map (ActiveInsertion.shadowed v D)) active
  have effective := before.overrideEffective o.stack
  cases suspended : x.suspended with
  | true =>
    have cls : sourceClass v o D = .alert :=
      sourceClass_of_override (effective.trans (override.symm.trans suspended))
    have choice := chooseSource_of_queue D shadow.on (cl := .alert) (r := r) rfl nofun
    refine ⟨x.shadowed v D, ?_, slotCounted_shadowed suspended more v D, fun running => by cases running⟩
    cases queue : (o.shadowed v D).fetch.queue with
    | nil =>
      rw [queue] at choice
      have done := underrun_slotted shadow .alert D
      refine (serveSlot_active_of_chosen before r D (by rw [cls, choice]; exact done) after).trans shadowed
    | cons e es =>
      rw [queue] at choice
      have done := (prepareTaken_slotted (takeHead_slotted shadow r .alert D e) r .alert D e).2
      refine (serveSlot_active_of_chosen before r D (by rw [cls, choice]; exact done) after).trans ?_
      rw [taken_alert_active, shadowed]
  | false =>
    have same := OnLane.shadowed_of_running active suspended v D
    rw [same] at shadow
    have cls : sourceClass v o D = .insertion :=
      sourceClass_of_active (effective.trans (override.symm.trans suspended)) active suspended more
    have choice := chooseSource_of_queue D shadow.on (cl := .insertion) (r := r) rfl nofun
    cases queue : o.fetch.queue with
    | nil =>
      rw [queue] at choice
      have done := underrun_slotted shadow .insertion D
      refine ⟨x.countUnderrun (D.stale || D.pSlot.isNone), ?_, slotCounted_starved _ x, fun _ _ => rfl⟩
      refine (serveSlot_active_of_chosen before r D (by rw [cls, choice]; exact done) after).trans ?_
      exact congrArg (Option.map _) active
    | cons e es =>
      rw [queue] at choice
      have done := (prepareTaken_slotted (takeHead_slotted shadow r .insertion D e) r .insertion D e).2
      refine ⟨x.servePacket (shadowStep l D v) D e, ?_, slotCounted_served _ D e x, fun _ none => by cases none⟩
      refine (serveSlot_active_of_chosen before r D (by rw [cls, choice]; exact done) after).trans ?_
      exact congrArg (Option.map _) active

/-! ## Splice-in (R84) -/

theorem SourceJudgedOnce.of_before {ln₀ ln₁ : Lane} (judged : SourceJudgedOnce t r ln₀ o ln' o')
    (gen : ln₀.queueGen = ln₁.queueGen) (source : o.fetch.source = o₁.fetch.source) (cursor : o.fetch.cursor = o₁.fetch.cursor) :
    SourceJudgedOnce t r ln₁ o₁ ln' o' := by
  refine ⟨judged.source, ?_⟩
  rw [← gen, ← source, ← cursor]
  exact judged.moved

theorem splicedInsertion_cursor (body : (s.order q.order).body = some b) (some_ : ∀ pad, b.source ≠ .clips [] pad) (o : OnLane)
    (p : Stamp) : (splicedInsertion s o q p).cursor ≠ some .exhausted ∧
      ((splicedInsertion s o q p).cursor = none ↔ ∃ m mode lag, b.source = .live m mode lag) ∧
      ∀ k, (splicedInsertion s o q p).cursor ≠ some (.pad k) := by
  have source : (s.order q.order).body.map OrderBody.source = some b.source := by rw [body]; rfl
  unfold splicedInsertion
  dsimp only
  rw [source]
  cases kind : b.source with
  | live m mode lag => exact ⟨nofun, ⟨fun _ => ⟨m, mode, lag, rfl⟩, fun _ => rfl⟩, fun k => nofun⟩
  | clips list pad =>
    cases list with
    | nil => exact absurd kind (some_ pad)
    | cons c cs => exact ⟨nofun, ⟨nofun, nofun⟩, fun k => nofun⟩

theorem activate_body (s : State) (i j : OrderId) : ((s.modOrder i Order.activate).order j).body = (s.order j).body := by
  rw [State.order_modOrder]
  split
  · next same => rw [same]; rfl
  · rfl

theorem spliceSteps_of_open (on : (v.lane l).on = some o) (early : atOrAfter p q.ret = false) :
    spliceSteps l q p v = spliceIn l q p v := by
  obtain ⟨o₁, j⟩ := spliceIn_judgement q p on
  unfold spliceSteps
  rw [j.on, Option.bind_some, j.kept.active]
  exact if_neg (Bool.eq_false_iff.1 early)

theorem spliceSteps_of_reached (on : (v.lane l).on = some o) (due : atOrAfter p q.ret = true) : spliceSteps l q p v =
    endInsertion l (splicedInsertion (v.modOrder q.order Order.activate) o q p)
      (returnKind (splicedInsertion (v.modOrder q.order Order.activate) o q p)) (some p) (spliceIn l q p v) := by
  obtain ⟨o₁, j⟩ := spliceIn_judgement q p on
  unfold spliceSteps
  rw [j.on, Option.bind_some, j.kept.active]
  exact if_pos due

theorem insertionSteps_of_idle (on : (v.lane l).on = some o) (idle : o.active = none) (waiting : o.waiting = some q)
    (due : atOrAfter p q.splice = true) : insertionSteps l (some p) v = spliceSteps l q p v := by
  unfold insertionSteps
  rw [endingStep_of_none on fun x some_ => by rw [idle] at some_; cases some_]
  exact spliceStep_of_idle on waiting due idle

/-- What the identity of an insertion fixes. -/
theorem fields_of_identity (same : y.identity = x.identity) : y.order = x.order ∧ y.event = x.event ∧ y.kind = x.kind ∧
    y.splice = x.splice ∧ y.ret = x.ret ∧ y.timeIn = x.timeIn ∧ y.suspended = x.suspended ∧
    y.flags.interrupted = x.flags.interrupted ∧ y.flags.feedLostDuring = x.flags.feedLostDuring :=
  ⟨(congrArg ActiveInsertion.order same :), (congrArg ActiveInsertion.event same :), (congrArg ActiveInsertion.kind same :),
    (congrArg ActiveInsertion.splice same :), (congrArg ActiveInsertion.ret same :), (congrArg ActiveInsertion.timeIn same :),
    (congrArg ActiveInsertion.suspended same :), (congrArg (fun z => z.flags.interrupted) same :),
    (congrArg (fun z => z.flags.feedLostDuring) same :)⟩

/-- Lane `l`, of context `o` in `v`, has in `t` spliced in its waiting cue `q` on a slot of time `p`, and that slot served: the
insertion is `y`. -/
structure SplicedIn (v t : State) (l : LaneId) (r : LaneRecord) (o o₂ : OnLane) (q : WaitingCue) (p : Stamp)
    (y : ActiveInsertion) (stale : Bool) : Prop where
  on : (t.lane l).on = some o₂
  active : o₂.active = some y
  waiting : o₂.waiting = none
  ids : o₂.stack.map StackEntry.id = o.stack.map StackEntry.id
  order : y.order = q.order
  event : y.event = q.event
  kind : y.kind = q.kind
  splice : y.splice = q.splice
  ret : y.ret = q.ret
  timeIn : y.timeIn = p
  slots : y.served + y.shadow + y.underrun = 1
  suspended : y.suspended = overrideEffective v o.stack
  shadow : overrideEffective v o.stack = false → y.shadow = 0
  interrupted : y.flags.interrupted = overrideEffective v o.stack
  feedLost : y.flags.feedLostDuring = decide (o.feed.state ≠ .live)
  clockStale : y.flags.clockStale = stale
  activated : t.order q.order = (v.order q.order).activate
  others : ∀ i, i ≠ q.order → t.order i = v.order i
  locks : ∀ c, (t.clip c).locks = (v.clip c).locks
  report : t.report = v.report
  elsewhere : ∀ m, m ≠ l → t.lane m = v.lane m
  source : r.role = .output → FetchSourceIs t r o₂
  judged : overrideEffective v o.stack = false → SourceJudgedOnce t r (v.lane l) o (t.lane l) o₂

theorem spliceIn_served (on : (v.lane l).on = some o) (record : (v.lane l).record = some r)
    (body : (v.order q.order).body = some b) (some_ : ∀ pad, b.source ≠ .clips [] pad) (p : Stamp) (D : Decided) :
    ∃ o₂ y, SplicedIn v (serveSlot l r D (spliceIn l q p v)) l r o o₂ q p y (D.stale || D.pSlot.isNone) := by
  obtain ⟨o₁, j⟩ := spliceIn_judgement (l := l) (s := v) q p on
  obtain ⟨more, -, -⟩ := splicedInsertion_cursor ((activate_body v q.order q.order).trans body) some_ o p
  have override : overrideEffective (spliceIn l q p v) o₁.stack = overrideEffective v o.stack := by
    rw [j.kept.stack]
    exact overrideEffective_congr (fun a => congrArg Alert.body (j.alert a)) o.stack
  have running : (splicedInsertion (v.modOrder q.order Order.activate) o q p).suspended =
      overrideEffective (spliceIn l q p v) o₁.stack := override.symm
  have lost : (splicedInsertion (v.modOrder q.order Order.activate) o q p).flags.feedLostDuring =
      decide (o.feed.state ≠ .live) := by
    change (o.feed.state != .live) = _
    cases o.feed.state <;> rfl
  obtain ⟨ln₂, o₂, al, copy, served, kept, cls, -⟩ := serveSlot_slotted (Slotted.refl j.on) r D
  obtain ⟨y, active, counted, still⟩ := serveSlot_counts (Slotted.refl j.on) j.kept.active more running r D served.on
  obtain ⟨order, event, kind, splice, ret, timeIn, suspended, interrupted, feedLost⟩ := fields_of_identity counted.identity
  have once := (j.judged _ r j.tables record).of_before (ln₀ := v.lane l) (o₀ := o) rfl rfl rfl rfl rfl
  have shadow := counted.shadow
  rw [running, override] at shadow still
  refine ⟨o₂, y, served.on, active, kept.waiting.trans j.kept.waiting,
    kept.ids.trans (congrArg (List.map StackEntry.id) j.kept.stack), order, event, kind, splice, ret, timeIn, counted.slots,
    suspended.trans (running.trans override), shadow, interrupted.trans (running.trans override), feedLost.trans lost,
    counted.clockStale.trans (Bool.false_or _), ?_, fun i other => ?_, fun c => (served.locks c).trans (congrArg Clip.locks (j.clip c)),
    served.report.trans j.report, fun m other => (served.elsewhere other).trans (j.elsewhere other), fun role =>
      (once.source role).served (served.agree_kept j.on kept) kept, fun plain => once.served served j.on kept fun empty => ?_⟩
  · exact (served.order _).trans ((j.order q.order).trans (State.order_modOrder_self v q.order _))
  · exact (served.order i).trans ((j.order i).trans ((State.order_of_set (s := v) rfl i).trans (if_neg other)))
  · rw [active, j.kept.active]
    exact congrArg some (Prod.ext order (still plain empty))

theorem readLane_record (first : FirstStage s v l r o D err rest) : (v.lane l).record = (s.lane l).record := by
  rw [first.slotted.record, record_readLane]

/-- Settles O31. -/
theorem spliceInStartsTheInsertion : Obligations.SpliceInStartsTheInsertion := by
  unfold Obligations.SpliceInStartsTheInsertion
  intro d err s a l rest r o dec decs q b p deciding stack idle waiting body some_ time due early
  obtain ⟨v, first, ran⟩ := exec_of_deciding deciding d err
  have record := (readLane_record first).trans deciding.record
  have pSlot : (decide1 r o dec d err).pSlot = some p := decide1_pSlot.trans time
  have stale : (decide1 r o dec d err).stale = o.clock.isStale := rfl
  generalize decide1 r o dec d err = D at *
  have order : ∀ i, v.order i = s.order i := first.slotted.order
  have plain : overrideEffective v (o.takeDecision D).stack = false := by
    rw [show (o.takeDecision D).stack = [] from stack]
    rfl
  obtain ⟨o₂, y, is⟩ := spliceIn_served first.slotted.on record ((congrArg Order.body (order q.order)).trans body) some_ p D
  unfold slotServed at ran
  rw [pSlot, insertionSteps_of_idle first.slotted.on idle waiting due, spliceSteps_of_open first.slotted.on early] at ran
  have once := (is.judged plain).of_agree (agree_release _ a (copiedLine (serveSlot l r D (spliceIn l q p v)) l 0 d) err)
  have slots := is.slots
  have shadow := is.shadow plain
  have clockStale := is.clockStale
  rw [stale, pSlot] at clockStale
  generalize serveSlot l r D (spliceIn l q p v) = t at *
  refine ⟨_, y, ran, (congrArg (Option.bind · OnLane.active) is.on).trans is.active,
    (congrArg (Option.bind · OnLane.waiting) is.on).trans is.waiting, is.order, is.event, is.kind, is.splice, is.ret,
    is.timeIn, is.suspended.trans plain, shadow, by omega, is.interrupted.trans plain, is.feedLost,
    clockStale.trans (Bool.or_false _), is.activated.trans (congrArg Order.activate (order q.order)), fun i other => ?_, ?_,
    fun m other => ?_, o₂, is.on, ?_⟩
  · exact (is.others i other).trans (order i)
  · exact is.report.trans first.slotted.report
  · exact (is.elsewhere m other).trans (first.slotted.elsewhere other)
  · exact once.of_before first.queueGen rfl rfl

/-! ## A break that ends on its own splice slot (R83 step 3, R90) -/

theorem leftActive_activate (x : Order) (unmarked : x.abort = false) : leftActive x.activate = spentOnce x := by
  unfold leftActive Order.activate spentOnce
  dsimp only
  rw [unmarked, if_neg Bool.false_ne_true]
  cases x.unlimited with
  | true => rfl
  | false =>
    simp only [Bool.false_eq_true, false_or, if_false]
    split <;> rfl

theorem returnKind_spliced (body : (s.order q.order).body = some b) (some_ : ∀ pad, b.source ≠ .clips [] pad) (o : OnLane)
    (p : Stamp) : returnKind (splicedInsertion s o q p) = match b.source with
      | .live _ _ _ => .insertComplete
      | .clips _ _ => .insertTruncated := by
  obtain ⟨more, none, pads⟩ := splicedInsertion_cursor body some_ o p
  cases source : b.source with
  | live m mode lag => exact returnKind_of_complete (.inl (none.2 ⟨m, mode, lag, source⟩))
  | clips list pad =>
    refine returnKind_of_truncated (fun gone => ?_) fun done => ?_
    · obtain ⟨m, mode, lag, live⟩ := none.1 gone
      rw [source] at live
      cases live
    · rcases done with ⟨k, at_⟩ | done
      · exact pads k at_
      · exact more done

/-- The record of a break that ended on its own splice slot. -/
theorem endedRecord_spliced (body : (s.order q.order).body = some b) (some_ : ∀ pad, b.source ≠ .clips [] pad)
    (p : Stamp)
    (order : (t.order q.order).body = (s.order q.order).body) (ms : t.stationMs = s.stationMs) :
    endedRecord t l (splicedInsertion s o q p) (returnKind (splicedInsertion s o q p)) p = emptyBreakRecord s l o q b p := by
  unfold endedRecord emptyBreakRecord
  rw [returnKind_spliced body some_, ms, show (splicedInsertion s o q p).order = q.order from rfl, firstClipOf_congr order]
  have flags : ({ (splicedInsertion s o q p).flags with
      disturbed := (splicedInsertion s o q p).entered.any fun c => (t.clip c).disturbed } : Conditions).byte =
      BitVec.ofNat 8 ((if overrideEffective s o.stack then 1 else 0) + (if o.feed.state ≠ .live then 2 else 0)) := by
    unfold splicedInsertion
    dsimp only
    cases overrideEffective s o.stack <;> cases o.feed.state <;> rfl
  rw [flags]
  rfl

/-- Lane `l`, of context `o` in `v`, has in `w` spliced in its waiting cue `q`, of an order with fields `b`, and ended it on the
same slot, of time `p`. -/
structure EmptyBreak (v w : State) (l : LaneId) (r : LaneRecord) (o o₁ : OnLane) (q : WaitingCue) (b : OrderBody) (p : Stamp) :
    Prop where
  on : (w.lane l).on = some o₁
  active : o₁.active = none
  waiting : o₁.waiting = none
  order : w.order q.order = spentOnce (v.order q.order)
  others : ∀ i, i ≠ q.order → w.order i = v.order i
  locks : ∀ c, (w.clip c).locks = if c ∈ b.clips then (v.clip c).locks - 1 else (v.clip c).locks
  report : w.report = v.report.handOver (emptyBreakRecord v l o q b p)
  source : r.role = .output → FetchSourceIs w r o₁

theorem spliceSteps_empty (on : (v.lane l).on = some o) (record : (v.lane l).record = some r)
    (body : (v.order q.order).body = some b) (some_ : ∀ pad, b.source ≠ .clips [] pad)
    (unmarked : (v.order q.order).abort = false) (due : atOrAfter p q.ret = true) :
    ∃ o₁, EmptyBreak v (spliceSteps l q p v) l r o o₁ q b p := by
  obtain ⟨o₁, j⟩ := spliceIn_judgement (l := l) (s := v) q p on
  have activeBody := (activate_body v q.order q.order).trans body
  have order : (spliceIn l q p v).order q.order = (v.order q.order).activate :=
    (j.order q.order).trans (State.order_modOrder_self v q.order _)
  have recorded : ((spliceIn l q p v).lane l).record = some r := (congrArg Lane.record j.lane).trans record
  have ms : (spliceIn l q p v).stationMs = v.stationMs := by
    rw [j.state]
    rfl
  have override : overrideEffective (v.modOrder q.order Order.activate) o.stack = overrideEffective v o.stack :=
    overrideEffective_congr (fun _ => rfl) o.stack
  rw [spliceSteps_of_reached on due]
  obtain ⟨u, o₂, move, e⟩ := endInsertion_judgement (s := spliceIn l q p v)
    (splicedInsertion (v.modOrder q.order Order.activate) o q p)
    (returnKind (splicedInsertion (v.modOrder q.order Order.activate) o q p)) (some p) j.on
  have handed : endedRecord (spliceIn l q p v) l (splicedInsertion (v.modOrder q.order Order.activate) o q p)
      (returnKind (splicedInsertion (v.modOrder q.order Order.activate) o q p)) p = emptyBreakRecord v l o q b p := by
    rw [endedRecord_spliced activeBody some_ p (congrArg Order.body (j.order q.order)) ms]
    unfold emptyBreakRecord
    rw [override, firstClipOf_congr (activate_body v q.order q.order)]
    rfl
  have released : heldClips (spliceIn l q p v) (some q.order) = b.clips :=
    heldClips_of_body ((congrArg Order.body (j.order q.order)).trans activeBody)
  refine ⟨o₂, e.on, e.kept.active, e.kept.waiting.trans j.kept.waiting, ?_, fun i other => ?_, fun c => ?_, ?_, fun role => ?_⟩
  · refine (e.order q.order).trans (move.order.trans ?_)
    rw [show (splicedInsertion (v.modOrder q.order Order.activate) o q p).order = q.order from rfl, order]
    exact leftActive_activate _ unmarked
  · exact (e.order i).trans ((move.others i other).trans ((j.order i).trans
      ((State.order_of_set (s := v) rfl i).trans (if_neg other))))
  · refine (congrArg Clip.locks ((e.clip c).trans (move.clips c))).trans ?_
    change (if c ∈ heldClips (spliceIn l q p v) (some q.order) then ((spliceIn l q p v).clip c).locks - 1
      else ((spliceIn l q p v).clip c).locks) = _
    rw [released, j.clip]
    rfl
  · refine e.report.trans (move.report.trans ?_)
    rw [State.handOver_report, Option.getD_some, handed, j.report]
    rfl
  · exact (e.judged _ r e.tables (by rw [move.lane]; exact recorded)).source role

/-! ## O34 -/

/-- The insertion before a waiting cue that is reached ends by its own cause, or else by chaining (R83, R85). -/
theorem insertionSteps_of_active (on : (v.lane l).on = some o) (active : o.active = some x) (waiting : o.waiting = some q)
    (due : atOrAfter p q.splice = true) : ∃ kind, EndsAs v p x kind ∧
      insertionSteps l (some p) v = spliceSteps l q p (endInsertion l x kind (some p) v) := by
  have ended : ∀ kind, endingOf v (some p) x = some kind →
      insertionSteps l (some p) v = spliceSteps l q p (endInsertion l x kind (some p) v) := fun kind ends => by
    obtain ⟨u, o₁, move, j⟩ := endInsertion_judgement x kind (some p) on
    unfold insertionSteps
    rw [endingStep_of_some on active ends]
    exact spliceStep_of_idle j.on (j.kept.waiting.trans waiting) due j.kept.active
  have reaches : Reached (some p) x.ret ↔ atOrAfter p x.ret = true := ⟨fun ⟨_, same, after⟩ => by cases same; exact after,
    fun after => ⟨p, rfl, after⟩⟩
  by_cases marked : (v.order x.order).abort = true
  · refine ⟨_, ⟨fun _ => rfl, ?_, ?_, ?_⟩, ended _ (endingOf_of_aborted _ marked)⟩ <;>
      exact fun unmarked => absurd (marked.symm.trans unmarked) nofun
  · have unmarked := Bool.eq_false_iff.2 marked
    by_cases reached : atOrAfter p x.ret = true
    · refine ⟨_, ⟨fun yes => absurd yes marked, fun _ _ => ⟨returnKind_of_complete, fun some_ pads more =>
          returnKind_of_truncated some_ fun done => ?_⟩, ?_, ?_⟩, ended _ (endingOf_of_reached unmarked (reaches.2 reached))⟩
      · rcases done with ⟨k, pad⟩ | done
        · exact pads k pad
        · exact more done
      · exact fun _ early => absurd (reached.symm.trans early) nofun
      · exact fun _ early => absurd (reached.symm.trans early) nofun
    · have early : ¬ Reached (some p) x.ret := fun h => reached (reaches.1 h)
      by_cases done : x.cursor = some .exhausted
      · exact ⟨_, ⟨fun yes => absurd yes marked, fun _ yes => absurd yes reached, fun _ _ _ => rfl,
          fun _ _ more => absurd done more⟩, ended _ (endingOf_of_exhausted unmarked early done)⟩
      · refine ⟨chainKind x, ⟨fun yes => absurd yes marked, fun _ yes => absurd yes reached, fun _ _ yes => absurd yes done,
          fun _ _ _ => ⟨fun pad => if_pos (fullyServed_iff.2 (.inl pad)), fun pads => if_neg fun full => ?_⟩⟩, ?_⟩
        · rcases fullyServed_iff.1 full with ⟨k, pad⟩ | gone
          · exact pads k pad
          · exact done gone
        · unfold insertionSteps
          rw [endingStep_of_none on fun y some_ => by
            cases active.symm.trans some_
            exact endingOf_of_running unmarked early done]
          exact spliceStep_of_active on waiting due active

theorem EndsAs.congr {kind : RecordKind} (ends : EndsAs v p x kind) (order : v.order x.order = s.order x.order) :
    EndsAs s p x kind :=
  ⟨by rw [← order]; exact ends.aborted, by rw [← order]; exact ends.returned, by rw [← order]; exact ends.short,
    by rw [← order]; exact ends.chained⟩

/-- What the empty break's record reads. -/
theorem emptyBreakRecord_congr {o' : OnLane} (alerts : ∀ a, (t.alert a).body = (s.alert a).body) (stack : o'.stack = o.stack)
    (feed : o'.feed = o.feed) (order : (t.order q.order).body = (s.order q.order).body) (ms : t.stationMs = s.stationMs) :
    emptyBreakRecord t l o' q b p = emptyBreakRecord s l o q b p := by
  unfold emptyBreakRecord
  rw [overrideEffective_congr alerts, stack, feed, firstClipOf_congr order, ms]

end Sys2Proof.Machine
end

section
/-! PROOF. Chaining and zero-length breaks (R83, R85, R90): O34; taps and their source (R74 to R76): O19. -/

namespace Sys2Proof.Machine

variable {s t u v w : State} {l m : LaneId} {ln ln' : Lane} {r : LaneRecord} {o o' o₁ o₂ : OnLane} {a : Addr}
  {rest : List MemRead} {dec : Decision} {decs : List Decision} {d : Line} {err : Bool} {D : Decided}
  {x y : ActiveInsertion} {b : OrderBody} {q : WaitingCue} {p : Stamp}

theorem EmptyBreak.served (is : EmptyBreak v w l r o o₁ q b p) (D : Decided) :
    ∃ o₂, EmptyBreak v (serveSlot l r D w) l r o o₂ q b p := by
  obtain ⟨ln₂, o₂, al, copy, served, kept, -, -⟩ := serveSlot_slotted (Slotted.refl is.on) r D
  exact ⟨o₂, served.on, identity_none kept.identity is.active, kept.waiting.trans is.waiting,
    (served.order _).trans is.order, fun i other => (served.order i).trans (is.others i other),
    fun c => (served.locks c).trans (is.locks c), served.report.trans is.report, fun role =>
      (is.source role).served (served.agree_kept is.on kept) kept⟩

theorem FetchSourceIs.of_agree (is : FetchSourceIs t r o) (agree : Agree t u) : FetchSourceIs u r o := by
  rw [fetchSourceIs_iff, agree.wantedSource]
  exact fetchSourceIs_iff.1 is

/-- An insertion's end, as the state before the content part has it, right after the first stage. -/
structure EndedAt (s w : State) (l : LaneId) (r : LaneRecord) (o o₁ : OnLane) (x : ActiveInsertion) (b : OrderBody)
    (kind : RecordKind) (out : Stamp) : Prop where
  on : (w.lane l).on = some o₁
  record : (w.lane l).record = some r
  active : o₁.active = none
  waiting : o₁.waiting = o.waiting
  stack : o₁.stack = o.stack
  feed : o₁.feed = o.feed
  ended : InsertionEnded s w l x b kind out
  others : ∀ i, i ≠ x.order → w.order i = s.order i
  alerts : ∀ a, (w.alert a).body = (s.alert a).body
  ms : w.stationMs = s.stationMs

theorem endInsertion_endedAt (first : FirstStage s v l r o D err rest) (record : (s.lane l).record = some r)
    (body : (s.order x.order).body = some b) (kind : RecordKind) (out : Option Stamp) :
    ∃ o₁, EndedAt s (endInsertion l x kind out v) l r o o₁ x b kind (out.getD x.ret) := by
  obtain ⟨u, o₁, move, j⟩ := endInsertion_judgement (l := l) (s := v) x kind out first.slotted.on
  have order : ∀ i, v.order i = s.order i := first.slotted.order
  have lane : u.lane l = v.lane l := move.lane l
  have ms : u.stationMs = v.stationMs := by
    obtain ⟨_, _, same⟩ := move.rest
    rw [same]
    rfl
  have recorded : ((endInsertion l x kind out v).lane l).record = (u.lane l).record := (congrArg Lane.record j.lane :)
  refine ⟨o₁, j.on, ?_, j.kept.active, j.kept.waiting, j.kept.stack, j.kept.feed, ⟨?_, fun c => ?_, ?_⟩, fun i other => ?_,
    fun c => ?_, ?_⟩
  · rw [recorded, lane, readLane_record first]
    exact record
  · exact (j.order _).trans (move.order.trans (congrArg leftActive (order _)))
  · rw [j.clip, move.clips]
    change (if c ∈ heldClips v (some x.order) then (v.clip c).locks - 1 else (v.clip c).locks) = _
    rw [heldClips_congr (congrArg Order.body (order x.order)), heldClips_of_body body, first.clip]
  · refine j.report.trans (move.report.trans ?_)
    rw [State.handOver_report, endedRecord_congr (congrArg Order.body (order x.order)) (fun c => by rw [first.clip]) first.ms,
      first.slotted.report]
  · exact (j.order i).trans ((move.others i other).trans (order i))
  · exact (congrArg Alert.body (j.alert c)).trans
      ((congrArg (fun z : Vector Alert 4 => z[c].body) move.alerts).trans (first.slotted.alerts c))
  · rw [j.state]
    exact ms.trans first.ms

/-- Settles O34. -/
theorem chainingAndZeroLengthBreaks : Obligations.ChainingAndZeroLengthBreaks := by
  unfold Obligations.ChainingAndZeroLengthBreaks
  constructor
  · intro d err s a l rest r o dec decs x q b bw p deciding active body waiting apart bodyW some_ time due
    obtain ⟨v, first, ran⟩ := exec_of_deciding deciding d err
    have pSlot : (decide1 r o dec d err).pSlot = some p := decide1_pSlot.trans time
    generalize decide1 r o dec d err = D at *
    obtain ⟨kind, cause, steps⟩ := insertionSteps_of_active first.slotted.on active waiting due
    obtain ⟨o₁, was⟩ := endInsertion_endedAt first deciding.record body kind (some p)
    unfold slotServed at ran
    rw [pSlot, steps] at ran
    have ends : EndsAs s p x kind := cause.congr (first.slotted.order x.order)
    generalize endInsertion l x kind (some p) v = v₁ at *
    have order := was.others q.order apart
    have bodyW₁ : (v₁.order q.order).body = some bw := (congrArg Order.body order).trans bodyW
    have override : overrideEffective v₁ o₁.stack = overrideEffective s o.stack := by
      rw [was.stack]
      exact overrideEffective_congr was.alerts o.stack
    refine ⟨fun early => ?_, fun reached unmarked => ?_⟩
    · obtain ⟨o₂, y, is⟩ := spliceIn_served was.on was.record bodyW₁ some_ p D
      rw [spliceSteps_of_open was.on early] at ran
      generalize serveSlot l r D (spliceIn l q p v₁) = t at *
      refine ⟨_, y, kind, ran, (congrArg (Option.bind · OnLane.active) is.on).trans is.active,
        (congrArg (Option.bind · OnLane.waiting) is.on).trans is.waiting, is.order, is.event, is.splice, is.ret, is.timeIn,
        is.slots, is.suspended.trans override, is.interrupted.trans override, fun o' on role => ?_, ends, ⟨?_, fun c => ?_, ?_⟩,
        ?_, fun i notX notW => ?_⟩
      · cases is.on.symm.trans on
        exact (is.source role).of_agree (agree_release t a _ err)
      · exact (is.others x.order (Ne.symm apart)).trans was.ended.order
      · exact (is.locks c).trans (was.ended.locks c)
      · exact is.report.trans was.ended.report
      · exact is.activated.trans (congrArg Order.activate order)
      · exact (is.others i notW).trans (was.others i notX)
    · obtain ⟨o₂, empty⟩ := spliceSteps_empty was.on was.record bodyW₁ some_ ((congrArg Order.abort order).trans unmarked) reached
      obtain ⟨o₃, is⟩ := empty.served D
      generalize serveSlot l r D (spliceSteps l q p v₁) = t at *
      refine ⟨_, o₃, kind, ran, is.on, is.active, is.waiting, fun role => (is.source role).of_agree (agree_release t a _ err),
        ends, ?_, ?_, fun i notX notW => ?_, fun c => ?_, ?_⟩
      · exact (is.others x.order (Ne.symm apart)).trans was.ended.order
      · exact is.order.trans (congrArg spentOnce order)
      · exact (is.others i notW).trans (was.others i notX)
      · refine (is.locks c).trans ?_
        rw [was.ended.locks c]
        by_cases one : c ∈ b.clips <;> by_cases two : c ∈ bw.clips <;> simp [one, two]
      · refine is.report.trans ?_
        rw [was.ended.report, emptyBreakRecord_congr was.alerts was.stack was.feed (congrArg Order.body order) was.ms]
        rfl
  · intro d err s a l rest r o dec decs q b p deciding idle waiting body some_ time unmarked due reached
    obtain ⟨v, first, ran⟩ := exec_of_deciding deciding d err
    have pSlot : (decide1 r o dec d err).pSlot = some p := decide1_pSlot.trans time
    generalize decide1 r o dec d err = D at *
    have order : ∀ i, v.order i = s.order i := first.slotted.order
    unfold slotServed at ran
    rw [pSlot, insertionSteps_of_idle first.slotted.on idle waiting due] at ran
    obtain ⟨o₂, empty⟩ := spliceSteps_empty first.slotted.on ((readLane_record first).trans deciding.record)
      ((congrArg Order.body (order q.order)).trans body) some_ ((congrArg Order.abort (order q.order)).trans unmarked) reached
    obtain ⟨o₃, is⟩ := empty.served D
    generalize serveSlot l r D (spliceSteps l q p v) = t at *
    refine ⟨_, o₃, ran, is.on, is.active, is.waiting, fun role => (is.source role).of_agree (agree_release t a _ err),
      is.order.trans (congrArg spentOnce (order q.order)), fun i other => (is.others i other).trans (order i), fun c => ?_, ?_⟩
    · exact (is.locks c).trans (by rw [first.clip])
    · refine is.report.trans ?_
      rw [first.slotted.report, emptyBreakRecord_congr first.slotted.alerts (o' := o.takeDecision D) rfl rfl
        (congrArg Order.body (order q.order)) first.ms]
      rfl

/-! ## Taps (R74 to R76) -/

/-- A run over the taps of a lane does its step on a lane with a tap there, and no other step reaches it. -/
theorem forTaps_lane {quiet : Bool} {f : LaneId → Tap → State → State} (writes : TapWrites quiet f) {src : LaneId} {z : Tap}
    (on : (s.lane m).on = some o) (tap : o.tapOn src = some z) :
    ∃ u, Agree s u ∧ u.lane m = s.lane m ∧ (forTaps src f s).lane m = (f m z u).lane m := by
  obtain ⟨u, agree, before, after⟩ := (writes.run src s).each m (List.mem_finRange m)
  rw [tapStep_of_tap ((congrArg Lane.on before).trans on) tap] at after
  exact ⟨u, agree, before, after⟩

/-- The tap of lane `m` at an ingest of its source (R75). -/
theorem tapAdvance_lane {slots : Nat} {z : Tap} (on : (u.lane m).on = some o) (src : LaneId) :
    (z.pos = .waiting → (tapAdvance src slots m z u).lane m = u.lane m) ∧
    ∀ n b, z.pos = .placed n b → (tapAdvance src slots m z u).lane m =
      if slots - 8 ≤ b + 1 then
        { (u.lane m).note .slip .slip with
          queueGen := (u.lane m).queueGen + 1
          on := some { o with fetch := { o.fetch with queue := [], cursor := some (.tap (placeTap u src z.lag)) } } }
      else { u.lane m with
        on := some { o with fetch := { o.fetch with cursor := some (.tap { z with pos := .placed n (b + 1) }) } } } := by
  unfold tapAdvance
  refine ⟨fun waits => by rw [waits], fun n b place => ?_⟩
  rw [place]
  dsimp only
  split
  · obtain ⟨w, replaced⟩ := replaceTap_put on (placeTap u src z.lag)
    rw [replaced]
    unfold State.note
    rw [State.put_modLane, State.lane_put_self]
    rfl
  · rw [State.modOn_put on, State.lane_put_self]
    rfl

theorem tapsResync_lane {z : Tap} (on : (s.lane m).on = some o) (tap : o.tapOn l = some z) (k : Nat) :
    (tapsResync l k s).lane m = { s.lane m with
      queueGen := (s.lane m).queueGen + 1
      on := some { o with fetch := { o.fetch with
        queue := [], cursor := some (.tap { z with pos := .placed k 0, fresh := true }) } } } := by
  obtain ⟨u, -, before, after⟩ := forTaps_lane (tapsResync_writes k) on tap
  obtain ⟨w, replaced⟩ := replaceTap_put ((congrArg Lane.on before).trans on) { z with pos := .placed k 0, fresh := true }
  refine after.trans ?_
  rw [replaced, State.lane_put_self, before]

theorem tapsLost_lane {z : Tap} (on : (s.lane m).on = some o) (tap : o.tapOn l = some z) :
    (tapsLost l s).lane m = { s.lane m with
      on := some { o with fetch := { o.fetch with cursor := some (.tap { z with pos := .waiting }) } } } := by
  obtain ⟨u, -, before, after⟩ := forTaps_lane tapsLost_writes on tap
  refine after.trans ?_
  rw [State.modOn_put ((congrArg Lane.on before).trans on), State.lane_put_self, before]
  rfl

/-- The tap of lane `m` at a loss of sync of its source. -/
theorem loseSync_tap {z : Tap} (source : r.role = .source) (other : m ≠ l) (on : (s.lane m).on = some o)
    (tap : o.tapOn l = some z) : (loseSync l r s).lane m = { s.lane m with
      on := some { o with fetch := { o.fetch with cursor := some (.tap { z with pos := .waiting }) } } } := by
  have lane : ((s.modOn l fun o => { o with track := { o.track with ingest := .unsynchronised } }).note l
      .lostSync .lostSync).lane m = s.lane m := (State.lane_modLane_ne _ _ other).trans (State.lane_modOn_ne s _ other)
  unfold loseSync
  dsimp only
  rw [if_pos source, tapsLost_lane ((congrArg Lane.on lane).trans on) tap, lane]

/-- The tap of lane `m` at a write of its source's ring that is not the expected one. -/
theorem resyncStep_tap {z : Tap} {k line : Nat} {e : Enables} (source : r.role = .source) (other : m ≠ l)
    (on : (s.lane m).on = some o) (tap : o.tapOn l = some z) : (resyncStep l r k line d e s).lane m =
      if resynchronises line d e = true then { s.lane m with
        queueGen := (s.lane m).queueGen + 1
        on := some { o with fetch := { o.fetch with
          queue := [], cursor := some (.tap { z with pos := .placed k 0, fresh := true }) } } }
      else s.lane m := by
  unfold resyncStep
  split
  · have lane : (s.modOn l fun o => { o with track := o.track.resync r k d }).lane m = s.lane m := State.lane_modOn_ne s _ other
    dsimp only
    rw [tapsResync_lane ((congrArg Lane.on lane).trans on) tap, lane]
  · rfl

/-- Settles O19. -/
theorem tapsFollowTheirSource : Obligations.TapsFollowTheirSource := by
  unfold Obligations.TapsFollowTheirSource
  refine ⟨fun a d ff s l m i r o om x z done source other on tap home => ?_,
    fun a d e ff s l m k line r o om z ring unexpected source other on tap home => ?_, ?_⟩
  · intro next behind
    have tapOn : om.tapOn l = some z := tapOn_iff.2 ⟨tap, home⟩
    obtain ⟨ob, base⟩ := completedBase_based (r := r) done.ring.on i x
    obtain ⟨o', turn⟩ := slotEvents_turn (base.record.trans done.ring.record) base.on x ff (.inl source)
    have events := turn.keeps.elsewhere m other
    refine ⟨_, exec_of_completes done ff, ?_⟩
    have put : (completedAt l r i x o s).lane m = s.lane m := State.lane_put_ne s _ _ other
    have ran : completedBase l r i x o s = forTaps l (tapAdvance l r.slots) (completedAt l r i x o s) := if_pos source
    obtain ⟨u, agree, before, after⟩ := forTaps_lane (tapAdvance_writes l r.slots)
      ((congrArg Lane.on put).trans on) tapOn
    have lane : (forwardWrite a d (BitVec.allOnes 64) none (slotEvents l r x ff (completedBase l r i x o s))).lane m =
        (tapAdvance l r.slots m z u).lane m := events.trans ((congrArg (fun v => State.lane v m) ran).trans after)
    have was : u.lane m = s.lane m := before.trans put
    obtain ⟨waits, placed⟩ := tapAdvance_lane (slots := r.slots) (z := z) ((congrArg Lane.on was).trans on) l
    rw [lane, ← was]
    refine ⟨waits, fun n b place => (placed n b place).trans ?_⟩
    have self : (completedAt l r i x o s).lane l = { overrunLane r o (s.lane l) with
        on := some { o with track := o.track.completed r i x } } := State.lane_put_self _ _ _ _
    have home_ : placeTap u l z.lag = { z with pos := .placed ((next + r.slots - behind) % r.slots) behind, fresh := true } := by
      have recorded : ((completedAt l r i x o s).lane l).record = some r :=
        (congrArg Lane.record self).trans ((overrunLane_kept r o (s.lane l)).1.trans done.ring.record)
      rw [agree.placeTap, placeTap_of_on recorded (congrArg Lane.on self), completed_eq]
      have free : ¬ (r.role = .output ∧ 0 < o.track.lead) := fun h => nomatch source.symm.trans h.1
      dsimp only
      rw [if_neg free, ← home]
    rw [home_]
  · intro qualifies
    have tapOn : om.tapOn l = some z := tapOn_iff.2 ⟨tap, home⟩
    refine ⟨_, exec_ringWrite_of_ring ring d e ff, ?_⟩
    change (ringStep l k line d e ff s).lane m = _
    rw [ringStep_of_unexpected ring.record ring.on d ff unexpected]
    by_cases lost : o.track.ingest = .unsynchronised
    · rw [if_pos lost, resyncStep_tap source other on tapOn, if_neg (c := o.track.ingest ≠ _) (not_not.2 lost)]
      exact if_congr resynchronises_iff rfl rfl
    · have tapped := loseSync_tap source other on tapOn
      rw [if_neg lost, resyncStep_tap (o := { om with fetch := { om.fetch with
          cursor := some (.tap { z with pos := .waiting }) } }) (z := { z with pos := .waiting }) source other
        (congrArg Lane.on tapped) (tapOn_iff.2 ⟨rfl, home⟩), if_pos (c := o.track.ingest ≠ _) lost, tapped]
      exact if_congr resynchronises_iff rfl rfl
  · intro d err s a l src rest r rs o os dec decs q b mode lag deciding role stack idle waiting body live due early change other
      record on behind
    obtain ⟨v, first, ran⟩ := exec_of_deciding deciding d err
    obtain ⟨p, time, reached⟩ := due
    have pSlot : (decide1 r o dec d err).pSlot = some p := decide1_pSlot.trans time
    have open_ : atOrAfter p q.ret = false := by
      rw [← Bool.not_eq_true]
      exact fun past => early ⟨p, time, past⟩
    generalize decide1 r o dec d err = D at *
    have order : ∀ i, v.order i = s.order i := first.slotted.order
    have some_ : ∀ pad, b.source ≠ .clips [] pad := by rw [live]; exact nofun
    obtain ⟨o₂, y, is⟩ := spliceIn_served first.slotted.on ((readLane_record first).trans deciding.record)
      ((congrArg Order.body (order q.order)).trans body) some_ p D
    have plain : overrideEffective v (o.takeDecision D).stack = false := by
      rw [show (o.takeDecision D).stack = [] from stack]
      rfl
    unfold slotServed at ran
    rw [pSlot, insertionSteps_of_idle first.slotted.on idle waiting reached,
      spliceSteps_of_open first.slotted.on open_] at ran
    have once := (is.judged plain).of_before (ln₁ := s.lane l) (o₁ := o) first.queueGen rfl rfl
    generalize serveSlot l r D (spliceIn l q p v) = t at *
    have empty : o₂.stack = [] := List.map_eq_nil_iff.1 (is.ids.trans (congrArg (List.map _) stack))
    have now : o₂.fetch.source = some (.insertion q.order) := by
      refine ((is.source role).insertion ?_ y is.active (is.suspended.trans plain)).trans (congrArg _ (congrArg _ is.order))
      rw [empty]
      rfl
    have moved := once.moved
    rw [if_pos ⟨role, by rw [now]; exact fun same => change same.symm⟩] at moved
    obtain ⟨queue, gen, cursor⟩ := moved
    refine ⟨_, o₂, ran, is.on, queue, gen, now, ?_⟩
    have lane : t.lane src = s.lane src := (is.elsewhere src other).trans (first.slotted.elsewhere other)
    have fields : (t.order q.order).body = some b := by
      rw [is.activated, order]
      exact body
    rw [cursor, now, Option.bind_some]
    unfold placeCursor
    dsimp only
    rw [fields, Option.map_some, live]
    dsimp only
    rw [placeTap_of_on ((congrArg Lane.record lane).trans record) ((congrArg Lane.on lane).trans on)] <;> rfl

end Sys2Proof.Machine
end

section
/-! PROOF. The interject step on a lane that serves its network (R130 to R134, R150): O36. -/

namespace Sys2Proof.Machine

variable {s t u v w : State} {l m : LaneId} {ln : Lane} {r : LaneRecord} {o o₁ o' : OnLane} {a : Addr} {rest : List MemRead}
  {dec : Decision} {decs : List Decision} {d : Line} {err : Bool} {D : Decided} {cl : SourceClass} {al : Vector Alert 4}
  {q : QueueEntry} {qs : List QueueEntry} {e : StackEntry} {st : List StackEntry} {b : AlertBody} {lb : Label} {n : Nat}
  {out : Outgoing}

/-! ## An INTERJECT alert in effect (R125) -/

theorem isOverride_of_interject (body : (s.alert e.id).body = some b) (mode : b.mode = .interject lb n) :
    isOverride s e.id = false := by
  unfold isOverride
  rw [body]
  exact beq_eq_false_iff_ne.2 (by rw [mode]; exact nofun)

theorem interjectLabel_of_interject (body : (s.alert e.id).body = some b) (mode : b.mode = .interject lb n) :
    interjectLabel s e.id = some lb := by
  unfold interjectLabel
  rw [body, Option.map_some, mode]

theorem alertInterval_of_interject (body : (s.alert e.id).body = some b) (mode : b.mode = .interject lb n) :
    alertInterval s e.id = n := by
  unfold alertInterval
  rw [body, Option.map_some, mode]

/-! ## The packet of a lane that serves its network (R138) -/

/-- The class of a slot of a plain lane. -/
def plainClass (network : Prop) [Decidable network] : SourceClass := if network then .network else .filler

/-- The packet chosen for it. -/
def plainOut (network : Prop) [Decidable network] : Outgoing := if network then .network else .filler

variable {network : Prop} [Decidable network]

theorem chosenLabel_plain (D : Decided) : chosenLabel D (plainOut network) =
    (if network then packetLabel (line0Packet D.data) else fillerLabel,
      decide (network ∧ hasClockRef (line0Packet D.data) = true)) := by
  unfold plainOut
  split
  · next serves => simp [chosenLabel, serves]
  · next fills => simp [chosenLabel, fills]

/-- The slot of a lane with no insertion on a LIVE feed, no OVERRIDE alert in effect. -/
theorem serveSlot_of_idle (on : (v.lane l).on = some o) (plain : overrideEffective v o.stack = false) (active : o.active = none)
    (live : o.feed.state = .live) (r : LaneRecord) (serves : network ↔ D.fresh = true ∧ ¬ D.err = true) :
    serveSlot l r D v = (interjectStep l r D (plainOut network) v).2.modOn l
      (OnLane.finished r (plainClass network) D (interjectStep l r D (plainOut network) v).1) := by
  have cls : sourceClass v o D = plainClass network := by
    rw [sourceClass_of_idle plain (fun x some_ => by rw [active] at some_; cases some_), if_neg (not_not.2 live)]
    exact if_congr serves.symm rfl rfl
  have chosen : chooseSource l r (plainClass network) D v = (plainOut network, v) := by
    unfold plainClass plainOut
    split
    · exact chooseSource_of_plain D rfl
    · exact chooseSource_of_plain D rfl
  rw [serveSlot_eq r D on, shadowStep_of_idle on active D, cls, chosen]

theorem finishPacket_interject (r : LaneRecord) (D : Decided) (p : Packet) (x : Selector) :
    finishPacket r (plainClass network) D (.interject p) x =
      (replacedCopy D.data p, if network then x.returned else x) := by
  unfold finishPacket plainClass Selector.returned
  split
  · simp only [true_and]
  · rw [if_neg nofun]

theorem finishPacket_plain_away (r : LaneRecord) (D : Decided) (x : Selector) :
    (finishPacket r (plainClass network) D (plainOut network) x).2.away = if network then false else x.away := by
  unfold plainClass plainOut
  split
  · exact finishPacket_network_away r D x
  · rw [finishPacket_filler (cl := .filler) r D x nofun]
    exact Bool.or_false _

/-! ## Placement (R131, R132) -/

theorem placement_eq (r : LaneRecord) (D : Decided) (wait : Nat) (out : Outgoing) : placement r D wait out =
    if (chosenLabel D out).1 = fillerLabel then .replaces
    else if r.deadline ≤ wait ∧ ¬ (chosenLabel D out).2 = true ∧ r.cueLabel ≠ some (chosenLabel D out).1 then .displaces
    else .waits := rfl

/-- Where there is no room, the due packet waits. -/
theorem interjectStep_waits (on : (t.lane l).on = some o) (effective : effectiveEntry t o.stack = some e)
    (label : interjectLabel t e.id = some lb) (interval : alertInterval t e.id = n) (due : (e.pace n).due = true)
    (waits : o.fetch.interject = [] ∨ placement r D (e.pace n).wait out = .waits) :
    interjectStep l r D out t = (out, (t.modOn l (OnLane.paced n e)).modOn l (OnLane.waited e)) := by
  rw [interjectStep_of_some r D out on effective label, interval]
  dsimp only
  rw [if_pos due]
  rcases waits with empty | waits
  · rw [empty] <;> rfl
  · rw [waits]
    cases o.fetch.interject <;> rfl

/-- Where there is, it goes out. -/
theorem interjectStep_sends (on : (t.lane l).on = some o) (effective : effectiveEntry t o.stack = some e)
    (label : interjectLabel t e.id = some lb) (interval : alertInterval t e.id = n) (due : (e.pace n).due = true)
    (buffer : o.fetch.interject = q :: qs) {displaces : Bool}
    (room : placement r D (e.pace n).wait out = if displaces then .displaces else .replaces) :
    interjectStep l r D out t = sendInterject l r D lb (e.pace n) q displaces out (t.modOn l (OnLane.paced n e)) := by
  rw [interjectStep_of_some r D out on effective label, interval]
  dsimp only
  rw [if_pos due, buffer, room]
  cases displaces <;> rfl

/-! ## The entry on the stack -/

theorem modEntry_replaced (st : List StackEntry) {y : StackEntry} {z : AlertId} (id : y.id = z) (f : StackEntry → StackEntry) :
    modEntry (modEntry st z fun _ => y) z f = modEntry st z fun _ => f y := by
  unfold modEntry
  rw [List.map_map]
  refine List.map_congr_left fun x _ => ?_
  change (if (if x.id = z then y else x).id = z then f (if x.id = z then y else x) else if x.id = z then y else x) = _
  by_cases same : x.id = z
  · rw [if_pos same, if_pos id, if_pos same]
  · rw [if_neg same, if_neg same, if_neg same]

/-- What pacing leaves of an entry. -/
theorem pace_kept (n : Nat) (e : StackEntry) :
    (e.pace n).cursor = e.cursor ∧ (e.pace n).offset = e.offset ∧ (e.pace n).lastCount = e.lastCount := by
  unfold StackEntry.pace
  repeat' split
  all_goals exact ⟨rfl, rfl, rfl⟩

/-- The entry after packet `k` of a clip has gone out. -/
theorem send_of_clip {c : ClipId} {k : Nat} {cb : ClipBody} (origin : q.origin = .clip c k) (body : (s.clip c).body = some cb)
    (n : Nat) (e : StackEntry) : (e.pace n).send s D q = { e.pace n with
      due := false, wait := 0
      lastCount := if bearsPayload q.packet then e.lastCount + 1 else e.lastCount
      cursor := if e.cursor + 1 < cb.length then e.cursor + 1 else 0
      offset := if k = 0 then D.pSlot.map fun u => u - cb.first else e.offset } := by
  obtain ⟨cursor, offset, last⟩ := pace_kept n e
  unfold StackEntry.send
  rw [origin]
  dsimp only
  rw [stepLoop, clipLength_of_body body, clipFirst_of_body body, cursor, offset, last]
  rfl

/-! ## Continuity of a displaced packet (R150) -/

theorem networkPlace_eq_some : networkPlace r D = some n ↔
    (∃ en, r.labelMap[n]? = some en ∧ en.label = packetLabel (line0Packet D.data)) ∧
      ∀ i y, i < n → r.labelMap[i]? = some y → y.label ≠ packetLabel (line0Packet D.data) := by
  refine ⟨fun place => ?_, fun ⟨⟨en, place, label⟩, first⟩ => networkPlace_of_first place label first⟩
  unfold networkPlace at place
  rw [List.findIdx?_eq_some_iff_getElem] at place
  obtain ⟨inside, here, before⟩ := place
  refine ⟨⟨_, List.getElem?_eq_getElem inside, beq_iff_eq.1 here⟩, fun i y low at_ label => before i low ?_⟩
  rw [(List.getElem?_eq_some_iff.1 at_).2, label]
  exact beq_self_eq_true _

theorem displaced_away (r : LaneRecord) (D : Decided) (out : Outgoing) (x : Selector) : (x.displaced r D out).away = x.away := by
  unfold Selector.displaced
  repeat' split
  all_goals rfl

theorem displaced_continuity (r : LaneRecord) (D : Decided) (x : Selector) (i : Nat) :
    (x.displaced r D .network).continuity[i]? = (x.continuity[i]?).map fun c =>
      if bearsPayload (line0Packet D.data) = true ∧ networkPlace r D = some i then { c with pending := true } else c := by
  have same : (fun c : Continuity => c) = id := rfl
  unfold Selector.displaced
  dsimp only
  split
  · next payload =>
    split
    · next k place =>
      unfold Selector.modRecord
      dsimp only
      rw [List.getElem?_modify]
      by_cases here : k = i
      · subst here
        simp only [if_true, place, payload, true_and]
        rfl
      · have other : ¬ networkPlace r D = some i := fun h => here (Option.some.inj (place.symm.trans h))
        simp only [here, other, if_false, and_false, same, Option.map_id]
        exact id_map _
    · next place => simp only [place, reduceCtorEq, and_false, if_false, same, Option.map_id, id]
  · next payload => simp only [payload, Bool.false_eq_true, false_and, if_false, same, Option.map_id, id]

/-- The continuity records after an interject packet has gone out: those of a return to the network and the one of a displaced
packet are marked pending (R148, R150). -/
theorem continuity_interject {N displaces : Prop} [Decidable N] [Decidable displaces] (within : displaces → N) (r : LaneRecord)
    (D : Decided) (p : Packet) (x : Selector) (i : Nat) {z : Continuity} (entry : x.continuity[i]? = some z) :
    (finishPacket r (plainClass N) D (.interject p) (if displaces then x.displaced r D (plainOut N) else x)).2.continuity[i]? =
      some (if (displaces ∧ bearsPayload (line0Packet D.data) = true ∧ networkPlace r D = some i) ∨
          (N ∧ x.away = true ∧ z.last.isSome = true) then { z with pending := true } else z) := by
  rw [finishPacket_interject]
  by_cases serves : N
  · have out : plainOut N = .network := if_pos serves
    rw [if_pos serves, returned_continuity, List.getElem?_map, out]
    by_cases places : displaces
    · rw [if_pos places, displaced_away, displaced_continuity, entry]
      simp only [Option.map_some, places, serves, true_and, Option.some.injEq]
      by_cases here : bearsPayload (line0Packet D.data) = true ∧ networkPlace r D = some i
      · simp only [here, and_self, true_or, if_true, ite_self]
      · simp only [here, if_false, false_or]
    · rw [if_neg places, entry]
      simp only [Option.map_some, places, serves, true_and, false_and, false_or]
  · have stays : ¬ displaces := fun h => serves (within h)
    simp only [serves, stays, if_false, false_and, or_self, entry]

theorem finishPacket_interject_away (r : LaneRecord) (D : Decided) (p : Packet) (x : Selector) :
    (finishPacket r (plainClass network) D (.interject p) x).2.away = if network then false else x.away := by
  rw [finishPacket_interject]
  split
  · exact returned_away x
  · rfl

theorem displacedBy_away (displaces : Bool) (r : LaneRecord) (D : Decided) (out : Outgoing) (x : Selector) :
    (if displaces then x.displaced r D out else x).away = x.away := by
  split
  · exact displaced_away r D out x
  · rfl

theorem count_sentLane (s : State) (D : Decided) (lb : Label) (z : StackEntry) (q : QueueEntry) (displaces : Bool) (ln : Lane) :
    (sentLane s D lb z q displaces ln).count .displaced =
      if displaces then (ln.raise .displaced).count .displaced else ln.count .displaced := by
  unfold sentLane
  cases displaces <;> dsimp only <;> split
  · exact Lane.count_raise_ne ln (by decide)
  · rfl
  · exact Lane.count_raise_ne _ (by decide)
  · rfl

/-- Settles O36. -/
theorem interjectPacketsTakeTheirTurn : Obligations.InterjectPacketsTakeTheirTurn := by
  unfold Obligations.InterjectPacketsTakeTheirTurn
  intro d err s a l rest r o dec decs e b lb n deciding active waiting live effective body mode network label paced room becomes
  obtain ⟨v, ⟨first, -⟩, ran⟩ := exec_of_serving deciding d err (fun x some_ => by rw [active] at some_; cases some_)
    (fun w some_ => by rw [waiting] at some_; cases some_)
  let decided : Decidable network := inferInstanceAs (Decidable (dec.fresh = true ∧ err = false))
  have serves : network ↔ (decide1 r o dec d err).fresh = true ∧ ¬ (decide1 r o dec d err).err = true :=
    and_congr_right fun _ => (Bool.not_eq_true err).symm.to_iff
  have effectiveV : effectiveEntry v o.stack = some e := (effectiveEntry_congr first.alerts _).trans effective
  have bodyV : (v.alert e.id).body = some b := (first.alerts e.id).trans body
  have override : overrideEffective v o.stack = false :=
    (overrideEffective_of_effective effectiveV).trans (isOverride_of_interject bodyV mode)
  have pSlot : (decide1 r o dec d err).pSlot = slotTime r o dec d err := decide1_pSlot
  have cEst : (decide1 r o dec d err).cEst = slotClock o dec d err := decide1_cEst
  have data : (decide1 r o dec d err).data = d := rfl
  generalize decide1 r o dec d err = D at *
  have served := serveSlot_of_idle (network := network) first.on override active live r serves
  have itsLabel := interjectLabel_of_interject bodyV mode
  have interval := alertInterval_of_interject bodyV mode
  have judged : placement r D paced.wait (plainOut network) = if label = fillerLabel then .replaces
      else if r.deadline ≤ paced.wait ∧ ¬ (network ∧ hasClockRef (line0Packet d) = true) ∧ r.cueLabel ≠ some label
        then .displaces else .waits := by
    rw [placement_eq, chosenLabel_plain, data]
    simp only [decide_eq_true_eq]
    rfl
  have stacked := first.modOn (OnLane.paced n e)
  by_cases due : paced.due = true
  · by_cases goes : ∃ q qs, o.fetch.interject = q :: qs ∧ room
    · obtain ⟨q, qs, buffer, placed⟩ := goes
      have displaces : placement r D paced.wait (plainOut network) =
          if decide (label ≠ fillerLabel) = true then .displaces else .replaces := by
        rw [judged]
        rcases placed with fills | clear_
        · rw [if_pos fills, if_neg (by rw [decide_eq_true_eq]; exact not_not.2 fills)]
        · by_cases fills : label = fillerLabel
          · rw [if_pos fills, if_neg (by rw [decide_eq_true_eq]; exact not_not.2 fills)]
          · rw [if_neg fills, if_pos clear_, if_pos (decide_eq_true fills)]
      have step := interjectStep_sends first.on effectiveV itsLabel interval due buffer displaces
      obtain ⟨packet, sent⟩ := sendInterject_slotted stacked r D lb (e.pace n) q (decide (label ≠ fillerLabel)) (plainOut network)
      rw [step, packet] at served
      have done := sent.modOn (OnLane.finished r (plainClass network) D
        (.interject (interjectPacket lb D ((e.pace n).send (v.modOn l (OnLane.paced n e)) D q) q.packet)))
      have line := released_line done d
      have copied := congrArg Prod.fst (finishPacket_interject (network := network) r D
        (interjectPacket lb D ((e.pace n).send (v.modOn l (OnLane.paced n e)) D q) q.packet)
        (((o.takeDecision D).paced n e).sent (v.modOn l (OnLane.paced n e)) r D (e.pace n) q (decide (label ≠ fillerLabel))
          (plainOut network)).sel)
      rw [served] at ran
      have entry := fun (c : ClipId) (k : Nat) (cb : ClipBody) (origin : q.origin = .clip c k)
        (clip : (s.clip c).body = some cb) => send_of_clip (s := v.modOn l (OnLane.paced n e)) (D := D) origin
          ((stacked.clipBody c).trans clip) n e
      generalize (sendInterject l r D lb (e.pace n) q (decide (label ≠ fillerLabel)) (plainOut network)
        (v.modOn l (OnLane.paced n e))).2.modOn l _ = t at *
      rw [line, copied, data] at ran
      rw [data] at copied
      refine ⟨_, _, ran, done.on, done.orders, done.report, fun m other => done.elsewhere other, fun z other => ?_, rfl, ?_,
        fun stays => absurd (due.symm.trans stays) nofun, fun _ stays => ?_, fun q' qs' c k cb _ _ same origin clip => ?_⟩
      · exact (done.alert z).trans ((alert_set s (e.pace n).id z _).trans (if_neg (by rw [pace_id]; exact other)))
      · exact (finishPacket_interject_away r D _ _).trans (if_congr Iff.rfl rfl (displacedBy_away _ r D _ o.sel))
      · rcases stays with empty | none
        · exact absurd (buffer.symm.trans empty) nofun
        · exact absurd placed none
      · obtain ⟨rfl, rfl⟩ := List.cons.inj (buffer.symm.trans same)
        intro count runOffset
        refine ⟨?_, congrArg List.tail buffer, ?_, ?_, ?_, ?_⟩
        · refine (congrArg (fun i => modEntry (modEntry o.stack e.id fun _ => e.pace n) i fun _ =>
            (e.pace n).send (v.modOn l (OnLane.paced n e)) D q) (pace_id n e)).trans
              ((modEntry_replaced o.stack (pace_id n e) _).trans ?_)
          rw [entry c k cb origin clip, pSlot]
          rfl
        · refine (done.alert e.id).trans ((alert_set s (e.pace n).id e.id _).trans ((if_pos (pace_id n e).symm).trans ?_))
          exact congrArg (fun i => Alert.counted (s.alert i)) (pace_id n e)
        · have same : (readLane err (s.lane l)).count .displaced = (s.lane l).count .displaced := count_readLane (by decide)
          refine (congrArg (fun z => Lane.count z .displaced) done.lane).trans ((count_sentLane _ D lb _ q _ _).trans ?_)
          rw [Lane.count_raise_self, Lane.count_raise_self, same]
          by_cases fills : label = fillerLabel
          · rw [if_pos fills, if_neg (by rw [decide_eq_true_eq]; exact not_not.2 fills)]
          · rw [if_neg fills, if_pos (decide_eq_true fills)]
        · intro m z at_ onEntry returns
          have marked := continuity_interject (N := network) (displaces := decide (label ≠ fillerLabel) = true)
            (fun other => by_contra fun fills => of_decide_eq_true other (if_neg fills)) r D
            (interjectPacket lb D ((e.pace n).send (v.modOn l (OnLane.paced n e)) D q) q.packet) o.sel m at_
          have onEntry_iff : onEntry ↔ decide (label ≠ fillerLabel) = true ∧ bearsPayload (line0Packet D.data) = true ∧
              networkPlace r D = some m := by
            rw [decide_eq_true_eq, networkPlace_eq_some, data]
            refine and_congr_right fun other => ?_
            have serves_ : network := by_contra fun fills => other (if_neg fills)
            rw [show packetLabel (line0Packet d) = label from (if_pos serves_).symm]
          exact ⟨fun either => marked.trans (congrArg some (if_pos (either.imp_left onEntry_iff.1))),
            fun off still => marked.trans (congrArg some (if_neg (not_or.2 ⟨fun on => off (onEntry_iff.2 on), still⟩)))⟩
        · have rewritten := rewritten_of_rewrite q.packet lb ((e.pace n).send (v.modOn l (OnLane.paced n e)) D q).lastCount
            { offset := ((e.pace n).send (v.modOn l (OnLane.paced n e)) D q).offset, restamps := true } D.cEst
          refine ⟨interjectPacket lb D ((e.pace n).send (v.modOn l (OnLane.paced n e)) D q) q.packet, _, ?_, rfl, rfl,
            congrArg some copied⟩
          rw [entry c k cb origin clip, pSlot, cEst] at rewritten
          unfold interjectPacket
          rw [entry c k cb origin clip, pSlot, cEst]
          exact rewritten
    · have waits : o.fetch.interject = [] ∨ placement r D paced.wait (plainOut network) = .waits := by
        cases buffer : o.fetch.interject with
        | nil => exact .inl rfl
        | cons q qs =>
          have none : ¬ room := fun placed => goes ⟨q, qs, buffer, placed⟩
          obtain ⟨other, full⟩ := not_or.1 none
          rw [judged, if_neg other, if_neg full]
          exact .inr rfl
      have step := interjectStep_waits first.on effectiveV itsLabel interval due waits
      rw [step] at served
      have done := (stacked.modOn (OnLane.waited e)).modOn (OnLane.finished r (plainClass network) D (plainOut network))
      rw [served] at ran
      generalize ((v.modOn l (OnLane.paced n e)).modOn l _).modOn l _ = t at ran done
      refine ⟨_, _, ran, done.on, done.orders, done.report, fun m other => done.elsewhere other, fun z _ => done.alert z, rfl,
        finishPacket_plain_away r D o.sel, fun stays => absurd (due.symm.trans stays) nofun, fun _ _ => ⟨?_, rfl, done.table⟩,
        fun q qs c k cb _ placed buffer => absurd ⟨q, qs, buffer, placed⟩ goes⟩
      refine (modEntry_replaced o.stack (pace_id n e) fun y => { y with wait := heldAt 255 (y.wait + 1) }).trans ?_
      change becomes { paced with wait := min (paced.wait + 1) 255 } = _
      rw [Nat.min_comm]
  · have step : interjectStep l r D (plainOut network) v = (plainOut network, v.modOn l (OnLane.paced n e)) := by
      rw [interjectStep_of_some r D _ first.on effectiveV itsLabel, interval]
      exact if_neg due
    rw [step] at served
    have done := stacked.modOn (OnLane.finished r (plainClass network) D
      (plainOut network))
    rw [served] at ran
    generalize (v.modOn l (OnLane.paced n e)).modOn l _ = t at ran done
    refine ⟨_, _, ran, done.on, done.orders, done.report, fun m other => done.elsewhere other, fun z _ => done.alert z, rfl,
      finishPacket_plain_away r D o.sel, fun _ => ⟨rfl, rfl, done.table⟩, fun h => absurd h due, fun q qs c k cb h => absurd h due⟩

end Sys2Proof.Machine
end

section
/-! PROOF. Reading the fields of packed lists, entries laid side by side and lines laid over (R157, R187). -/

namespace Sys2Proof.Machine

variable {s : State} {n w : Nat} {fs gs : List (Nat × Nat × Nat)} {f : Nat × Nat × Nat} {off size v k i : Nat}

/-! ## What a list of fields lays at a place -/

/-- The bit that a list of fields lays at bit `i`. -/
def laidBit (fs : List (Nat × Nat × Nat)) (i : Nat) : Bool :=
  fs.any fun f => decide (8 * f.1 ≤ i) && (f.2.2 % 2 ^ (8 * f.2.1)).testBit (i - 8 * f.1)

/-- The fields lay the value `v`, as far as its bytes hold it, at the `size` bytes from `off`. -/
def Lays (fs : List (Nat × Nat × Nat)) (off size v : Nat) : Prop :=
  ∀ j, j < 8 * size → laidBit fs (8 * off + j) = v.testBit j

/-- No field holds one of the `size` bytes from `off`. -/
def Clear (fs : List (Nat × Nat × Nat)) (off size : Nat) : Prop := ∀ f ∈ fs, f.1 + f.2.1 ≤ off ∨ off + size ≤ f.1

theorem laidBit_append : laidBit (fs ++ gs) i = (laidBit fs i || laidBit gs i) := List.any_append

theorem Clear.laidBit (clear_ : Clear fs off size) {j : Nat} (inside : j < 8 * size) : laidBit fs (8 * off + j) = false := by
  refine List.any_eq_false.2 fun f mem => ?_
  rw [Nat.testBit_mod_two_pow]
  rcases clear_ f mem with before | after
  · simp [show ¬ 8 * off + j - 8 * f.1 < 8 * f.2.1 by omega]
  · simp [show ¬ 8 * f.1 ≤ 8 * off + j by omega]

theorem Clear.lays (clear_ : Clear fs off size) : Lays fs off size 0 := fun j inside => by
  rw [clear_.laidBit inside, Nat.zero_testBit]

theorem clear_append (left : Clear fs off size) (right : Clear gs off size) : Clear (fs ++ gs) off size := fun f mem =>
  (List.mem_append.1 mem).elim (left f) (right f)

theorem Lays.append (left : Lays fs off size v) (right : Clear gs off size) : Lays (fs ++ gs) off size v := fun j inside => by
  rw [laidBit_append, left j inside, right.laidBit inside, Bool.or_false]

theorem Clear.append (left : Clear fs off size) (right : Lays gs off size v) : Lays (fs ++ gs) off size v := fun j inside => by
  rw [laidBit_append, left.laidBit inside, right j inside, Bool.false_or]

theorem lays_singleton (off size v : Nat) : Lays [(off, size, v)] off size v := fun j inside => by
  rw [laidBit, List.any_cons, List.any_nil, Bool.or_false, Nat.testBit_mod_two_pow, Nat.add_sub_cancel_left,
    decide_eq_true inside, decide_eq_true (by omega), Bool.true_and, Bool.true_and]

/-- A field is laid where no other field of the list shares a byte with it. -/
theorem lays_of_mem (mem : f ∈ fs) (apart : fs.Pairwise Apart) : Lays fs f.1 f.2.1 f.2.2 := by
  obtain ⟨before, after, rfl⟩ := List.append_of_mem mem
  rw [List.pairwise_append, List.pairwise_cons] at apart
  obtain ⟨-, ⟨right, -⟩, left⟩ := apart
  have here : Lays ([f] ++ after) f.1 f.2.1 f.2.2 := (lays_singleton f.1 f.2.1 f.2.2).append fun g isIn => (right g isIn).symm
  exact Clear.append (fun g isIn => left g isIn f (List.mem_cons_self ..)) here

/-- The places that a list of fields lays, given field by field. -/
theorem lays_of_mem_or_clear (apart : fs.Pairwise Apart) (place : (off, size, v) ∈ fs ∨ v = 0 ∧ Clear fs off size) :
    Lays fs off size v := by
  rcases place with mem | ⟨rfl, clear_⟩
  · exact lays_of_mem mem apart
  · exact clear_.lays

theorem field_packFields_of_lays (lays : Lays fs off size v) (within : 8 * (off + size) ≤ n) :
    field (packFields n fs) off size = v % 2 ^ (8 * size) := by
  refine Nat.eq_of_testBit_eq fun j => ?_
  rw [testBit_field, getLsbD_packFields, Nat.testBit_mod_two_pow]
  by_cases inside : j < 8 * size
  · rw [decide_eq_true (by omega : 8 * off + j < n), ← lays j inside]
    rfl
  · rw [decide_eq_false inside, Bool.false_and, Bool.false_and]

/-- The fields lie in the bytes from `low` up to `high`. -/
def Within (fs : List (Nat × Nat × Nat)) (low high : Nat) : Prop := ∀ f ∈ fs, low ≤ f.1 ∧ f.1 + f.2.1 ≤ high

theorem Within.clear {low high : Nat} (within : Within fs low high) (apart : off + size ≤ low ∨ high ≤ off) :
    Clear fs off size := fun f mem => by
  have := within f mem
  omega

theorem within_append {low high : Nat} (left : Within fs low high) (right : Within gs low high) : Within (fs ++ gs) low high :=
  fun f mem => (List.mem_append.1 mem).elim (left f) (right f)

theorem Within.mono {low high low' high' : Nat} (within : Within fs low high) (below : low' ≤ low) (above : high ≤ high') :
    Within fs low' high' := fun f mem => by
  have := within f mem
  omega

/-! ## Runs of one-byte fields -/

theorem mem_byteFields {xs : List Nat} : f ∈ byteFields off xs ↔ ∃ (j : Nat) (h : j < xs.length), f = (off + j, 1, xs[j]) := by
  unfold byteFields
  rw [List.mem_map]
  constructor
  · rintro ⟨⟨x, j⟩, mem, rfl⟩
    obtain ⟨-, inside, here⟩ := List.mem_zipIdx mem
    refine ⟨j, by omega, ?_⟩
    simp only [here, Nat.sub_zero]
  · rintro ⟨j, h, rfl⟩
    refine ⟨(xs[j], j), ?_, rfl⟩
    rw [List.mem_zipIdx_iff_getElem?]
    exact List.getElem?_eq_getElem h

theorem within_byteFields (base : Nat) (xs : List Nat) : Within (byteFields base xs) base (base + xs.length) := fun f mem => by
  obtain ⟨j, h, rfl⟩ := mem_byteFields.1 mem
  dsimp only
  omega

theorem lays_byteFields {xs : List Nat} {base : Nat} (h : i < xs.length) : Lays (byteFields base xs) (base + i) 1 xs[i] := by
  refine lays_of_mem (f := (base + i, 1, xs[i])) (mem_byteFields.2 ⟨i, h, rfl⟩) ?_
  unfold byteFields
  rw [List.pairwise_map]
  refine (List.pairwise_iff_getElem.2 fun i j hi hj lt => ?_)
  rw [List.getElem_zipIdx, List.getElem_zipIdx]
  simp only [Apart]
  omega

/-! ## Marks -/

theorem testBit_marks (bs : List Bool) (i : Nat) : (marks bs).testBit i = bs[i]?.getD false := by
  induction bs generalizing i with
  | nil => exact Nat.zero_testBit i
  | cons b bs ih =>
    have shape : marks (b :: bs) = 2 * marks bs + b.toNat := Nat.add_comm _ _
    rw [shape]
    cases i with
    | zero => cases b <;> simp [Nat.testBit_zero, Nat.add_mod]
    | succ i =>
      rw [Nat.testBit_succ, List.getElem?_cons_succ, ← ih]
      congr 1
      have := b.toNat_le
      omega

theorem testBit_laneMarks (f : LaneId → Bool) (l : LaneId) : (laneMarks f).testBit l.val = f l := by
  unfold laneMarks
  rw [testBit_marks, List.getElem?_map, List.getElem?_eq_getElem (by rw [List.length_finRange]; exact l.isLt),
    List.getElem_finRange]
  rfl

/-- A bit of a field, read in its byte. -/
theorem getByte_bit_of_field {x : BitVec n} (shown : field x off size = v % 2 ^ (8 * size)) (inside : i < 8 * size) :
    (getByte x (off + i / 8)).getLsbD (i % 8) = v.testBit i := by
  have bit : (field x off size).testBit i = (v % 2 ^ (8 * size)).testBit i := by rw [shown]
  rw [testBit_field, Nat.testBit_mod_two_pow, decide_eq_true inside, Bool.true_and, Bool.true_and] at bit
  rw [getLsbD_getByte, decide_eq_true (Nat.mod_lt i (by decide)), Bool.true_and, ← bit]
  congr 1
  omega

/-! ## Values of any width that show fields -/

/-- The fields stand in `x`, counted from its byte `k`: `Shows` for a value of any width. -/
def Reads (x : BitVec n) (k : Nat) (fs : List (Nat × Nat × Nat)) : Prop :=
  ∀ f, f ∈ fs → field x (k + f.1) f.2.1 = f.2.2 % 2 ^ (8 * f.2.1)

theorem reads_packFields (each : ∀ f ∈ gs, 8 * (k + f.1 + f.2.1) ≤ n ∧ Lays fs (k + f.1) f.2.1 f.2.2) :
    Reads (packFields n fs) k gs := fun f mem => field_packFields_of_lays (each f mem).2 (each f mem).1

theorem field_zero (off size : Nat) : field (0 : BitVec n) off size = 0 := by
  refine Nat.eq_of_testBit_eq fun j => ?_
  rw [testBit_field, Nat.zero_testBit]
  simp

/-- A zero value reads 0 everywhere. -/
theorem reads_zero (zero : ∀ f ∈ fs, f.2.2 = 0) : Reads (0 : BitVec n) k fs := fun f mem => by
  rw [zero f mem, field_zero, Nat.zero_mod]

/-! ## Entries side by side -/

theorem getLsbD_packEntries {xs : List Nat} (h : i < xs.length) {j : Nat} (inside : j < 8 * w) (within : w * i + w ≤ 64) :
    (packEntries w xs).getLsbD (8 * (w * i) + j) = xs[i].testBit j := by
  have lays : Lays (xs.zipIdx.map fun x => (w * x.2, w, x.1)) (w * i) w xs[i] := by
    refine lays_of_mem (f := (w * i, w, xs[i])) (List.mem_map.2 ⟨(xs[i], i), ?_, rfl⟩) ?_
    · rw [List.mem_zipIdx_iff_getElem?]
      exact List.getElem?_eq_getElem h
    · rw [List.pairwise_map]
      refine (List.pairwise_iff_getElem.2 fun a b ha hb lt => ?_)
      rw [List.getElem_zipIdx, List.getElem_zipIdx]
      left
      dsimp only
      have step := Nat.mul_le_mul_left w (show a + 1 ≤ b from lt)
      simpa [Nat.mul_add] using step
  unfold packEntries
  rw [getLsbD_packFields, decide_eq_true (by omega), Bool.true_and]
  exact lays j inside

/-- Entry `i` of the entries side by side reads as itself. -/
theorem reads_packEntries {xs : List Nat} (h : i < xs.length) {y : BitVec n} (entry : xs[i] = y.toNat)
    (within : w * i + w ≤ 64) (reads : Reads y 0 fs) (sizes : ∀ f ∈ fs, f.1 + f.2.1 ≤ w) :
    Reads (packEntries w xs) (w * i) fs := fun f mem => by
  rw [← reads f mem, Nat.zero_add]
  refine Nat.eq_of_testBit_eq fun j => ?_
  rw [testBit_field, testBit_field]
  by_cases inside : j < 8 * f.2.1
  · have size := sizes f mem
    rw [decide_eq_true inside, Bool.true_and, Bool.true_and, Nat.mul_add, Nat.add_assoc,
      getLsbD_packEntries h (by omega) within, entry, BitVec.testBit_toNat]
  · rw [decide_eq_false inside, Bool.false_and, Bool.false_and]

/-! ## A line of a longer entry -/

theorem reads_line {y : BitVec n} {q : Nat} (reads : Reads y (64 * q + k) fs) (sizes : ∀ f ∈ fs, k + f.1 + f.2.1 ≤ 64) :
    Reads (y.extractLsb' (512 * q) 512 : Line) k fs := fun f mem => by
  rw [← reads f mem]
  refine Nat.eq_of_testBit_eq fun j => ?_
  rw [testBit_field, testBit_field]
  by_cases inside : j < 8 * f.2.1
  · have size := sizes f mem
    rw [decide_eq_true inside, Bool.true_and, Bool.true_and, BitVec.getLsbD_extractLsb', decide_eq_true (by omega),
      Bool.true_and]
    congr 1
    omega
  · rw [decide_eq_false inside, Bool.false_and, Bool.false_and]

/-! ## The line laid over (R157) -/

theorem getLsbD_byteMask (k n i : Nat) (inside : i < 512) :
    (byteMask k n).getLsbD i = decide (8 * k ≤ i ∧ i < 8 * (k + n)) := by
  unfold byteMask
  rw [BitVec.getLsbD_shiftLeft, BitVec.getLsbD_ofNat, Nat.testBit_two_pow_sub_one, Bool.eq_iff_iff]
  simp only [Bool.and_eq_true, Bool.not_eq_true', decide_eq_true_eq, decide_eq_false_iff_not]
  omega

theorem getLsbD_overlayLine (s : State) (d : Line) (bytes : overlayBytes off = some (k, n)) (inside : i < 512) :
    (overlayLine s off d).getLsbD i = if 8 * k ≤ i ∧ i < 8 * (k + n) then (overlayValue s off).getLsbD i else d.getLsbD i := by
  unfold overlayLine
  rw [bytes]
  dsimp only
  rw [BitVec.getLsbD_or, BitVec.getLsbD_and, BitVec.getLsbD_and, BitVec.getLsbD_not, getLsbD_byteMask k n i inside,
    decide_eq_true inside, Bool.true_and]
  split
  · next laid => simp [laid]
  · next past => simp only [past, decide_false, Bool.not_false, Bool.and_true, Bool.and_false, Bool.or_false]

/-- Bytes outside the overlay are the memory's. -/
theorem getByte_overlayLine_outside (s : State) (d : Line) (bytes : overlayBytes off = some (k, n)) {j : Nat} (inside : j < 64)
    (outside : ¬ (k ≤ j ∧ j < k + n)) : getByte (overlayLine s off d) j = getByte d j := by
  refine BitVec.eq_of_getLsbD_eq fun i h => ?_
  rw [getLsbD_getByte, getLsbD_getByte, getLsbD_overlayLine s d bytes (by omega), if_neg (by omega)]

/-- Fields within the overlay are the live values. -/
theorem shows_overlayLine (d : Line) (bytes : overlayBytes off = some (i, n)) (fit : i + n ≤ 64)
    (reads : Reads (overlayValue s off) k fs) (within : ∀ f ∈ fs, i ≤ k + f.1 ∧ k + f.1 + f.2.1 ≤ i + n) :
    Shows (overlayLine s off d) k fs := fun f mem => by
  rw [← reads f mem]
  refine Nat.eq_of_testBit_eq fun j => ?_
  rw [testBit_field, testBit_field]
  by_cases inside : j < 8 * f.2.1
  · obtain ⟨low, high⟩ := within f mem
    rw [getLsbD_overlayLine s d bytes (by omega), if_pos (by omega)]
  · rw [decide_eq_false inside, Bool.false_and, Bool.false_and]

end Sys2Proof.Machine
end

section
/-! PROOF. The overlays of the control window (R157, R164, R169 to R171, R179): O28. -/

namespace Sys2Proof.Machine

variable {s : State} {n w : Nat} {fs gs : List (Nat × Nat × Nat)} {f : Nat × Nat × Nat} {off size v k i : Nat} {d : Line}
  {l : LaneId} {r : LaneRecord} {o : OnLane} {b : AlertBody}

/-- Fields read from a packed list where each is one of the list's or a zero that no field of the list holds. -/
theorem reads_of_literal (apart : fs.Pairwise Apart) (each : ∀ f ∈ gs, 8 * (k + f.1 + f.2.1) ≤ n ∧
    ((k + f.1, f.2.1, f.2.2) ∈ fs ∨ f.2.2 = 0 ∧ Clear fs (k + f.1) f.2.1)) : Reads (packFields n fs) k gs :=
  reads_packFields fun f mem => ⟨(each f mem).1, lays_of_mem_or_clear apart (each f mem).2⟩

theorem reads_placed {y : BitVec n} (reads : Reads y 0 fs) (within : ∀ f ∈ fs, k + f.1 + f.2.1 ≤ 64) :
    Reads (y.setWidth 512 <<< (8 * k) : Line) k fs := fun f mem => by
  rw [field_placed y (within f mem), ← reads f mem, Nat.zero_add]

/-- A line whose overlay is the whole line shows its live values. -/
theorem shows_whole (d : Line) (bytes : overlayBytes off = some (0, 64)) (reads : Reads (overlayValue s off) k fs)
    (within : ∀ f ∈ fs, k + f.1 + f.2.1 ≤ 64) : Shows (overlayLine s off d) k fs :=
  shows_overlayLine d bytes (by decide) reads fun f mem => ⟨by omega, by have := within f mem; omega⟩

/-! ## Go words -/

theorem overlayBytes_go (k : PostSlotId) : overlayBytes (256 * k.val + 0xC0) = some (56, 8) := by
  have := k.isLt
  unfold overlayBytes
  rw [if_pos (by omega), if_pos (by omega)]

theorem overlayValue_go (s : State) (k : PostSlotId) :
    overlayValue s (256 * k.val + 0xC0) = (goWord s k).setWidth 512 <<< (8 * 56) := by
  have := k.isLt
  unfold overlayValue
  rw [if_pos (by omega), show (256 * k.val + 0xC0) / 256 = k.val by omega, Fin.ofNat_val_eq_self]

theorem shows_goWord (s : State) (d : Line) (k : PostSlotId) : Shows (overlayLine s (256 * k.val + 0xC0) d) 56
    [(0, 1, (s.slot k).kind.toNat), (1, 1, (s.slot k).state.code + 128 * (s.slot k).doubled.toNat),
     (2, 2, (s.slot k).tag.toNat), (4, 1, (s.slot k).result.code), (5, 1, (s.slot k).detail), (6, 1, queuePlace s k),
     (7, 1, 0)] := by
  refine shows_overlayLine d (overlayBytes_go k) (by decide) ?_ (by simp)
  rw [overlayValue_go]
  refine reads_placed (reads_of_literal (by simp [Apart]) (by simp [Clear])) (by simp)

/-! ## The read-index word -/

theorem overlayValue_index (s : State) : overlayValue s 0x1040 = (indexWord s).setWidth 512 <<< (8 * 0) := by
  unfold overlayValue
  rw [if_neg (by decide), if_neg (by decide), if_pos rfl, Nat.mul_zero, BitVec.shiftLeft_zero]

theorem shows_index (d : Line) (set : s.report.setup.isSome = true) : Shows (overlayLine s 0x1040 d) 0
    [(0, 2, s.report.h), (2, 2, s.report.w), (4, 2, s.report.unread), (6, 1, 1), (7, 1, 0)] := by
  refine shows_overlayLine d (i := 0) (n := 8) rfl (by decide) ?_ (by simp)
  rw [overlayValue_index]
  refine reads_placed ?_ (by simp)
  unfold indexWord
  rw [if_pos set]
  exact reads_of_literal (by simp [Apart]) (by simp [Clear])

theorem shows_index_unset (d : Line) (unset : s.report.setup = none) : Shows (overlayLine s 0x1040 d) 0 [(0, 8, 0)] := by
  refine shows_overlayLine d (i := 0) (n := 8) rfl (by decide) ?_ (by simp)
  rw [overlayValue_index]
  refine reads_placed ?_ (by simp)
  unfold indexWord
  rw [if_neg (by simp [unset])]
  exact reads_zero (by simp)

/-! ## Alert entries -/

theorem overlayValue_alerts (s : State) (a : AlertId) : overlayValue s (0x1080 + 64 * (a.val / 2)) = packEntries 32
    ((List.range 2).map fun k => (alertEntry s (Fin.ofNat 4 (2 * (a.val / 2) + k))).toNat) := by
  have := a.isLt
  unfold overlayValue
  rw [if_neg (by omega), if_neg (by omega), if_neg (by omega), if_pos (by omega),
    show (0x1080 + 64 * (a.val / 2) - 0x1080) / 32 = 2 * (a.val / 2) by omega]

theorem shows_alert (d : Line) (a : AlertId) (reads : Reads (alertEntry s a) 0 fs) (sizes : ∀ f ∈ fs, f.1 + f.2.1 ≤ 32) :
    Shows (overlayLine s (0x1080 + 64 * (a.val / 2)) d) (32 * (a.val % 2)) fs := by
  have := a.isLt
  refine shows_whole d ?_ ?_ fun f mem => ?_
  · unfold overlayBytes
    rw [if_neg (by omega), if_neg (by omega), if_neg (by omega), if_pos (by omega)]
  · rw [overlayValue_alerts]
    refine reads_packEntries (by simp; omega) ?_ (by omega) reads sizes
    rw [List.getElem_map, List.getElem_range, Nat.div_add_mod, Fin.ofNat_val_eq_self]
  · have := sizes f mem
    omega

/-- The fields of the alert entry that holds `b`. -/
theorem alertEntry_eq {a : AlertId} (body : (s.alert a).body = some b) : alertEntry s a = packFields 256
    [(0, 1, (s.alert a).inForce.toNat + 2 * b.modeBit.toNat + 4 * (s.alert a).fetchFault.toNat +
        16 * causeCode (s.alert a).lastCause),
     (1, 1, (s.alert a).laneCount), (2, 2, b.zones.toNat), (4, 2, b.clip.val),
     (6, 2, match b.mode with
       | .override => 0
       | .interject lb _ => lb.toNat),
     (8, 1, match b.mode with
       | .override => 0
       | .interject _ n => n), (12, 4, b.duration),
     (16, 4, (s.alert a).start.toNat), (20, 4, (s.alert a).served.toNat), (24, 4, (s.alert a).underrun.toNat)] := by
  unfold alertEntry
  dsimp only
  rw [body]
  dsimp only
  cases b.mode with
  | override => dsimp only
  | interject lb n => dsimp only

theorem reads_alertEntry {a : AlertId} (body : (s.alert a).body = some b) : Reads (alertEntry s a) 0
    [(0, 1, (s.alert a).inForce.toNat + 2 * b.modeBit.toNat + 4 * (s.alert a).fetchFault.toNat +
        16 * causeCode (s.alert a).lastCause),
     (1, 1, (s.alert a).laneCount), (2, 2, b.zones.toNat), (4, 2, b.clip.val), (12, 4, b.duration),
     (16, 4, (s.alert a).start.toNat), (20, 4, (s.alert a).served.toNat), (24, 4, (s.alert a).underrun.toNat)] := by
  rw [alertEntry_eq body]
  exact reads_of_literal (by simp [Apart]) (by simp [Clear])

theorem reads_interject {a : AlertId} {lb : Label} (body : (s.alert a).body = some b) (mode : b.mode = .interject lb n) :
    Reads (alertEntry s a) 0 [(6, 2, lb.toNat), (8, 1, n)] := by
  rw [alertEntry_eq body, mode]
  exact reads_of_literal (by simp [Apart]) (by simp [Clear])

theorem modeBit_eq (b : AlertBody) : 2 * b.modeBit.toNat = if b.mode = .override then 0 else 2 := by
  unfold AlertBody.modeBit
  cases b.mode <;> rfl

theorem alertEntry_empty {a : AlertId} (body : (s.alert a).body = none) : alertEntry s a = 0 := by
  unfold alertEntry
  dsimp only
  rw [body]

/-! ## Order and clip entries -/

theorem overlayBytes_tables (low : 0x2000 ≤ off) (high : off < 0x5800) : overlayBytes off = some (0, 64) := by
  unfold overlayBytes
  rw [if_neg (by omega), if_neg (by omega), if_neg (by omega), if_neg (by omega), if_pos (by omega)]

theorem shows_order (d : Line) (k : OrderId) (reads : Reads (orderEntry s k) 0 fs) (sizes : ∀ f ∈ fs, f.1 + f.2.1 ≤ 16) :
    Shows (overlayLine s (0x3000 + 64 * (k.val / 4)) d) (16 * (k.val % 4)) fs := by
  have := k.isLt
  refine shows_whole d (overlayBytes_tables (by omega) (by omega)) ?_ fun f mem => ?_
  · unfold overlayValue
    rw [if_neg (by omega), if_neg (by omega), if_neg (by omega), if_neg (by omega), if_neg (by omega), if_pos (by omega),
      show (0x3000 + 64 * (k.val / 4) - 0x3000) / 16 = 4 * (k.val / 4) by omega]
    refine reads_packEntries (by simp; omega) ?_ (by omega) reads sizes
    rw [List.getElem_map, List.getElem_range, Nat.div_add_mod, Fin.ofNat_val_eq_self]
  · have := sizes f mem
    omega

theorem shows_clip (d : Line) (c : ClipId) (reads : Reads (clipEntry s c) 0 fs) (sizes : ∀ f ∈ fs, f.1 + f.2.1 ≤ 8) :
    Shows (overlayLine s (0x4000 + 64 * (c.val / 8)) d) (8 * (c.val % 8)) fs := by
  have := c.isLt
  refine shows_whole d (overlayBytes_tables (by omega) (by omega)) ?_ fun f mem => ?_
  · unfold overlayValue
    rw [if_neg (by omega), if_neg (by omega), if_neg (by omega), if_neg (by omega), if_neg (by omega), if_neg (by omega),
      if_pos (by omega), show (0x4000 + 64 * (c.val / 8) - 0x4000) / 8 = 8 * (c.val / 8) by omega]
    refine reads_packEntries (by simp; omega) ?_ (by omega) reads sizes
    rw [List.getElem_map, List.getElem_range, Nat.div_add_mod, Fin.ofNat_val_eq_self]
  · have := sizes f mem
    omega

theorem shows_clipAddress (d : Line) (c : ClipId) (reads : Reads (clipAddressEntry s c) 0 fs) (sizes : ∀ f ∈ fs, f.1 + f.2.1 ≤ 4) :
    Shows (overlayLine s (0x5000 + 64 * (c.val / 16)) d) (4 * (c.val % 16)) fs := by
  have := c.isLt
  refine shows_whole d (overlayBytes_tables (by omega) (by omega)) ?_ fun f mem => ?_
  · unfold overlayValue
    rw [if_neg (by omega), if_neg (by omega), if_neg (by omega), if_neg (by omega), if_neg (by omega), if_neg (by omega),
      if_neg (by omega), if_pos (by omega), show (0x5000 + 64 * (c.val / 16) - 0x5000) / 4 = 16 * (c.val / 16) by omega]
    refine reads_packEntries (by simp; omega) ?_ (by omega) reads sizes
    rw [List.getElem_map, List.getElem_range, Nat.div_add_mod, Fin.ofNat_val_eq_self]
  · have := sizes f mem
    omega

theorem reads_clipEntry (s : State) (c : ClipId) : Reads (clipEntry s c) 0
    [(0, 1, (s.clip c).body.isSome.toNat + 2 * (s.clip c).disturbed.toNat + 4 * (s.clip c).readFault.toNat),
     (2, 2, (s.clip c).locks), (4, 3, ((s.clip c).body.map fun b => b.length - 1).getD 0), (7, 1, 0)] :=
  reads_of_literal (by simp [Apart]) (by simp [Clear])

theorem reads_clipAddressEntry (s : State) (c : ClipId) : Reads (clipAddressEntry s c) 0
    [(0, 4, ((s.clip c).body.map fun b => b.address / 64).getD 0)] := fun f mem => by
  rw [List.mem_singleton.1 mem]
  unfold clipAddressEntry field
  simp

theorem orderEntry_empty {k : OrderId} (body : (s.order k).body = none) : orderEntry s k = 0 := by
  unfold orderEntry
  dsimp only
  rw [body]

theorem reads_orderEntry {k : OrderId} {b : OrderBody} (body : (s.order k).body = some b) : Reads (orderEntry s k) 0
    [(0, 1, (s.order k).state.code), (1, 1, b.lane.val),
     (2, 1, b.isLive.toNat + 2 * (s.order k).unlimited.toNat + 4 * (s.order k).abort.toNat), (3, 1, (s.order k).remaining),
     (4, 4, orderEvent s k b)] := by
  unfold orderEntry
  dsimp only
  rw [body]
  exact reads_of_literal (by simp [Apart]) (by simp [Clear])

end Sys2Proof.Machine
end

section
/-! PROOF. The status summary, the lane summary and the lane detail entries (R169, R170, Tables 12-6 and 12-7). -/

namespace Sys2Proof.Machine

variable {s : State} {n : Nat} {fs gs mid back : List (Nat × Nat × Nat)} {off size v k i top : Nat} {d : Line}
  {l : LaneId} {r : LaneRecord} {o : OnLane} {e : StackEntry}

/-- A list of fields with a run in its middle reads as its front before the run and as its back after it. -/
theorem reads_around (front : Within fs 0 k) (middle : Within mid k top) (rear : Within back top n)
    (apartFront : fs.Pairwise Apart) (apartBack : back.Pairwise Apart)
    (each : ∀ f ∈ gs, 8 * (f.1 + f.2.1) ≤ 8 * n ∧
      ((f.1 + f.2.1 ≤ k ∧ (f ∈ fs ∨ f.2.2 = 0 ∧ Clear fs f.1 f.2.1)) ∨
        (top ≤ f.1 ∧ (f ∈ back ∨ f.2.2 = 0 ∧ Clear back f.1 f.2.1)))) (less : k ≤ top) :
    Reads (packFields (8 * n) (fs ++ mid ++ back)) 0 gs := by
  refine reads_packFields fun f mem => ?_
  rw [Nat.zero_add]
  obtain ⟨inside, ⟨low, here⟩ | ⟨high, here⟩⟩ := each f mem
  · exact ⟨inside, ((lays_of_mem_or_clear apartFront here).append (middle.clear (.inl low))).append (rear.clear (.inl (low.trans less)))⟩
  · refine ⟨inside, Clear.append (clear_append (front.clear (.inr (by omega))) (middle.clear (.inr high))) ?_⟩
    exact lays_of_mem_or_clear apartBack here

/-! ## The status summary (Table 12-6) -/

/-- The fields of the summary line before the force list. -/
def summaryFront (s : State) : List (Nat × Nat × Nat) :=
  [(0, 1, s.straps), (1, 1, (s.working.map fun w => w.slot.val).getD 0xFF), (2, 6, s.stationTime.toNat),
   (8, 4, s.stationMs.toNat), (12, 1, s.queue.length), (13, 1, s.forceList.length)]

/-- The fields of the summary line after the posting queue. -/
def summaryBack (s : State) : List (Nat × Nat × Nat) :=
  [(34, 8, laneMarks fun l => (s.lane l).on.isSome), (42, 8, laneMarks fun l => (s.lane l).flags != 0),
   (50, 1, s.report.setup.isSome.toNat + 2 * s.report.flight.isSome.toNat + 4 * s.report.timer.code +
      16 * s.report.badIndex.toNat),
   (51, 1, s.report.thresholdCause.toNat + 2 * s.report.coalesceCause.toNat + 4 * s.report.urgentCause.toNat +
      128 * s.report.attention.toNat),
   (52, 2, s.report.w), (54, 2, s.report.h), (56, 2, s.report.unread), (58, 2, s.report.gap), (60, 1, s.report.queue.length)]

/-- The two lists of the summary line. -/
def summaryLists (s : State) : List (Nat × Nat × Nat) :=
  byteFields 14 (s.forceList.map Fin.val) ++ byteFields 18 (s.queue.map Fin.val)

theorem overlayValue_summary (s : State) :
    overlayValue s 0x1000 = packFields 512 (summaryFront s ++ summaryLists s ++ summaryBack s) := by
  have value : overlayValue s 0x1000 = statusSummary s := by
    unfold overlayValue
    rw [if_neg (by decide), if_pos rfl]
  rw [value]
  unfold summaryLists
  rw [← List.append_assoc]
  rfl

theorem within_summaryFront (s : State) : Within (summaryFront s) 0 14 := by simp [Within, summaryFront]

theorem within_summaryBack (s : State) : Within (summaryBack s) 34 61 := by simp [Within, summaryBack]

theorem within_summaryLists (forces : s.forceList.length ≤ 4) (waiting : s.queue.length ≤ 16) :
    Within (summaryLists s) 14 34 :=
  within_append ((within_byteFields 14 _).mono (Nat.le_refl _) (by rw [List.length_map]; omega))
    ((within_byteFields 18 _).mono (by decide) (by rw [List.length_map]; omega))

/-- The fixed fields of the summary line, the lists within their places. -/
theorem shows_summary (d : Line) (forces : s.forceList.length ≤ 4) (waiting : s.queue.length ≤ 16) :
    Shows (overlayLine s 0x1000 d) 0 (summaryFront s ++ summaryBack s) := by
  refine shows_whole d rfl ?_ (by simp [summaryFront, summaryBack])
  rw [overlayValue_summary]
  exact reads_around (n := 64) (within_summaryFront s) (within_summaryLists forces waiting)
    ((within_summaryBack s).mono (by decide) (by decide)) (by simp [summaryFront, Apart]) (by simp [summaryBack, Apart])
    (by simp [summaryFront, summaryBack]) (by decide)

theorem shows_straps (s : State) (d : Line) : Shows (overlayLine s 0x1000 d) 0 [(0, 1, s.straps)] := by
  refine shows_whole d rfl ?_ (by simp)
  rw [overlayValue_summary]
  refine reads_packFields fun f mem => ?_
  rw [List.mem_singleton.1 mem]
  refine ⟨by simp, Lays.append (Lays.append (lays_of_mem (f := (0, 1, s.straps)) (by simp [summaryFront])
    (by simp [summaryFront, Apart])) ?_) ((within_summaryBack s).clear (.inl (by simp)))⟩
  exact clear_append ((within_byteFields 14 _).clear (.inl (by simp))) ((within_byteFields 18 _).clear (.inl (by simp)))

/-- Place `j` of the force list. -/
theorem shows_force (d : Line) {j : Nat} (h : j < s.forceList.length) (low : j < 4) :
    Shows (overlayLine s 0x1000 d) 14 [(j, 1, s.forceList[j].val)] := by
  refine shows_whole d rfl ?_ (by simp; omega)
  rw [overlayValue_summary]
  refine reads_packFields fun f mem => ?_
  rw [List.mem_singleton.1 mem]
  have here : Lays (byteFields 14 (s.forceList.map Fin.val)) (14 + j) 1 s.forceList[j].val := by
    have := lays_byteFields (base := 14) (xs := s.forceList.map Fin.val) (i := j) (by rw [List.length_map]; exact h)
    rwa [List.getElem_map] at this
  refine ⟨by dsimp only; omega, (Clear.append ((within_summaryFront s).clear (.inr (by omega)))
    (here.append ((within_byteFields 18 _).clear (.inl (by omega))))).append
      ((within_summaryBack s).clear (.inl (by omega)))⟩

/-- Place `j` of the posting queue. -/
theorem shows_waiting (d : Line) {j : Nat} (h : j < s.queue.length) (low : j < 16) (forces : s.forceList.length ≤ 4) :
    Shows (overlayLine s 0x1000 d) 18 [(j, 1, s.queue[j].val)] := by
  refine shows_whole d rfl ?_ (by simp; omega)
  rw [overlayValue_summary]
  refine reads_packFields fun f mem => ?_
  rw [List.mem_singleton.1 mem]
  have here : Lays (byteFields 18 (s.queue.map Fin.val)) (18 + j) 1 s.queue[j].val := by
    have := lays_byteFields (base := 18) (xs := s.queue.map Fin.val) (i := j) (by rw [List.length_map]; exact h)
    rwa [List.getElem_map] at this
  refine ⟨by dsimp only; omega, (Clear.append ((within_summaryFront s).clear (.inr (by omega)))
    (Clear.append ((within_byteFields 14 _).clear (.inr ?_)) here)).append
      ((within_summaryBack s).clear (.inl (by omega)))⟩
  rw [List.length_map]
  omega

/-! ## The lane summary (Table 12-7) -/

theorem overlayValue_lane (s : State) (l : LaneId) : overlayValue s (0x2000 + 64 * l.val) = laneSummary s l := by
  have := l.isLt
  unfold overlayValue
  rw [if_neg (by omega), if_neg (by omega), if_neg (by omega), if_neg (by omega), if_pos (by omega),
    show (0x2000 + 64 * l.val - 0x2000) / 64 = l.val by omega, Fin.ofNat_val_eq_self]

theorem shows_lane (d : Line) (reads : Reads (laneSummary s l) k fs) (within : ∀ f ∈ fs, k + f.1 + f.2.1 ≤ 64) :
    Shows (overlayLine s (0x2000 + 64 * l.val) d) k fs := by
  have := l.isLt
  exact shows_whole d (overlayBytes_tables (by omega) (by omega)) (by rw [overlayValue_lane]; exact reads) within

theorem laneByte_eq (r : LaneRecord) (on : Bool) :
    laneByte r on = (if on then 3 else 2) + (if r.role = .source then 4 else 0) + 16 * r.zone.val := by
  unfold laneByte
  cases on <;> cases r.role <;> rfl

theorem reads_lane_unconfigured (record : (s.lane l).record = none) :
    Reads (laneSummary s l) 0 [(0, 44, 0), (44, 4, (s.lane l).flags.toNat), (48, 16, 0)] := by
  unfold laneSummary
  dsimp only
  rw [record]
  exact reads_of_literal (by simp [Apart]) (by simp [Clear])

theorem reads_lane_off (record : (s.lane l).record = some r) (on : (s.lane l).on = none) : Reads (laneSummary s l) 0
    [(0, 1, laneByte r false), (1, 32, 0), (33, 1, 0xFF), (34, 10, 0), (44, 4, (s.lane l).flags.toNat), (48, 16, 0)] := by
  unfold laneSummary
  dsimp only
  rw [record, on]
  exact reads_of_literal (by simp [Apart]) (by simp [Clear])

/-- The fields of an ON lane's summary before its alert stack. -/
def onFront (r : LaneRecord) (o : OnLane) : List (Nat × Nat × Nat) :=
  [(0, 1, laneByte r true), (1, 1, o.track.ingest.fields.1 + 2 * o.track.ingest.fields.2.2 + 16 * o.track.play.isSome.toNat),
   (2, 2, o.track.ingest.fields.2.1), (4, 2, o.track.play.getD 0), (6, 2, o.track.lastDecided.getD 0), (8, 4, o.track.fill),
   (12, 4, o.track.lead), (16, 4, o.track.estimate), (20, 1, o.clock.code),
   (21, 1, o.feed.state.code + 128 * o.feed.captureSeen.toNat), (22, 1, o.feed.good),
   (23, 1, insertionCode o + 128 * ((o.active.map ActiveInsertion.suspended).getD false).toNat),
   (24, 4, o.clock.captured), (28, 1, o.stack.length)]

/-- The place of the effective entry on the stack, FFh without one. -/
def effectivePlace (s : State) (o : OnLane) : Nat :=
  match effectiveEntry s o.stack with
  | some e => o.stack.findIdx fun x => x.id == e.id
  | none => 0xFF

/-- The interject entry in effect. -/
def interjectEntry (s : State) (o : OnLane) : Option StackEntry :=
  (effectiveEntry s o.stack).filter fun e => !isOverride s e.id

/-- The fields of an ON lane's summary after its alert stack. -/
def onBack (s : State) (o : OnLane) (flags : Nat) : List (Nat × Nat × Nat) :=
  [(33, 1, effectivePlace s o), (34, 1, ((interjectEntry s o).map fun e => e.due.toNat).getD 0),
   (35, 1, ((interjectEntry s o).map StackEntry.wait).getD 0), (36, 1, servedCode o.sel.served + 128 * o.sel.away.toNat),
   (37, 1, (o.cues.getLast?.map fun c => c.kind.code).getD 0),
   (38, 1, ((o.cues.getLast?.bind RecentCue.outcome).map CueRefusal.code).getD 0),
   (40, 4, (o.cues.getLast?.map fun c => c.event.toNat).getD 0), (44, 4, flags)]

theorem laneSummary_on (record : (s.lane l).record = some r) (on : (s.lane l).on = some o) : laneSummary s l = packFields 512
    (onFront r o ++ byteFields 29 (o.stack.map fun e => e.id.val) ++ onBack s o (s.lane l).flags.toNat) := by
  unfold laneSummary
  dsimp only
  rw [record, on]
  unfold onFront onBack effectivePlace interjectEntry onLaneFields
  dsimp only
  simp only [List.cons_append, List.nil_append, List.append_assoc] <;> rfl

theorem within_onFront (r : LaneRecord) (o : OnLane) : Within (onFront r o) 0 29 := by simp [Within, onFront]

theorem within_onBack (s : State) (o : OnLane) (flags : Nat) : Within (onBack s o flags) 33 64 := by simp [Within, onBack]

theorem within_stack (room : o.stack.length ≤ 4) : Within (byteFields 29 (o.stack.map fun e => e.id.val)) 29 33 :=
  (within_byteFields 29 _).mono (Nat.le_refl _) (by rw [List.length_map]; omega)

/-- The fixed fields of an ON lane's summary. -/
theorem reads_lane_on (record : (s.lane l).record = some r) (on : (s.lane l).on = some o) (room : o.stack.length ≤ 4) :
    Reads (laneSummary s l) 0 (onFront r o ++ (onBack s o (s.lane l).flags.toNat ++ [(39, 1, 0), (48, 16, 0)])) := by
  rw [laneSummary_on record on]
  exact reads_around (n := 64) (within_onFront r o) (within_stack room) (within_onBack s o _) (by simp [onFront, Apart])
    (by simp [onBack, Apart]) (by simp [onFront, onBack, Clear]) (by decide)

/-- Place `j` of the lane's alert stack. -/
theorem reads_lane_stack (record : (s.lane l).record = some r) (on : (s.lane l).on = some o) (room : o.stack.length ≤ 4)
    {j : Nat} (h : j < o.stack.length) : Reads (laneSummary s l) 29 [(j, 1, o.stack[j].id.val)] := by
  rw [laneSummary_on record on]
  refine reads_packFields fun f mem => ?_
  rw [List.mem_singleton.1 mem]
  have here : Lays (byteFields 29 (o.stack.map fun e => e.id.val)) (29 + j) 1 o.stack[j].id.val := by
    have := lays_byteFields (base := 29) (xs := o.stack.map fun e => e.id.val) (i := j) (by rw [List.length_map]; exact h)
    rwa [List.getElem_map] at this
  exact ⟨by dsimp only; omega, (Clear.append ((within_onFront r o).clear (.inr (by omega))) here).append
    ((within_onBack s o _).clear (.inl (by omega)))⟩

theorem effectivePlace_eq (s : State) (o : OnLane) : effectivePlace s o = match effectiveEntry s o.stack with
    | some e => (o.stack.map StackEntry.id).idxOf e.id
    | none => 0xFF := by
  unfold effectivePlace
  split
  · next e _ => rw [List.idxOf, List.findIdx_map] <;> rfl
  · rfl

theorem interjectEntry_eq (effective : effectiveEntry s o.stack = some e) (plain : isOverride s e.id = false) :
    interjectEntry s o = some e := by
  unfold interjectEntry
  rw [effective]
  simp [Option.filter, plain]

end Sys2Proof.Machine
end

section
/-! PROOF. The lane detail entry (R170, Table 12-7) and the overlays together: O28. -/

namespace Sys2Proof.Machine

variable {s : State} {n : Nat} {fs gs : List (Nat × Nat × Nat)} {f : Nat × Nat × Nat} {off size v k i : Nat} {d : Line}
  {l : LaneId} {r : LaneRecord} {o : OnLane} {e : StackEntry} {ln : Lane} {w : WaitingCue} {y : ActiveInsertion} {z : Outage}
  {c : Continuity}

/-! ## The parts of the lane detail entry -/

/-- The counters. -/
def countFields (ln : Lane) : List (Nat × Nat × Nat) := ln.counts.toList.zipIdx.map fun x => (4 * x.2, 4, x.1.toNat)

/-- The waiting cue. -/
def waitingFields (w : WaitingCue) : List (Nat × Nat × Nat) :=
  [(84, 1, w.kind.code), (85, 1, w.order.val), (88, 4, w.event.toNat), (92, 5, w.splice.toNat), (97, 5, w.ret.toNat)]

/-- The active insertion. -/
def activeFields (y : ActiveInsertion) : List (Nat × Nat × Nat) :=
  [(104, 1, y.kind.code), (105, 1, y.order.val), (106, 1, y.flags.byte.toNat), (107, 1, (cursorFields y.cursor).1),
   (108, 4, y.event.toNat), (112, 5, y.splice.toNat), (117, 5, y.ret.toNat), (122, 5, y.timeIn.toNat),
   (128, 4, (cursorFields y.cursor).2), (132, 4, countField y.served), (136, 4, countField y.shadow),
   (140, 4, countField y.underrun)]

/-- The outage record. -/
def outageFields (z : Outage) : List (Nat × Nat × Nat) :=
  [(144, 1, 1), (148, 5, z.start.toNat), (156, 4, z.served.toNat), (160, 4, z.underrun.toNat)]

/-- The context of a configured lane that is ON. -/
def Lane.shown (ln : Lane) : Option OnLane := ln.record.bind fun _ => ln.on

/-- The part of the waiting cue shown. -/
def Lane.waitingShown (ln : Lane) : List (Nat × Nat × Nat) := ((ln.shown.bind OnLane.waiting).map waitingFields).getD []

/-- The part of the active insertion shown. -/
def Lane.activeShown (ln : Lane) : List (Nat × Nat × Nat) := ((ln.shown.bind OnLane.active).map activeFields).getD []

/-- The part of the outage record shown. -/
def Lane.outageShown (ln : Lane) : List (Nat × Nat × Nat) :=
  ((ln.shown.bind fun o => o.feed.outage).map outageFields).getD []

/-- The map entries of a configured lane. -/
def Lane.mapShown (ln : Lane) : List (Nat × Nat × Nat) := (ln.record.map fun r => mapFields r ln.on).getD []

/-- The detail entry's fields. -/
def detailFields (ln : Lane) : List (Nat × Nat × Nat) :=
  countFields ln ++ (ln.waitingShown ++ (ln.activeShown ++ (ln.outageShown ++ ln.mapShown)))

theorem laneDetail_eq (s : State) (l : LaneId) : laneDetail s l = packFields 2048 (detailFields (s.lane l)) := by
  unfold laneDetail detailFields countFields Lane.waitingShown Lane.activeShown Lane.outageShown Lane.mapShown Lane.shown
    onDetailFields
  dsimp only
  cases (s.lane l).record with
  | none => rfl
  | some r =>
    cases (s.lane l).on with
    | none => rfl
    | some o =>
      dsimp only [Option.bind_some, Option.map_some, Option.getD_some]
      cases o.waiting <;> cases o.active <;> cases o.feed.outage <;> rfl

/-! ## The bands they lie in -/

theorem within_countFields (ln : Lane) : Within (countFields ln) 0 84 := fun f mem => by
  obtain ⟨⟨x, j⟩, isIn, rfl⟩ := List.mem_map.1 mem
  obtain ⟨-, inside, -⟩ := List.mem_zipIdx isIn
  have := ln.counts.size_toArray
  simp only [Vector.length_toList] at inside
  dsimp only
  omega

theorem within_getD {α : Type} {x : Option α} {g : α → List (Nat × Nat × Nat)} {low high : Nat}
    (each : ∀ y, Within (g y) low high) : Within ((x.map g).getD []) low high := by
  cases x with
  | none => exact fun f mem => (nomatch mem)
  | some y => exact each y

theorem within_waitingFields (w : WaitingCue) : Within (waitingFields w) 84 102 := by simp [Within, waitingFields]

theorem within_activeFields (y : ActiveInsertion) : Within (activeFields y) 104 144 := by simp [Within, activeFields]

theorem within_outageFields (z : Outage) : Within (outageFields z) 144 164 := by simp [Within, outageFields]

theorem mem_mapFields {on : Option OnLane} : f ∈ mapFields r on ↔
    ∃ j, j < r.labelMap.length ∧ f ∈ continuityFields j (on.bind fun o => o.sel.continuity[j]?) := by
  unfold mapFields
  rw [List.mem_flatMap]
  exact exists_congr fun j => and_congr_left fun _ => List.mem_range

theorem within_continuityFields (j : Nat) (c : Option Continuity) : Within (continuityFields j c) (168 + 3 * j) (171 + 3 * j) := by
  simp only [Within, continuityFields, List.forall_mem_cons]
  refine ⟨by omega, by omega, by omega, fun f mem => (nomatch mem)⟩

theorem within_mapFields (r : LaneRecord) (on : Option OnLane) :
    Within (mapFields r on) 168 (168 + 3 * r.labelMap.length) := fun f mem => by
  obtain ⟨j, inside, isIn⟩ := mem_mapFields.1 mem
  have := within_continuityFields j _ f isIn
  omega

theorem pairwise_mapFields (r : LaneRecord) (on : Option OnLane) : (mapFields r on).Pairwise Apart := by
  unfold mapFields
  rw [List.pairwise_flatMap]
  refine ⟨fun j _ => ?_, List.pairwise_lt_range.imp fun {a b} less x hx y hy => ?_⟩
  · simp only [continuityFields, Apart, List.pairwise_cons, List.forall_mem_cons]
    simp only [List.Pairwise.nil, List.not_mem_nil, false_imp_iff, implies_true, and_true]
    omega
  · have left := within_continuityFields a _ x hx
    have right := within_continuityFields b _ y hy
    exact .inl (by omega)

theorem clear_mapShown (past : off + size ≤ 168) : Clear ln.mapShown off size := by
  unfold Lane.mapShown
  cases ln.record with
  | none => exact fun f mem => (nomatch mem)
  | some r => exact (within_mapFields r ln.on).clear (.inl past)

theorem within_waitingShown (ln : Lane) : Within ln.waitingShown 84 102 := within_getD within_waitingFields

theorem within_activeShown (ln : Lane) : Within ln.activeShown 104 144 := within_getD within_activeFields

theorem within_outageShown (ln : Lane) : Within ln.outageShown 144 164 := within_getD within_outageFields

theorem pairwise_getD {α : Type} {x : Option α} {g : α → List (Nat × Nat × Nat)} (each : ∀ y, (g y).Pairwise Apart) :
    ((x.map g).getD []).Pairwise Apart := by
  cases x with
  | none => exact .nil
  | some y => exact each y

/-! ## What the entry lays in each band -/

theorem lays_countFields (ln : Lane) (i : Fin 21) : Lays (countFields ln) (4 * i.val) 4 ln.counts[i].toNat := by
  refine lays_of_mem (f := (4 * i.val, 4, ln.counts[i].toNat)) (List.mem_map.2 ⟨(ln.counts[i], i.val), ?_, rfl⟩) ?_
  · rw [List.mem_zipIdx_iff_getElem?]
    dsimp only
    rw [List.getElem?_eq_getElem (by rw [Vector.length_toList]; exact i.isLt), Vector.getElem_toList]
    rfl
  · unfold countFields
    rw [List.pairwise_map]
    refine (List.pairwise_iff_getElem.2 fun a b ha hb less => ?_)
    rw [List.getElem_zipIdx, List.getElem_zipIdx]
    left
    dsimp only
    omega

theorem lays_count (ln : Lane) (i : Fin 21) : Lays (detailFields ln) (4 * i.val) 4 ln.counts[i].toNat := by
  have := i.isLt
  exact (lays_countFields ln i).append (clear_append ((within_waitingShown ln).clear (.inl (by omega)))
    (clear_append ((within_activeShown ln).clear (.inl (by omega)))
      (clear_append ((within_outageShown ln).clear (.inl (by omega))) (clear_mapShown (by omega)))))

theorem lays_waiting (low : 84 ≤ off) (high : off + size ≤ 104)
    (here : (off, size, v) ∈ ln.waitingShown ∨ v = 0 ∧ Clear ln.waitingShown off size) : Lays (detailFields ln) off size v :=
  Clear.append ((within_countFields ln).clear (.inr low))
    ((lays_of_mem_or_clear (pairwise_getD fun w => by simp [waitingFields, Apart]) here).append
      (clear_append ((within_activeShown ln).clear (.inl high))
        (clear_append ((within_outageShown ln).clear (.inl (by omega))) (clear_mapShown (by omega)))))

theorem lays_active (low : 104 ≤ off) (high : off + size ≤ 144)
    (here : (off, size, v) ∈ ln.activeShown ∨ v = 0 ∧ Clear ln.activeShown off size) : Lays (detailFields ln) off size v :=
  Clear.append ((within_countFields ln).clear (.inr (by omega)))
    (Clear.append ((within_waitingShown ln).clear (.inr (by omega)))
      ((lays_of_mem_or_clear (pairwise_getD fun w => by simp [activeFields, Apart]) here).append
        (clear_append ((within_outageShown ln).clear (.inl high)) (clear_mapShown (by omega)))))

theorem lays_outage (low : 144 ≤ off) (high : off + size ≤ 168)
    (here : (off, size, v) ∈ ln.outageShown ∨ v = 0 ∧ Clear ln.outageShown off size) : Lays (detailFields ln) off size v :=
  Clear.append ((within_countFields ln).clear (.inr (by omega)))
    (Clear.append ((within_waitingShown ln).clear (.inr (by omega)))
      (Clear.append ((within_activeShown ln).clear (.inr (by omega)))
        ((lays_of_mem_or_clear (pairwise_getD fun w => by simp [outageFields, Apart]) here).append (clear_mapShown high))))

theorem lays_map (low : 168 ≤ off) (here : Lays ln.mapShown off size v) : Lays (detailFields ln) off size v :=
  Clear.append ((within_countFields ln).clear (.inr (by omega)))
    (Clear.append ((within_waitingShown ln).clear (.inr (by omega)))
      (Clear.append ((within_activeShown ln).clear (.inr (by omega)))
        (Clear.append ((within_outageShown ln).clear (.inr (by omega))) here)))

/-- A lane that is OFF or unconfigured shows no waiting cue, insertion or outage record. -/
theorem lays_unshown (unshown : ln.shown = none) (low : 84 ≤ off) (high : off + size ≤ 168) :
    Lays (detailFields ln) off size 0 := by
  unfold detailFields Lane.waitingShown Lane.activeShown Lane.outageShown
  rw [unshown]
  exact (clear_append ((within_countFields ln).clear (.inr low)) (clear_mapShown high)).lays

/-! ## The lines of the entry -/

theorem shows_detail (d : Line) {q : Nat} (line : q < 4) (reads : Reads (laneDetail s l) (64 * q + k) fs)
    (within : ∀ f ∈ fs, k + f.1 + f.2.1 ≤ 64) : Shows (overlayLine s (0x8000 + 256 * l.val + 64 * q) d) k fs := by
  have := l.isLt
  refine shows_whole d ?_ ?_ within
  · unfold overlayBytes
    rw [if_neg (by omega), if_neg (by omega), if_neg (by omega), if_neg (by omega), if_neg (by omega), if_pos (by omega)]
  · unfold overlayValue
    rw [if_neg (by omega), if_neg (by omega), if_neg (by omega), if_neg (by omega), if_neg (by omega), if_neg (by omega),
      if_neg (by omega), if_neg (by omega), show (0x8000 + 256 * l.val + 64 * q - 0x8000) / 256 = l.val by omega,
      show (0x8000 + 256 * l.val + 64 * q - 0x8000) / 64 % 4 = q by omega, Fin.ofNat_val_eq_self]
    exact reads_line reads within

/-- Fields of line `q` of the entry, each laid by the entry's fields. -/
theorem shows_laid (d : Line) {q : Nat} (line : q < 4) (each : ∀ f ∈ fs, k + f.1 + f.2.1 ≤ 64 ∧
    Lays (detailFields (s.lane l)) (64 * q + k + f.1) f.2.1 f.2.2) :
    Shows (overlayLine s (0x8000 + 256 * l.val + 64 * q) d) k fs := by
  refine shows_detail d line ?_ fun f mem => (each f mem).1
  rw [laneDetail_eq]
  exact reads_packFields fun f mem => ⟨by have := (each f mem).1; omega, (each f mem).2⟩

theorem shows_count (s : State) (d : Line) (l : LaneId) (i : Fin 21) :
    Shows (overlayLine s (0x8000 + 256 * l.val + 64 * (i.val / 16)) d) (4 * (i.val % 16))
      [(0, 4, (s.lane l).counts[i].toNat)] := by
  have := i.isLt
  refine shows_laid d (by omega) fun f mem => ?_
  rw [List.mem_singleton.1 mem]
  refine ⟨by dsimp only; omega, ?_⟩
  have place : 64 * (i.val / 16) + 4 * (i.val % 16) + 0 = 4 * i.val := by omega
  dsimp only
  rw [place]
  exact lays_count (s.lane l) i

/-- Fields of line 1 in the waiting cue's band. -/
theorem shows_of_waiting (d : Line) (each : ∀ f ∈ fs, 84 ≤ 64 + k + f.1 ∧ 64 + k + f.1 + f.2.1 ≤ 104 ∧
    ((64 + k + f.1, f.2.1, f.2.2) ∈ (s.lane l).waitingShown ∨
      f.2.2 = 0 ∧ Clear (s.lane l).waitingShown (64 + k + f.1) f.2.1)) :
    Shows (overlayLine s (0x8000 + 256 * l.val + 64 * 1) d) k fs :=
  shows_laid d (by decide) fun f mem => by
    obtain ⟨low, high, here⟩ := each f mem
    exact ⟨by omega, lays_waiting low high here⟩

/-- Fields of a line in the active insertion's band. -/
theorem shows_of_active (d : Line) {q : Nat} (line : q < 4) (each : ∀ f ∈ fs, k + f.1 + f.2.1 ≤ 64 ∧
    104 ≤ 64 * q + k + f.1 ∧ 64 * q + k + f.1 + f.2.1 ≤ 144 ∧
    ((64 * q + k + f.1, f.2.1, f.2.2) ∈ (s.lane l).activeShown ∨
      f.2.2 = 0 ∧ Clear (s.lane l).activeShown (64 * q + k + f.1) f.2.1)) :
    Shows (overlayLine s (0x8000 + 256 * l.val + 64 * q) d) k fs :=
  shows_laid d line fun f mem => by
    obtain ⟨inside, low, high, here⟩ := each f mem
    exact ⟨inside, lays_active low high here⟩

/-- Fields of line 2 in the outage record's band. -/
theorem shows_of_outage (d : Line) (each : ∀ f ∈ fs, 144 ≤ 128 + k + f.1 ∧ 128 + k + f.1 + f.2.1 ≤ 168 ∧
    ((128 + k + f.1, f.2.1, f.2.2) ∈ (s.lane l).outageShown ∨
      f.2.2 = 0 ∧ Clear (s.lane l).outageShown (128 + k + f.1) f.2.1)) :
    Shows (overlayLine s (0x8000 + 256 * l.val + 64 * 2) d) k fs :=
  shows_laid d (by decide) fun f mem => by
    obtain ⟨low, high, here⟩ := each f mem
    exact ⟨by omega, lays_outage low high here⟩

/-- The last count a map entry shows. -/
def lastField (c : Option Continuity) : Nat :=
  match c.bind Continuity.last with
  | some n => n.toNat
  | none => 16

section
variable (record : (s.lane l).record = some r) (on : (s.lane l).on = some o)
include record on

theorem shown_on : (s.lane l).shown = some o := by
  unfold Lane.shown
  rw [record, on]
  rfl

theorem waitingShown_on : (s.lane l).waitingShown = (o.waiting.map waitingFields).getD [] := by
  unfold Lane.waitingShown
  rw [shown_on record on]
  rfl

theorem activeShown_on : (s.lane l).activeShown = (o.active.map activeFields).getD [] := by
  unfold Lane.activeShown
  rw [shown_on record on]
  rfl

theorem outageShown_on : (s.lane l).outageShown = (o.feed.outage.map outageFields).getD [] := by
  unfold Lane.outageShown
  rw [shown_on record on]
  rfl

theorem shows_waitingCue (d : Line) (waiting : o.waiting = some w) : Shows (overlayLine s (0x8000 + 256 * l.val + 64 * 1) d) 20
    [(0, 1, w.kind.code), (1, 1, w.order.val), (4, 4, w.event.toNat), (8, 5, w.splice.toNat), (13, 5, w.ret.toNat)] := by
  have here : (s.lane l).waitingShown = waitingFields w := by rw [waitingShown_on record on, waiting]; rfl
  exact shows_of_waiting d (by simp [here, waitingFields])

theorem shows_noWaitingCue (d : Line) (waiting : o.waiting = none) :
    Shows (overlayLine s (0x8000 + 256 * l.val + 64 * 1) d) 20 [(0, 18, 0)] := by
  have here : (s.lane l).waitingShown = [] := by rw [waitingShown_on record on, waiting]; rfl
  exact shows_of_waiting d (by simp [here, Clear])

theorem shows_insertion (d : Line) (active : o.active = some y) : Shows (overlayLine s (0x8000 + 256 * l.val + 64 * 1) d) 40
    [(0, 1, y.kind.code), (1, 1, y.order.val), (2, 1, y.flags.byte.toNat), (3, 1, (cursorFields y.cursor).1),
     (4, 4, y.event.toNat), (8, 5, y.splice.toNat), (13, 5, y.ret.toNat), (18, 5, y.timeIn.toNat)] := by
  have here : (s.lane l).activeShown = activeFields y := by rw [activeShown_on record on, active]; rfl
  exact shows_of_active d (by decide) (by simp [here, activeFields])

theorem shows_noInsertion (d : Line) (active : o.active = none) :
    Shows (overlayLine s (0x8000 + 256 * l.val + 64 * 1) d) 40 [(0, 24, 0)] := by
  have here : (s.lane l).activeShown = [] := by rw [activeShown_on record on, active]; rfl
  exact shows_of_active d (by decide) (by simp [here, Clear])

theorem shows_insertionCounts (d : Line) (active : o.active = some y) :
    Shows (overlayLine s (0x8000 + 256 * l.val + 64 * 2) d) 0 [(0, 4, (cursorFields y.cursor).2), (4, 4, countField y.served),
      (8, 4, countField y.shadow), (12, 4, countField y.underrun)] := by
  have here : (s.lane l).activeShown = activeFields y := by rw [activeShown_on record on, active]; rfl
  exact shows_of_active d (by decide) (by simp [here, activeFields])

theorem shows_noInsertionCounts (d : Line) (active : o.active = none) :
    Shows (overlayLine s (0x8000 + 256 * l.val + 64 * 2) d) 0 [(0, 16, 0)] := by
  have here : (s.lane l).activeShown = [] := by rw [activeShown_on record on, active]; rfl
  exact shows_of_active d (by decide) (by simp [here, Clear])

theorem shows_outage (d : Line) (outage : o.feed.outage = some z) : Shows (overlayLine s (0x8000 + 256 * l.val + 64 * 2) d) 16
    [(0, 1, 1), (4, 5, z.start.toNat), (12, 4, z.served.toNat), (16, 4, z.underrun.toNat)] := by
  have here : (s.lane l).outageShown = outageFields z := by rw [outageShown_on record on, outage]; rfl
  exact shows_of_outage d (by simp [here, outageFields])

theorem shows_noOutage (d : Line) (outage : o.feed.outage = none) :
    Shows (overlayLine s (0x8000 + 256 * l.val + 64 * 2) d) 16 [(0, 24, 0)] := by
  have here : (s.lane l).outageShown = [] := by rw [outageShown_on record on, outage]; rfl
  exact shows_of_outage d (by simp [here, Clear])

end

/-! ## Map entries, and a lane that is OFF or unconfigured -/

theorem mapShown_configured (record : (s.lane l).record = some r) : (s.lane l).mapShown = mapFields r (s.lane l).on := by
  unfold Lane.mapShown
  rw [record]
  rfl

/-- A map entry's last count, delta and pending mark. -/
theorem shows_mapEntry (record : (s.lane l).record = some r) (d : Line) (eight : i < 8) (inside : i < r.labelMap.length)
    {c : Option Continuity} (entry : (s.lane l).on.bind (fun o => o.sel.continuity[i]?) = c) :
    Shows (overlayLine s (0x8000 + 256 * l.val + 64 * 2) d) (40 + 3 * i)
      [(0, 1, lastField c), (1, 1, (c.map fun x => x.delta.toNat).getD 0), (2, 1, (c.map fun x => x.pending.toNat).getD 0)] := by
  have lays : ∀ g, g ∈ continuityFields i c → Lays (s.lane l).mapShown g.1 g.2.1 g.2.2 := fun g isIn => by
    rw [mapShown_configured record]
    exact lays_of_mem (mem_mapFields.2 ⟨i, inside, by rw [entry]; exact isIn⟩) (pairwise_mapFields r _)
  have place : ∀ j, 64 * 2 + (40 + 3 * i) + j = 168 + j + 3 * i := by omega
  refine shows_laid d (by decide) ?_
  simp only [List.forall_mem_cons, place]
  simp only [continuityFields, List.forall_mem_cons] at lays
  obtain ⟨last, delta, pending, -⟩ := lays
  exact ⟨⟨by omega, lays_map (by omega) last⟩, ⟨by omega, lays_map (by omega) delta⟩, ⟨by omega, lays_map (by omega) pending⟩,
    nofun⟩

/-- Past the label map there is no entry. -/
theorem shows_noMapEntry (record : (s.lane l).record = some r) (d : Line) (eight : i < 8) (past : r.labelMap.length ≤ i) :
    Shows (overlayLine s (0x8000 + 256 * l.val + 64 * 2) d) (40 + 3 * i) [(0, 1, 0), (1, 1, 0), (2, 1, 0)] := by
  have clear_ : ∀ j, 168 + 3 * i ≤ j → Lays (detailFields (s.lane l)) j 1 0 := fun j low => by
    refine lays_map (by omega) (Clear.lays ?_)
    rw [mapShown_configured record]
    exact (within_mapFields r _).clear (.inr (by omega))
  refine shows_laid d (by decide) ?_
  simp only [List.forall_mem_cons]
  exact ⟨⟨by omega, clear_ _ (by omega)⟩, ⟨by omega, clear_ _ (by omega)⟩, ⟨by omega, clear_ _ (by omega)⟩, nofun⟩

theorem shows_unmapped (record : (s.lane l).record = none) (d : Line) :
    Shows (overlayLine s (0x8000 + 256 * l.val + 64 * 2) d) 40 [(0, 24, 0)] := by
  refine shows_laid d (by decide) fun f mem => ?_
  rw [List.mem_singleton.1 mem]
  refine ⟨by decide, lays_map (by decide) (Clear.lays ?_)⟩
  unfold Lane.mapShown
  rw [record]
  exact fun f mem => (nomatch mem)

/-- A label map of 8 entries or fewer ends with line 2. -/
theorem shows_spareLine (d : Line) (room : ∀ r, (s.lane l).record = some r → r.labelMap.length ≤ 8) :
    Shows (overlayLine s (0x8000 + 256 * l.val + 64 * 3) d) 0 [(0, 64, 0)] := by
  refine shows_laid d (by decide) fun f mem => ?_
  rw [List.mem_singleton.1 mem]
  refine ⟨by decide, lays_map (by decide) (Clear.lays ?_)⟩
  cases record : (s.lane l).record with
  | none =>
    unfold Lane.mapShown
    rw [record]
    exact fun f mem => (nomatch mem)
  | some r =>
    have := room r record
    rw [mapShown_configured record]
    exact (within_mapFields r _).clear (.inr (by omega))

theorem shown_none (off_ : (s.lane l).on = none ∨ (s.lane l).record = none) : (s.lane l).shown = none := by
  unfold Lane.shown
  rcases off_ with h | h
  · rw [h]
    cases (s.lane l).record <;> rfl
  · rw [h]
    rfl

theorem shows_unshown (d : Line) (off_ : (s.lane l).on = none ∨ (s.lane l).record = none) :
    Shows (overlayLine s (0x8000 + 256 * l.val + 64 * 1) d) 20 [(0, 44, 0)] ∧
      Shows (overlayLine s (0x8000 + 256 * l.val + 64 * 2) d) 0 [(0, 40, 0)] := by
  have unshown := shown_none off_
  refine ⟨shows_laid d (by decide) fun f mem => ?_, shows_laid d (by decide) fun f mem => ?_⟩
  · rw [List.mem_singleton.1 mem]
    exact ⟨by decide, lays_unshown unshown (by decide) (by decide)⟩
  · rw [List.mem_singleton.1 mem]
    exact ⟨by decide, lays_unshown unshown (by decide) (by decide)⟩

theorem cursorFields_place (y : Option ClipCursor) : (cursorFields y).1 = match y with
    | none => 0xFF
    | some (.playlist k _) => k
    | some (.pad _) => 6
    | some .exhausted => 7 := by
  unfold cursorFields
  split <;> rfl

theorem cursorFields_packet (y : Option ClipCursor) : (cursorFields y).2 = match y with
    | some (.playlist _ k) => k
    | some (.pad k) => k
    | _ => 0 := by
  unfold cursorFields
  split <;> rfl

/-- Some of the fields a line shows. -/
theorem Shows.subset {x : Line} (shown : Shows x k fs) (part : ∀ f ∈ gs, f ∈ fs) : Shows x k gs := fun f mem =>
  shown f (part f mem)

end Sys2Proof.Machine
end

section
/-! PROOF. The overlaid read (R157): O28. -/

namespace Sys2Proof.Machine

variable {s : State} {d : Line} {l : LaneId} {r : LaneRecord} {o : OnLane} {k : OrderId} {b : OrderBody} {w : WaitingCue}
  {y : ActiveInsertion}

/-- The lines read next are no part of an overlay. -/
theorem overlayLine_memReads (s : State) (rest : List MemRead) (off : Nat) (d : Line) :
    overlayLine { s with memReads := rest } off d = overlayLine s off d := rfl

theorem exec_overlayReadReturn_of_due {err : Bool} {a : Addr} {off : Nat} {rest : List MemRead}
    (due : nextDue s.memReads = some (.up a (.overlay off), rest)) : exec (.overlayReadReturn d err) s =
      .next { s with memReads := rest, upPort := some { addr := a, data := overlayLine s off d, err := err } } := by
  have returned : exec (.overlayReadReturn d err) s = returnUp d err s := rfl
  rw [returned, returnUp, due, ← overlayLine_memReads s rest]
  rfl

theorem orderEvent_of_bound (bound : (s.order k).state = .bound) (on : (s.lane b.lane).on = some o)
    (waiting : o.waiting = some w) : orderEvent s k b = w.event.toNat := by
  unfold orderEvent
  rw [bound, on]
  dsimp only [Option.bind_some]
  rw [waiting]
  rfl

theorem orderEvent_of_active (serving : (s.order k).state = .active) (on : (s.lane b.lane).on = some o)
    (active : o.active = some y) : orderEvent s k b = y.event.toNat := by
  unfold orderEvent
  rw [serving, on]
  dsimp only [Option.bind_some]
  rw [active]
  rfl

/-- The set of 64 lane marks from byte `k` of the summary line. -/
theorem mark_of_summary {f : LaneId → Bool} {x : Line} {k : Nat} (shown : Shows x 0 [(k, 8, laneMarks f)]) (l : LaneId) :
    (getByte x (k + l.val / 8)).getLsbD (l.val % 8) = f l := by
  have := shown _ (List.mem_singleton_self _)
  rw [Nat.zero_add] at this
  rw [getByte_bit_of_field this (show l.val < 8 * 8 from l.isLt), testBit_laneMarks]

theorem isLive_eq (b : OrderBody) : b.isLive.toNat = match b.source with
    | .live _ _ _ => 1
    | .clips _ _ => 0 := by
  unfold OrderBody.isLive
  cases b.source <;> rfl

theorem ingestFields_sync (x : IngestCursor) : x.fields.1 + 2 * x.fields.2.2 = match x with
    | .synchronised _ e => 1 + 2 * e
    | .unsynchronised => 0 := by
  cases x <;> rfl

theorem ingestFields_slot (x : IngestCursor) : x.fields.2.1 = match x with
    | .synchronised i _ => i
    | .unsynchronised => 0 := by
  cases x <;> rfl

theorem countField_of_small {n : Nat} (small : n < 2 ^ 32) : countField n = n := if_pos small

/-- One field of a line, counted from its own place. -/
theorem Shows.at_ {x : Line} {fs : List (Nat × Nat × Nat)} {k off size v : Nat} (shown : Shows x k fs)
    (mem : (off, size, v) ∈ fs) : Shows x (k + off) [(0, size, v)] := fun f isIn => by
  rw [List.mem_singleton.1 isIn]
  exact shown _ mem

/-- Settles O28. -/
theorem overlayShowsLiveValues : Obligations.OverlayShowsLiveValues := by
  unfold Obligations.OverlayShowsLiveValues
  intro d err s a off rest due
  refine ⟨overlayLine s off d, exec_overlayReadReturn_of_due due, fun k n bytes j => getByte_overlayLine_outside s d bytes,
    fun k at_ => ?_, fun at_ unset => ?_, fun at_ set => ?_, fun at_ => ?_, fun al b at_ body => ?_, fun al at_ body => ?_,
    fun l r at_ record on => ?_, fun l at_ record => ?_, fun l r o at_ record on room => ?_, fun l c at_ => ?_,
    fun l r o record on => ?_, fun l off_ => ?_, fun l at_ room => ?_, fun k b at_ body => ?_, fun k at_ body => ?_,
    fun c => ⟨fun at_ => ?_, fun at_ => ?_⟩⟩
  · subst at_
    exact shows_goWord s d k
  · subst at_
    exact shows_index_unset d unset
  · subst at_
    exact shows_index d set
  · subst at_
    refine ⟨fun straps released => ?_, fun l forces waiting => ?_, fun j h low => shows_force d h low,
      fun j h low forces => shows_waiting d h low forces, fun forces waiting => ?_⟩
    · have shown := shows_straps s d
      unfold State.straps at shown
      rw [released] at shown
      exact shown
    · have shown := shows_summary d forces waiting
      exact ⟨mark_of_summary (k := 34) (f := fun l => (s.lane l).on.isSome) (shown.subset (by simp [summaryBack])) l,
        mark_of_summary (k := 42) (f := fun l => (s.lane l).flags != 0) (shown.subset (by simp [summaryBack])) l⟩
    · exact (shows_summary d forces waiting).subset (gs := (summaryFront s).drop 1 ++ (summaryBack s).drop 2) fun f mem =>
        List.mem_append.2 ((List.mem_append.1 mem).imp List.mem_of_mem_drop List.mem_of_mem_drop)
  · subst at_
    have shown := shows_alert d al (reads_alertEntry body) (by simp)
    rw [modeBit_eq] at shown
    exact ⟨shown, fun lb n mode => shows_alert d al (reads_interject body mode) (by simp)⟩
  · subst at_
    refine shows_alert d al ?_ (by simp)
    rw [alertEntry_empty body]
    exact reads_zero (by simp)
  · subst at_
    have shown := shows_lane d (reads_lane_off record on) (by simp)
    rw [laneByte_eq] at shown
    exact shown
  · subst at_
    exact shows_lane d (reads_lane_unconfigured record) (by simp)
  · subst at_
    have fixed := reads_lane_on record on room
    refine ⟨?_, fun j h => shows_lane d (reads_lane_stack record on room h) (by simp; omega), fun e effective plain => ?_⟩
    · have shown : Shows (overlayLine s (0x2000 + 64 * l.val) d) 0 ((0, 1, laneByte r true) ::
          (1, 1, o.track.ingest.fields.1 + 2 * o.track.ingest.fields.2.2 + 16 * o.track.play.isSome.toNat) ::
          (2, 2, o.track.ingest.fields.2.1) :: (onFront r o).drop 3 ++
          ((33, 1, effectivePlace s o) :: ((onBack s o (s.lane l).flags.toNat).drop 3).take 3) ++
          ((39, 1, 0) :: (onBack s o (s.lane l).flags.toNat).drop 6) ++ [(48, 16, 0)]) :=
        shows_lane d (fun f mem => fixed f (by revert f; simp [onFront, onBack])) (by simp [onFront, onBack])
      rw [laneByte_eq, ingestFields_sync, ingestFields_slot, effectivePlace_eq] at shown
      exact shown
    · have due := fixed (34, 1, ((interjectEntry s o).map fun e => e.due.toNat).getD 0) (by simp [onBack])
      have wait := fixed (35, 1, ((interjectEntry s o).map StackEntry.wait).getD 0) (by simp [onBack])
      rw [interjectEntry_eq effective plain] at due wait
      exact shows_lane d (k := 34) (List.forall_mem_cons.2 ⟨due, List.forall_mem_cons.2 ⟨wait, nofun⟩⟩) (by simp)
  · subst at_
    exact shows_count s d l c.place
  · refine ⟨fun w at_ waiting => ?_, fun y at_ active => ?_, fun y at_ active => ?_, fun z at_ outage => ?_, fun at_ waiting => ?_,
      fun at_ active => ?_, fun at_ active => ?_, fun at_ outage => ?_, fun i c at_ eight inside entry => ?_⟩
    · subst at_
      exact shows_waitingCue record on d waiting
    · subst at_
      have shown := shows_insertion record on d active
      rw [cursorFields_place] at shown
      exact shown
    · subst at_
      have shown := shows_insertionCounts record on d active
      rw [cursorFields_packet] at shown
      refine ⟨shown.at_ (List.mem_cons_self ..), fun small => ?_, fun small => ?_, fun small => ?_⟩
      · rw [← countField_of_small small]
        exact shown.at_ (off := 4) (by simp)
      · rw [← countField_of_small small]
        exact shown.at_ (off := 8) (by simp)
      · rw [← countField_of_small small]
        exact shown.at_ (off := 12) (by simp)
    · subst at_
      exact shows_outage record on d outage
    · subst at_
      exact shows_noWaitingCue record on d waiting
    · subst at_
      exact shows_noInsertion record on d active
    · subst at_
      exact shows_noInsertionCounts record on d active
    · subst at_
      exact shows_noOutage record on d outage
    · subst at_
      exact shows_mapEntry record d eight inside (c := some c) (by rw [on]; exact entry)
  · refine ⟨fun at_ => ?_, fun at_ => ?_, fun at_ record => ?_, fun r i at_ record eight => ?_⟩
    · subst at_
      exact (shows_unshown d off_).1
    · subst at_
      exact (shows_unshown d off_).2
    · subst at_
      exact shows_unmapped record d
    · subst at_
      have on : (s.lane l).on = none := off_.resolve_right (by rw [record]; exact nofun)
      by_cases inside : i < r.labelMap.length
      · rw [if_pos inside]
        exact shows_mapEntry record d eight inside (c := none) (by rw [on]; rfl)
      · rw [if_neg inside]
        exact shows_noMapEntry record d eight (by omega)
  · subst at_
    exact shows_spareLine d room
  · subst at_
    have shown := shows_order d k (reads_orderEntry body) (by simp)
    refine ⟨?_, fun o on => ⟨fun w bound waiting => ?_, fun y serving active => ?_⟩⟩
    · have fixed := shown.subset (gs := [(0, 1, (s.order k).state.code), (1, 1, b.lane.val),
        (2, 1, b.isLive.toNat + 2 * (s.order k).unlimited.toNat + 4 * (s.order k).abort.toNat), (3, 1, (s.order k).remaining)])
        (by simp)
      rw [isLive_eq] at fixed
      exact fixed
    · rw [← orderEvent_of_bound bound on waiting]
      exact shown.subset (by simp)
    · rw [← orderEvent_of_active serving on active]
      exact shown.subset (by simp)
  · subst at_
    refine shows_order d k ?_ (by simp)
    rw [orderEntry_empty body]
    exact reads_zero (by simp)
  · subst at_
    exact shows_clip d c (reads_clipEntry s c) (by simp)
  · subst at_
    exact shows_clipAddress d c (reads_clipAddressEntry s c) (by simp)

end Sys2Proof.Machine
end
